-- ==== Sys2Proof/Word.lean ====
section
/-! DEFINITION. The machine's word types. Bit 0 is the least significant bit of every one of them (00 R1). -/
namespace Sys2Proof

/-- A 64-bit scalar: a g register, an S or C bus value, a double of memory (02 R23, 05 R99). -/
abbrev W64 := BitVec 64

/-- A word of code: header word, move word or literal word (04 R74). -/
abbrev W32 := BitVec 32

/-- A byte of memory (00 R2). -/
abbrev Byte := BitVec 8

end Sys2Proof
end

