-- ==== Sys2Proof/Config.lean ====
section
/-! DEFINITION. What the spec leaves open and the machine goes on with: free values, opaque so that nothing can be
proved of their value; and the fixed facts of the module. -/
namespace Sys2Proof.Config

/-- A fresh 64-bit value for each index (log 5): what a peer device answers, and other values from outside. -/
opaque freeWord : Nat → BitVec 64

/-- A free choice between two outcomes the spec allows (log 5). -/
opaque freeBit : Nat → Bool

/-- Where, within the bound of 14 R326, the result of shipped SF function `slot` in a format steps from number `c` of a
sign to the next (log 8). -/
opaque shippedStep : (slot : Nat) → (fmt : Nat) → (negative : Bool) → (c : Nat) → Nat

/-- The NX-3 unit's function of a slot on an input of a format, bits and flags (14 R332) (log 8). -/
opaque nx3Fn : (slot : Nat) → (fmt : Nat) → BitVec 64 → BitVec 64
opaque nx3Flags : (slot : Nat) → (fmt : Nat) → BitVec 64 → BitVec 7

/-- ML-DSA-87 verification under a key slot of the security processor: digest and signature bytes (log 9). -/
opaque verifies : (key : Nat) → (digest : BitVec 512) → (signature : List (BitVec 8)) → Bool

/-- The key slot that stands for the key hash in fuses, under which firmware is verified (16 R373) (log 81). -/
def firmwareKey : Nat := 16

/-- The signature the device identity key gives a digest (16 R374) (log 9). -/
opaque attest : BitVec 512 → List (BitVec 8)

/-- The security processor's random source (11 R237) (log 9). -/
opaque random : Nat → BitVec 64

/-- The cluster-window offset of a row's THRESH (log 14). -/
opaque threshOffset : (row : Nat) → Nat

/-- The row of a slice that holds the granule at an offset (16 R371) (log 75). -/
opaque rowOf : (offset : Nat) → Nat

/-- A word of the shipped bank's table RAM (14 R329) (log 86). -/
opaque shippedTable : (index : Nat) → BitVec 64

/-- What a shipped slot's microprogram makes of an element once a package has set table words, and its flags: by slot, format
number, those words and the element (14 R329, R331) (log 86). -/
opaque patchedFn : (slot : Nat) → (fmt : Nat) → (table : List (Nat × BitVec 64)) → (x : Nat) → Nat
opaque patchedFlags : (slot : Nat) → (fmt : Nat) → (table : List (Nat × BitVec 64)) → (x : Nat) → BitVec 7

/-- What a microprogram makes of an element whose REDUCE has no integer to round to, its product not being finite (14 R330), and
its flags: by the slot's image, the table words loaded, format number and element (log 119). -/
opaque reducedFn : (image : List (BitVec 64)) → (table : List (Nat × BitVec 64)) → (fmt : Nat) → (x : Nat) → Nat
opaque reducedFlags : (image : List (BitVec 64)) → (table : List (Nat × BitVec 64)) → (fmt : Nat) → (x : Nat) → BitVec 7

/-- What stands in a byte of a collective's DST until its ticket is READY (18 R404): by tile, trigger order and offset (log
79). -/
opaque collByte : (tile : Nat) → (id : Nat) → (offset : Nat) → BitVec 8

/-- Tiles of the module (01 R11). -/
def tiles : Nat := 16384
/-- Entries of the write log (10 R212). -/
def logEntries : Nat := 4096
/-- Records of a tile's overflow area (10 R214). -/
def overflowRecords : Nat := 65536
/-- Places of a cluster's job queue (13 R289). -/
def jobEntries : Nat := 64

/-- Entries of a slice's ticket table (11 R239). -/
def ticketEntries : Nat := 2048
/-- The device feature vector (17 R384). -/
def featureVector : List (BitVec 64) := [0x0000000000800080, 0x000000000000000F, 0, 0]

end Sys2Proof.Config
end

