-- ==== Sys2Proof/Syntax.lean ====
section
/-! DEFINITION. The syntax of the NX-5: buses, sockets, sources, destinations (chapters 02, 04), and Instr, one
constructor for each row of the opcode table: the plain transport MOVE, the 187 trigger moves, and the 91 events that
happen beside the bundle stream (spec/95). -/
namespace Sys2Proof

/-- The ten buses of a tile (02 R23), in the order of the header's BUSMASK (04 R77). -/
inductive Bus where
  | s0 | s1 | s2 | v0 | v1 | v2 | v3 | m0 | c0 | c1
  deriving DecidableEq, Repr

/-- The fifteen sockets, in the order of their numbers 0 to 14 (02 R30). -/
inductive Sock where
  | cu | ia0 | ia1 | im | au | sy | ch | cp | va | vf0 | vf1 | vx | gp | sf | mx
  deriving DecidableEq, Repr

/-- The four link directions: west, east, north, south (02 R49), numbered 0 to 3 as in 15 R335. -/
inductive Dir where
  | w | e | n | s
  deriving DecidableEq, Repr

/-- The special registers (04 R90). -/
inductive SReg where
  | pc | rrc | flm | fpc | tvec | tpc | tcause | taddr | tstat | tid | gid | grank | gshape | phn | wth | lnkstat
  | lc (n : BitVec 2) | le (n : BitVec 2) | ls (n : BitVec 2)
  deriving DecidableEq, Repr

/-- The stream queues: the head read by one operand position of VA, VF0 or VF1 (04 R86, 13 R308), in the order of
their queue numbers 0 to 5. -/
inductive StreamQ where
  | vaO0 | vaO1 | vf0O0 | vf0O1 | vf1O0 | vf1O1
  deriving DecidableEq, Repr

/-- The port sources of class 110 (04 R86). -/
inductive PortSrc where
  | link (d : Dir) | inbox | gl | spr | sq (q : StreamQ)
  deriving DecidableEq, Repr

/-- The four forms of a literal (04 R84); form 01 reads a second word, held here. -/
inductive LitForm where
  | sx31 | sx62 (hi : BitVec 31) | zx31 | sh31
  deriving DecidableEq, Repr

/-- A move's source (04 R83). A literal carries the bits [30:0] of the words it names. -/
inductive Src where
  | g (i : BitVec 6)
  | res (s : Sock) (res2 : Bool)
  | imm (v : BitVec 9)
  | lit (i : BitVec 3) (lo : BitVec 31) (form : LitForm)
  | v (i : BitVec 5)
  | p (i : BitVec 4)
  | q (i : BitVec 3)
  | port (p : PortSrc)
  | spec (r : SReg)
  deriving DecidableEq, Repr

/-- The destination of a plain transport (04 R87, R88). -/
inductive Dst where
  | g (i : BitVec 6)
  | v (i : BitVec 5)
  | p (n : BitVec 4)
  | q (n : BitVec 3)
  | spec (r : SReg)
  | link (d : Dir)
  | spr
  | opnd (s : Sock) (port : BitVec 2) (e : Bool)
  deriving DecidableEq, Repr

/-- What every move word carries beside its destination: the bus the bundle places it on, the guard field G (04 R82)
and the source. -/
structure Head where
  bus : Bus
  g : BitVec 5
  src : Src
  deriving DecidableEq, Repr

/-- The operations and events of the opcode table. A move word carries its head; a trigger of IA or VF also says which
of the two units it names (`u` true: IA1, VF1), and every trigger carries its E bit. An event names the tile, cluster,
slice or other agent it befalls. -/
inductive Instr where
  /-- MOVE (R441). Plain transport: a guarded move word that reads a source and writes a register, operand entry or port with no trigger. -/
  | move (h : Head) (d : Dst)
  /-- BR (R400). Relative branch to the bundle header plus the sign-extended offset in T. -/
  | br (h : Head) (e : Bool)
  /-- JMP (R429). Absolute transfer to the address in T. -/
  | jmp (h : Head) (e : Bool)
  /-- CALL (R401). Relative transfer that places the link value on CU's result port. -/
  | call (h : Head) (e : Bool)
  /-- RET (R453). Absolute transfer to T that also informs the return predictor. -/
  | ret (h : Head) (e : Bool)
  /-- LOOP (R156). Pushes a hardware loop level with count T and end offset O0[e], or skips the body when the count is zero. -/
  | loop (h : Head) (e : Bool)
  /-- END (R160). Halts fetch, drains the tile's engines, publishes the write log and releases the tile. -/
  | endTile (h : Head) (e : Bool)
  /-- TRAP (R475). Completes its bundle and then enters the software trap with code T[15:0]. -/
  | trap (h : Head) (e : Bool)
  /-- TRET (R342). Returns from a trap handler, restoring shadows, resolving the faulted place by RSOL and transferring to TPC. -/
  | tret (h : Head) (e : Bool)
  /-- ADD (R389). IA 64-bit wrapping sum of O0[e] and T. -/
  | add (h : Head) (u : Bool) (e : Bool)
  /-- SUB (R470). IA 64-bit wrapping difference O0[e] minus T. -/
  | sub (h : Head) (u : Bool) (e : Bool)
  /-- AND (R394). IA bitwise and of O0[e] and T. -/
  | and (h : Head) (u : Bool) (e : Bool)
  /-- ANDN (R395). IA bitwise and of O0[e] with the complement of T. -/
  | andn (h : Head) (u : Bool) (e : Bool)
  /-- OR (R444). IA bitwise or of O0[e] and T. -/
  | or (h : Head) (u : Bool) (e : Bool)
  /-- XOR (R497). IA bitwise exclusive or of O0[e] and T. -/
  | xor (h : Head) (u : Bool) (e : Bool)
  /-- SHL (R455). IA left shift of O0[e] by T[5:0]. -/
  | shl (h : Head) (u : Bool) (e : Bool)
  /-- SHR (R455). IA logical right shift of O0[e] by T[5:0]. -/
  | shr (h : Head) (u : Bool) (e : Bool)
  /-- SAR (R455). IA arithmetic right shift of O0[e] by T[5:0]. -/
  | sar (h : Head) (u : Bool) (e : Bool)
  /-- ROL (R454). IA left rotation of O0[e] by T[5:0]. -/
  | rol (h : Head) (u : Bool) (e : Bool)
  /-- MIN (R438). IA signed minimum of O0[e] and T. -/
  | min (h : Head) (u : Bool) (e : Bool)
  /-- MIN_U (R438). IA unsigned minimum of O0[e] and T. -/
  | minU (h : Head) (u : Bool) (e : Bool)
  /-- MAX (R438). IA signed maximum of O0[e] and T. -/
  | max (h : Head) (u : Bool) (e : Bool)
  /-- MAX_U (R438). IA unsigned maximum of O0[e] and T. -/
  | maxU (h : Head) (u : Bool) (e : Bool)
  /-- CMP_EQ (R403). IA compare, 1 when O0[e] equals T. -/
  | cmpEq (h : Head) (u : Bool) (e : Bool)
  /-- CMP_NE (R403). IA compare, 1 when O0[e] differs from T. -/
  | cmpNe (h : Head) (u : Bool) (e : Bool)
  /-- CMP_LT (R403). IA signed less-than compare. -/
  | cmpLt (h : Head) (u : Bool) (e : Bool)
  /-- CMP_LE (R403). IA signed less-or-equal compare. -/
  | cmpLe (h : Head) (u : Bool) (e : Bool)
  /-- CMP_LTU (R403). IA unsigned less-than compare. -/
  | cmpLtu (h : Head) (u : Bool) (e : Bool)
  /-- CMP_LEU (R403). IA unsigned less-or-equal compare. -/
  | cmpLeu (h : Head) (u : Bool) (e : Bool)
  /-- SEL (R459). IA selects O0[e] when T[0] is 1, else O1[e]. -/
  | sel (h : Head) (u : Bool) (e : Bool)
  /-- CLZ (R402). IA count of leading zero bits of T. -/
  | clz (h : Head) (u : Bool) (e : Bool)
  /-- POPC (R448). IA count of one bits of T. -/
  | popc (h : Head) (u : Bool) (e : Bool)
  /-- BEXT (R398). IA extracts the field of O0[e] that T describes. -/
  | bext (h : Head) (u : Bool) (e : Bool)
  /-- BINS (R399). IA inserts the low bits of O1[e] into O0[e] at the field that T describes. -/
  | bins (h : Head) (u : Bool) (e : Bool)
  /-- SEXT (R461). IA sign-extends the low O0[e][6:0] bits of T. -/
  | sext (h : Head) (u : Bool) (e : Bool)
  /-- PAND (R446). IA logical and of two truth values. -/
  | pand (h : Head) (u : Bool) (e : Bool)
  /-- POR (R446). IA logical or of two truth values. -/
  | por (h : Head) (u : Bool) (e : Bool)
  /-- PXOR (R446). IA logical exclusive or of two truth values. -/
  | pxor (h : Head) (u : Bool) (e : Bool)
  /-- MUL (R443). IM low 64 bits of the product of O0[e] and T. -/
  | mul (h : Head) (e : Bool)
  /-- MULH (R443). IM high 64 bits of the signed 128-bit product. -/
  | mulh (h : Head) (e : Bool)
  /-- MULH_U (R443). IM high 64 bits of the unsigned 128-bit product. -/
  | mulhU (h : Head) (e : Bool)
  /-- MAD (R437). IM wrapping O0[e] times O1[e] plus T. -/
  | mad (h : Head) (e : Bool)
  /-- DIV (R411). IM signed division of O0[e] by T. -/
  | div (h : Head) (e : Bool)
  /-- DIV_U (R411). IM unsigned division of O0[e] by T. -/
  | divU (h : Head) (e : Bool)
  /-- REM (R452). IM signed remainder of O0[e] by T. -/
  | rem (h : Head) (e : Bool)
  /-- REM_U (R452). IM unsigned remainder of O0[e] by T. -/
  | remU (h : Head) (e : Bool)
  /-- LD_B (R431). AU load of a sign-extended byte at T. -/
  | ldB (h : Head) (e : Bool)
  /-- LD_H (R431). AU load of a sign-extended half at T. -/
  | ldH (h : Head) (e : Bool)
  /-- LD_W (R431). AU load of a sign-extended word at T. -/
  | ldW (h : Head) (e : Bool)
  /-- LD_D (R431). AU load of a double at T. -/
  | ldD (h : Head) (e : Bool)
  /-- LD_BZ (R431). AU load of a zero-extended byte at T. -/
  | ldBz (h : Head) (e : Bool)
  /-- LD_HZ (R431). AU load of a zero-extended half at T. -/
  | ldHz (h : Head) (e : Bool)
  /-- LD_WZ (R431). AU load of a zero-extended word at T. -/
  | ldWz (h : Head) (e : Bool)
  /-- ST_B (R467). AU store of a byte of O0[e] at T. -/
  | stB (h : Head) (e : Bool)
  /-- ST_H (R467). AU store of a half of O0[e] at T. -/
  | stH (h : Head) (e : Bool)
  /-- ST_W (R467). AU store of a word of O0[e] at T. -/
  | stW (h : Head) (e : Bool)
  /-- ST_D (R467). AU store of a double of O0[e] at T. -/
  | stD (h : Head) (e : Bool)
  /-- ST_D_REL (R229). AU releasing double store: release steps, publication, then a direct unlogged store. -/
  | stDRel (h : Head) (e : Bool)
  /-- VLD (R485). AU load of a 128-byte row, or 140-byte BFM image, tagged by O0[e]. -/
  | vld (h : Head) (e : Bool)
  /-- VST (R494). AU store of the row in O1[e], with BFM scales when tagged BFMm. -/
  | vst (h : Head) (e : Bool)
  /-- GLD (R425). AU gathered load of up to 32 lanes from base T plus shifted indices. -/
  | gld (h : Head) (e : Bool)
  /-- SCT (R456). AU scattered store of data-row lanes at base T plus shifted indices. -/
  | sct (h : Head) (e : Bool)
  /-- LDT (R244). AU issues an 8-byte load ticket for the address in T. -/
  | ldt (h : Head) (e : Bool)
  /-- LDT_V (R244). AU issues a 128-byte load ticket for the line at T. -/
  | ldtV (h : Head) (e : Bool)
  /-- RDM (R450). AU redeems the ticket in T and delivers its value on the result port. -/
  | rdm (h : Head) (e : Bool)
  /-- RDM_S (R450). AU redeems the ticket in T into the scratchpad at O0[e]. -/
  | rdmS (h : Head) (e : Bool)
  /-- TKQ (R473). AU queries the class of a ticket without changing it. -/
  | tkq (h : Head) (e : Bool)
  /-- TKX (R474). AU classifies and cancels a ticket. -/
  | tkx (h : Head) (e : Bool)
  /-- AMO_ADD (R391). Relaxed atomic add at the double T. -/
  | amoAdd (h : Head) (e : Bool)
  /-- AMO_MIN (R391). Relaxed atomic minimum at the double T. -/
  | amoMin (h : Head) (e : Bool)
  /-- AMO_MAX (R391). Relaxed atomic maximum at the double T. -/
  | amoMax (h : Head) (e : Bool)
  /-- AMO_AND (R391). Relaxed atomic and at the double T. -/
  | amoAnd (h : Head) (e : Bool)
  /-- AMO_OR (R391). Relaxed atomic or at the double T. -/
  | amoOr (h : Head) (e : Bool)
  /-- AMO_XOR (R391). Relaxed atomic exclusive or at the double T. -/
  | amoXor (h : Head) (e : Bool)
  /-- AMO_XCHG (R391). Relaxed atomic exchange at the double T. -/
  | amoXchg (h : Head) (e : Bool)
  /-- AMO_CAS (R391). Relaxed atomic compare-and-swap at the double T. -/
  | amoCas (h : Head) (e : Bool)
  /-- AMO_ADD_ACQ (R391). Acquiring atomic add. -/
  | amoAddAcq (h : Head) (e : Bool)
  /-- AMO_MIN_ACQ (R391). Acquiring atomic minimum. -/
  | amoMinAcq (h : Head) (e : Bool)
  /-- AMO_MAX_ACQ (R391). Acquiring atomic maximum. -/
  | amoMaxAcq (h : Head) (e : Bool)
  /-- AMO_AND_ACQ (R391). Acquiring atomic and. -/
  | amoAndAcq (h : Head) (e : Bool)
  /-- AMO_OR_ACQ (R391). Acquiring atomic or. -/
  | amoOrAcq (h : Head) (e : Bool)
  /-- AMO_XOR_ACQ (R391). Acquiring atomic exclusive or. -/
  | amoXorAcq (h : Head) (e : Bool)
  /-- AMO_XCHG_ACQ (R391). Acquiring atomic exchange. -/
  | amoXchgAcq (h : Head) (e : Bool)
  /-- AMO_CAS_ACQ (R391). Acquiring atomic compare-and-swap. -/
  | amoCasAcq (h : Head) (e : Bool)
  /-- AMO_ADD_REL (R391). Releasing atomic add. -/
  | amoAddRel (h : Head) (e : Bool)
  /-- AMO_MIN_REL (R391). Releasing atomic minimum. -/
  | amoMinRel (h : Head) (e : Bool)
  /-- AMO_MAX_REL (R391). Releasing atomic maximum. -/
  | amoMaxRel (h : Head) (e : Bool)
  /-- AMO_AND_REL (R391). Releasing atomic and. -/
  | amoAndRel (h : Head) (e : Bool)
  /-- AMO_OR_REL (R391). Releasing atomic or. -/
  | amoOrRel (h : Head) (e : Bool)
  /-- AMO_XOR_REL (R391). Releasing atomic exclusive or. -/
  | amoXorRel (h : Head) (e : Bool)
  /-- AMO_XCHG_REL (R391). Releasing atomic exchange. -/
  | amoXchgRel (h : Head) (e : Bool)
  /-- AMO_CAS_REL (R391). Releasing atomic compare-and-swap. -/
  | amoCasRel (h : Head) (e : Bool)
  /-- PREF (R449). Asks the read cache to fill the line at T when it translates through a TLB hit. -/
  | pref (h : Head) (e : Bool)
  /-- SPB (R464). Queues a spill of a register range to the scratchpad slot in the descriptor. -/
  | spb (h : Head) (e : Bool)
  /-- FLA (R421). Queues a fill of a register range from the scratchpad slot in the descriptor. -/
  | fla (h : Head) (e : Bool)
  /-- LOC (R434). Delivers the locality word of the address in T. -/
  | loc (h : Head) (e : Bool)
  /-- PHASE_T (R447). Tile phase boundary: publishes the write log and invalidates the read cache. -/
  | phaseT (h : Head) (e : Bool)
  /-- PHASE_G (R447). Gang phase boundary: publishes, joins the gang barrier and invalidates the read cache. -/
  | phaseG (h : Head) (e : Bool)
  /-- BAR (R396). Arrives at the gang barrier without publishing. -/
  | bar (h : Head) (e : Bool)
  /-- FENCE (R419). Waits for earlier stores to translate and posted peer stores to be acknowledged, delivering deferred faults. -/
  | fence (h : Head) (e : Bool)
  /-- WAIT (R495). Waits on selected tickets, circular buffers and the inbox, optionally bounded. -/
  | wait (h : Head) (e : Bool)
  /-- SLNS (R463). Suspends issue of the next bundle for T nanoseconds. -/
  | slns (h : Head) (e : Bool)
  /-- TWNS (R478). Sets the pending bound of the next WAIT. -/
  | twns (h : Head) (e : Bool)
  /-- TSTMP (R477). Returns the reference-clock count in nanoseconds. -/
  | tstmp (h : Head) (e : Bool)
  /-- CYCLE (R409). Returns the tile cycles executed since launch. -/
  | cycle (h : Head) (e : Bool)
  /-- ENQ (R181). Publishes and enqueues the record at a scratchpad offset into a hardware queue. -/
  | enq (h : Head) (e : Bool)
  /-- JOIN (R183). Publishes and decrements a join block's counter, enqueuing its successor at zero. -/
  | join (h : Head) (e : Bool)
  /-- MODE (R440). Changes chosen FLM bits in one step and returns the old FLM. -/
  | mode (h : Head) (e : Bool)
  /-- SRD (R466). Reads a double of the tile's own window without side effects. -/
  | srd (h : Head) (e : Bool)
  /-- SWR (R466). Writes a double of the tile's own window from O0[e]. -/
  | swr (h : Head) (e : Bool)
  /-- SEND (R460). Sends a message of up to eight words to a tile of this device. -/
  | send (h : Head) (e : Bool)
  /-- SEND_P (R460). Sends a message to a tile of a peer device. -/
  | sendP (h : Head) (e : Bool)
  /-- RECV (R451). Takes the next whole inbox message into the scratchpad and returns its header. -/
  | recv (h : Head) (e : Bool)
  /-- STRM (R469). Binds or unbinds a stream queue. -/
  | strm (h : Head) (e : Bool)
  /-- COLL (R404). Joins a collective described by a card and returns its ticket. -/
  | coll (h : Head) (e : Bool)
  /-- CPY (R408). Submits a copy job described by a card and returns its ticket. -/
  | cpy (h : Head) (e : Bool)
  /-- CPYM (R408). Submits a copy job with MLDB and MMA follow-ons and returns its ticket. -/
  | cpym (h : Head) (e : Bool)
  /-- CPNEST (R407). Copies a nest record into a copy-unit slot. -/
  | cpnest (h : Head) (e : Bool)
  /-- CPBUF (R406). Sets up or disables a circular buffer. -/
  | cpbuf (h : Head) (e : Bool)
  /-- CPADV (R405). Frees a taken slot and/or takes a filled slot of a circular buffer. -/
  | cpadv (h : Head) (e : Bool)
  /-- VADD (R479). VA element-wise wrapping sum. -/
  | vadd (h : Head) (e : Bool)
  /-- VADD_S (R479). VA element-wise saturating sum. -/
  | vaddS (h : Head) (e : Bool)
  /-- VSUB (R479). VA element-wise wrapping difference. -/
  | vsub (h : Head) (e : Bool)
  /-- VSUB_S (R479). VA element-wise saturating difference. -/
  | vsubS (h : Head) (e : Bool)
  /-- VMUL (R479). VA element-wise wrapping product. -/
  | vmul (h : Head) (e : Bool)
  /-- VMAD (R479). VA element-wise wrapping multiply-add. -/
  | vmad (h : Head) (e : Bool)
  /-- VAND (R480). VA bitwise and of whole rows. -/
  | vand (h : Head) (e : Bool)
  /-- VOR (R480). VA bitwise or of whole rows. -/
  | vor (h : Head) (e : Bool)
  /-- VXOR (R480). VA bitwise exclusive or of whole rows. -/
  | vxor (h : Head) (e : Bool)
  /-- VSHL (R479). VA element-wise left shift. -/
  | vshl (h : Head) (e : Bool)
  /-- VSHR (R479). VA element-wise logical right shift. -/
  | vshr (h : Head) (e : Bool)
  /-- VSHR_A (R479). VA element-wise arithmetic right shift. -/
  | vshrA (h : Head) (e : Bool)
  /-- VMIN (R479). VA element-wise minimum. -/
  | vmin (h : Head) (e : Bool)
  /-- VMAX (R479). VA element-wise maximum. -/
  | vmax (h : Head) (e : Bool)
  /-- VABS (R479). VA element-wise absolute value. -/
  | vabs (h : Head) (e : Bool)
  /-- VCMP_EQ (R481). VA element-wise equality compare into a PRED row. -/
  | vcmpEq (h : Head) (e : Bool)
  /-- VCMP_NE (R481). VA element-wise inequality compare. -/
  | vcmpNe (h : Head) (e : Bool)
  /-- VCMP_LT (R481). VA signed less-than compare. -/
  | vcmpLt (h : Head) (e : Bool)
  /-- VCMP_LE (R481). VA signed less-or-equal compare. -/
  | vcmpLe (h : Head) (e : Bool)
  /-- VCMP_LTU (R481). VA unsigned less-than compare. -/
  | vcmpLtu (h : Head) (e : Bool)
  /-- VCMP_LEU (R481). VA unsigned less-or-equal compare. -/
  | vcmpLeu (h : Head) (e : Bool)
  /-- VSEL (R493). VA lane-wise select of O0[e] or O1[e] by the mask in T. -/
  | vsel (h : Head) (e : Bool)
  /-- FADD (R415). VF element-wise floating-point sum. -/
  | fadd (h : Head) (u : Bool) (e : Bool)
  /-- FSUB (R415). VF element-wise floating-point difference. -/
  | fsub (h : Head) (u : Bool) (e : Bool)
  /-- FMUL (R415). VF element-wise floating-point product. -/
  | fmul (h : Head) (u : Bool) (e : Bool)
  /-- FFMA (R420). VF fused O0 times O1 plus T. -/
  | ffma (h : Head) (u : Bool) (e : Bool)
  /-- FFMA_N (R420). VF fused T minus O0 times O1. -/
  | ffmaN (h : Head) (u : Bool) (e : Bool)
  /-- FFMS (R420). VF fused O0 times O1 minus T. -/
  | ffms (h : Head) (u : Bool) (e : Bool)
  /-- FMIN (R422). VF element-wise floating-point minimum. -/
  | fmin (h : Head) (u : Bool) (e : Bool)
  /-- FMAX (R422). VF element-wise floating-point maximum. -/
  | fmax (h : Head) (u : Bool) (e : Bool)
  /-- FABS (R414). VF clears the sign bit of each element of T. -/
  | fabs (h : Head) (u : Bool) (e : Bool)
  /-- FABS_NEG (R414). VF sets the sign bit of each element of T. -/
  | fabsNeg (h : Head) (u : Bool) (e : Bool)
  /-- FABS_SGN (R414). VF copies the sign of T onto each element of O0[e]. -/
  | fabsSgn (h : Head) (u : Bool) (e : Bool)
  /-- FCMP_EQ (R416). VF ordered equality compare into a PRED row. -/
  | fcmpEq (h : Head) (u : Bool) (e : Bool)
  /-- FCMP_NE (R416). VF not-equal compare. -/
  | fcmpNe (h : Head) (u : Bool) (e : Bool)
  /-- FCMP_LT (R416). VF less-than compare, signalling on any NaN. -/
  | fcmpLt (h : Head) (u : Bool) (e : Bool)
  /-- FCMP_LE (R416). VF less-or-equal compare, signalling on any NaN. -/
  | fcmpLe (h : Head) (u : Bool) (e : Bool)
  /-- FCMP_UN (R416). VF unordered test. -/
  | fcmpUn (h : Head) (u : Bool) (e : Bool)
  /-- FCMP_ORD (R416). VF ordered test. -/
  | fcmpOrd (h : Head) (u : Bool) (e : Bool)
  /-- FCVT (R417). VF converts between FP formats or between FP and integer tags. -/
  | fcvt (h : Head) (u : Bool) (e : Bool)
  /-- FRND (R423). VF rounds each element to an integral value in its own format. -/
  | frnd (h : Head) (u : Bool) (e : Bool)
  /-- VPERM (R487). VX selects elements of two rows by an index row. -/
  | vperm (h : Head) (e : Bool)
  /-- VBCST (R487). VX broadcasts one element of O0[e] to every element. -/
  | vbcst (h : Head) (e : Bool)
  /-- VRED_ADD (R491). VX segmented tree sum. -/
  | vredAdd (h : Head) (e : Bool)
  /-- VRED_MIN (R491). VX segmented tree minimum. -/
  | vredMin (h : Head) (e : Bool)
  /-- VRED_MAX (R491). VX segmented tree maximum. -/
  | vredMax (h : Head) (e : Bool)
  /-- VSCAN_ADD (R492). VX segmented inclusive prefix sum. -/
  | vscanAdd (h : Head) (e : Bool)
  /-- VCMPX (R482). VX compresses the mask-selected elements of T. -/
  | vcmpx (h : Head) (e : Bool)
  /-- VQNT (R489). VX quantises FP elements into BFMm blocks with mode rounding. -/
  | vqnt (h : Head) (e : Bool)
  /-- VQNT_SR (R489). VX quantises FP elements into BFMm blocks with seeded stochastic rounding. -/
  | vqntSr (h : Head) (e : Bool)
  /-- VDQN (R484). VX dequantises a BFMm row into an FP format. -/
  | vdqn (h : Head) (e : Bool)
  /-- VCVT (R483). VX converts between integer tags, wrapping or saturating. -/
  | vcvt (h : Head) (e : Bool)
  /-- ORI2 (R445). GP exact 2D orientation predicate per lane. -/
  | ori2 (h : Head) (e : Bool)
  /-- ORI3 (R445). GP exact 3D orientation predicate per lane. -/
  | ori3 (h : Head) (e : Bool)
  /-- INCIR (R427). GP exact in-circle predicate per lane. -/
  | incir (h : Head) (e : Bool)
  /-- INSPH (R428). GP exact in-sphere predicate per lane. -/
  | insph (h : Head) (e : Bool)
  /-- SEGX (R458). GP exact segment-contact classification per lane. -/
  | segx (h : Head) (e : Bool)
  /-- GPST (R426). GP reports the stages and cycles of the previous predicate. -/
  | gpst (h : Head) (e : Bool)
  /-- SFN (R325). SF evaluates a microprogrammed function on each lane of T. -/
  | sfn (h : Head) (e : Bool)
  /-- SFROW (R328). SF computes max, exp-sum, mean and variance of a scratchpad row. -/
  | sfrow (h : Head) (e : Bool)
  /-- SFLD (R331). SF loads a signed microcode package into the shadow bank and activates it. -/
  | sfld (h : Head) (e : Bool)
  /-- SFCM (R332). SF sets or reads the NX-3 compatibility mode. -/
  | sfcm (h : Head) (e : Bool)
  /-- MLDA (R267). MX queues a gather of 32 A rows into an A file and the gather latch. -/
  | mlda (h : Head) (e : Bool)
  /-- MLDB (R268). MX queues a load of 32 B columns into a B file. -/
  | mldb (h : Head) (e : Bool)
  /-- MMA (R269). MX queues a block-format multiply-accumulate into an accumulator. -/
  | mma (h : Head) (e : Bool)
  /-- MZRO (R270). MX queues clearing of the accumulators named by ACCMASK. -/
  | mzro (h : Head) (e : Bool)
  /-- MRD (R271). MX queues a converted read of an accumulator row. -/
  | mrd (h : Head) (e : Bool)
  /-- MQRD (R272). MX queues a quantised read of an accumulator row. -/
  | mqrd (h : Head) (e : Bool)
  /-- BUNDLE_ISSUE (R46). The sequencer checks and issues the waiting bundle once no lock condition holds, performing all its moves. -/
  | bundleIssue (tile : Nat)
  /-- STREAM_END_EVENT (R309). At the bundle boundary after an EOS arrives the tile enters the stream's handler. -/
  | streamEndEvent (tile : Nat)
  /-- RESULT_LAND (R39). A fixed-latency result lands on its port for its due bundle, ORing its flags. -/
  | resultLand (tile : Nat)
  /-- RESULT_ARRIVE (R42). A variable-latency operation's result, possibly faulted, arrives and its queue place becomes valid. -/
  | resultArrive (tile : Nat) (id : Nat)
  /-- LINK_WORD_ARRIVE (R51). A link word from a neighbour enters the inbound queue or is discarded. -/
  | linkWordArrive (tile : Nat) (dir : Nat)
  /-- LINK_CREDIT_RETURN (R52). A credit returns to a sender when the receiver removes or discards a word. -/
  | linkCreditReturn (tile : Nat) (dir : Nat)
  /-- LINK_CREDIT_NOTICE (R54). On a credit notice the neighbour sets its credit to 8 and answers with a marker. -/
  | linkCreditNotice (tile : Nat) (dir : Nat)
  /-- LINK_MARKER_ARRIVE (R54). A resynchronisation marker ends the discard of earlier words from that neighbour. -/
  | linkMarkerArrive (tile : Nat) (dir : Nat)
  /-- CODE_PAGE_LOAD (R383). A needed code page is fetched, hash-checked and installed, or faults. -/
  | codePageLoad (tile : Nat)
  /-- CODE_PAGE_PREFETCH (R162). The next code page is loaded ahead of need and discarded silently on failure. -/
  | codePagePrefetch (tile : Nat)
  /-- SPILL_ENGINE_CYCLE (R120). In each cycle the spill engine moves one g register, or part of one v register, and clears its token. -/
  | spillEngineCycle (tile : Nat)
  /-- SPILL_TRANSFER_COMPLETE (R120). A spill or fill transfer completes and frees its queue place. -/
  | spillTransferComplete (tile : Nat)
  /-- SYNC_OP_COMPLETE (R221). A PHASE, BAR or FENCE completes its waits and lets the following bundle issue. -/
  | syncOpComplete (tile : Nat)
  /-- BARRIER_COMPLETE (R223). The gang's k-th barrier completes once every member has arrived and published. -/
  | barrierComplete (gang : Nat)
  /-- CHECKPOINT (R185). With CKPT set a PHASE.G saves every member to CKPOOL before completing. -/
  | checkpoint (gang : Nat)
  /-- READ_CACHE_FILL (R216). A read-cache line fill arrives and is installed or discarded. -/
  | readCacheFill (tile : Nat) (line : Nat)
  /-- TLB_MISS_WALK (R207). A TLB miss joins or creates a pending-miss entry and starts a walk for a new granule. -/
  | tlbMissWalk (tile : Nat) (id : Nat) (lane : Nat)
  /-- PAGE_WALK_COMPLETE (R208). A page walk ends and its outcome is applied to each waiter. -/
  | pageWalkComplete (cluster : Nat) (slot : Nat)
  /-- INVAL_ALL (R209). TLBCMD removes every L1 and L2 entry of the cluster. -/
  | invalAll (cluster : Nat)
  /-- INVAL_PAGE (R209). TLBCMD removes every TLB entry that covers GRAN. -/
  | invalPage (cluster : Nat)
  /-- REPLAY_ALL (R209). TLBCMD clears the fault buffer and walks every faulted pending entry again. -/
  | replayAll (cluster : Nat)
  /-- FAIL_PAGE (R209). TLBCMD completes every waiter of GRAN's faulted entry with a translation fault. -/
  | failPage (cluster : Nat)
  /-- TLBCMD_DONE (R209). The running TLB command's condition is met and BUSY clears. -/
  | tlbcmdDone (cluster : Nat)
  /-- LOAD_AT_TARGET (R217). A load request is performed at its slice, tile or peer and answered. -/
  | loadAtTarget (tile : Nat) (id : Nat) (lane : Nat)
  /-- AMO_AT_SLICE (R391). An atomic is performed indivisibly at its target and its old value returned. -/
  | amoAtSlice (tile : Nat) (id : Nat)
  /-- POSTED_STORE_PERFORM (R233). A posted or direct store is performed at its target. -/
  | postedStorePerform (tile : Nat) (id : Nat) (lane : Nat)
  /-- PEER_ACCESS_CHECK (R196). A peer request is checked against the target's peer table and performed or refused. -/
  | peerAccessCheck (peer : Nat) (addr : Nat) (kind : Nat) (value : Nat)
  /-- PEER_STORE_ACK (R235). A peer reports a posted store performed. -/
  | peerStoreAck (tile : Nat) (id : Nat)
  /-- PEER_REQUEST_TIMEOUT (R360). A peer request with no answer within 2 ms completes with the peer access fault. -/
  | peerRequestTimeout (tile : Nat) (id : Nat) (lane : Nat)
  /-- TICKET_ALLOCATE (R244). A slice allocates a ticket entry, or answers the null ticket, and starts the fetch. -/
  | ticketAllocate (tile : Nat) (id : Nat)
  /-- TICKET_FETCH_COMPLETE (R244). A ticket's fetch completes and the entry becomes READY or FAULTED. -/
  | ticketFetchComplete (slice : Nat) (entry : Nat)
  /-- REDEEM_AT_SLICE (R249). A slice classifies a redeemed ticket and claims the entry or answers a fault. -/
  | redeemAtSlice (tile : Nat) (id : Nat)
  /-- REDEEM_DELIVER (R249). A claimed entry's value is delivered to the redeemer and the entry is retired. -/
  | redeemDeliver (slice : Nat) (entry : Nat)
  /-- TICKET_CLASSIFY_AT_SLICE (R253). A slice classifies a TKQ or TKX ticket and, for TKX, retires the entry. -/
  | ticketClassifyAtSlice (tile : Nat) (id : Nat)
  /-- TICKET_WATCHDOG_PASS (R254). Every 8 µs each slice ages its entries and retires those past TKTTL. -/
  | ticketWatchdogPass (slice : Nat)
  /-- ENQ_AT_SLICE (R181). The ring's slice accepts or refuses an enqueued record. -/
  | enqAtSlice (tile : Nat) (id : Nat)
  /-- JOIN_AT_SLICE (R183). The join block's home slice decrements COUNT and enqueues or hands over the successor. -/
  | joinAtSlice (tile : Nat) (id : Nat)
  /-- HANDOVER_ENQUEUE (R183). The supervisor enqueues a handed-over successor once its queue accepts it and clears PEND. -/
  | handoverEnqueue (cluster : Nat)
  /-- DISPENSER_SELECT (R177). A dispenser chooses the next record, claims it and launches it or completes it with BADREC. -/
  | dispenserSelect (cluster : Nat)
  /-- RESERVATION_TAKE (R178). A record unplaceable for 2 ms takes the cluster's reservation. -/
  | reservationTake (cluster : Nat)
  /-- TILE_RELEASE (R160). After END's drain and publication the tile is released. -/
  | tileRelease (tile : Nat)
  /-- GANG_RETIRE (R184). When its last member is released a gang's tickets are reclaimed, its join made and its slot retired. -/
  | gangRetire (gang : Nat)
  /-- GANG_FAIL (R186). A failed gang is stopped and re-dispatched, resumed or retired with TORN. -/
  | gangFail (gang : Nat)
  /-- RECORD_CANCEL (R186). The driver cancels a claimed record, which retires with CANCELLED. -/
  | recordCancel (queue : Nat) (slot : Nat)
  /-- UNRESPONSIVE_TIMEOUT (R344). A tile answering no poll within 10 ms is declared unresponsive. -/
  | unresponsiveTimeout (tile : Nat)
  /-- QUARANTINE_END (R345). Once every granted tile has advanced or been released, grants are cleared and the scratchpad zeroed. -/
  | quarantineEnd (gang : Nat)
  /-- GANG_STOP (R346). A commanded gang-stop halts, drains and saves every member and marks the slot PREEMPTED. -/
  | gangStop (gang : Nat)
  /-- GANG_RESUME (R349). A saved gang is placed, restored, re-triggers its waits and starts together. -/
  | gangResume (cluster : Nat)
  /-- CTL_PARK (R353). A service core parks a tile at its next bundle boundary. -/
  | ctlPark (tile : Nat)
  /-- CTL_RELEASE (R353). A service core releases a parked tile. -/
  | ctlRelease (tile : Nat)
  /-- CTL_STOP (R353). A service core halts a tile at its next bundle boundary. -/
  | ctlStop (tile : Nat)
  /-- SUPACK (R179). A write removes the n oldest supervisor reports. -/
  | supack (cluster : Nat) (n : Nat)
  /-- QUEUE_DESCRIPTOR_WRITE (R173). A service-core write to a queue descriptor, ignored and clearing EN when LOG2SLOTS is out of range. -/
  | queueDescriptorWrite (queue : Nat) (field : Nat) (value : Nat)
  /-- MAP_WRITE (R194). A write through the on-chip map to a register or block without a row of its own. -/
  | mapWrite (addr : Nat) (value : Nat)
  /-- MX_OP_START (R274). The head of MX's queue starts once its unit is free and its dependences are ready. -/
  | mxOpStart (tile : Nat)
  /-- MX_LOAD_READY (R275). An MLDA or MLDB completes and its file, and for MLDA the latch, become ready. -/
  | mxLoadReady (tile : Nat)
  /-- MMA_COMPLETE (R275). An MMA's accumulator is complete and its flags are ORed into FPC. -/
  | mmaComplete (tile : Nat)
  /-- GP_OP_COMPLETE (R322). A GP operation ends and both its results become valid together. -/
  | gpOpComplete (tile : Nat)
  /-- SF_OP_COMPLETE (R324). An SF operation, including SFLD's signature check, completes and its result arrives. -/
  | sfOpComplete (tile : Nat)
  /-- COPY_JOB_START (R290). A queued copy job starts once its edges have completed, claiming a buffer slot if CB. -/
  | copyJobStart (cluster : Nat) (slot : Nat)
  /-- COPY_JOB_END (R294). A copy job ends, posts any clip notice and makes its ticket READY. -/
  | copyJobEnd (cluster : Nat) (slot : Nat)
  /-- CB_SLOT_FILLED (R297). A circular-buffer slot moves to FILLED in ring order once its job and earlier ones have ended. -/
  | cbSlotFilled (tile : Nat) (buf : Nat)
  /-- COLLECTIVE_COMPLETE (R302). Confluence merges the collective and each participant's ticket becomes READY. -/
  | collectiveComplete (index : Nat)
  /-- SEND_ACCEPTED (R304). A send leaves the send queue when its target accepts it. -/
  | sendAccepted (tile : Nat)
  /-- MESSAGE_ARRIVE (R305). A message enters the target's inbox or is discarded. -/
  | messageArrive (tile : Nat)
  /-- STREAM_WORD_ARRIVE (R309). A stream send's words enter the assembly buffer, forming rows in the stream queue. -/
  | streamWordArrive (tile : Nat) (dir : Nat)
  /-- SLNS_EXPIRE (R369). An SLNS interval's cycle count runs out and issue resumes. -/
  | slnsExpire (tile : Nat)
  /-- WAIT_COMPLETE (R496). A WAIT's selected conditions hold and its result becomes valid. -/
  | waitComplete (tile : Nat)
  /-- WAIT_TIMEOUT (R496). A WAIT's consumed bound runs out and it completes with TIMEOUT. -/
  | waitTimeout (tile : Nat)
  /-- WEIR_ALARM (R366). A row supply below THRESH starts the stretch response. -/
  | weirAlarm (row : Nat)
  /-- WEIR_STRETCH_END (R366). After six stretched cycles the row enters the halved phase. -/
  | weirStretchEnd (row : Nat)
  /-- WEIR_HALVE_END (R366). After the halved cycles the row returns to normal clocking. -/
  | weirHalveEnd (row : Nat)
  /-- POWER_INTERVAL (R367). Every 100 µs the power controller withholds rows and grants or withdraws boost. -/
  | powerInterval (row : Nat)
  /-- TILE_CLOCK_CHANGE (R369). A granted frequency change takes effect at a bundle boundary and rescales running intervals. -/
  | tileClockChange (row : Nat) (mhz : Nat)
  /-- FLIT_CRC_FAIL (R355). A flit failing CRC is replayed with the later flits of its stream. -/
  | flitCrcFail (boundary : Nat) (module : Nat)
  /-- MODULE_RETRAIN (R356). A faulty lane, repeated CRC failure or command starts a module retrain and moves its stream. -/
  | moduleRetrain (boundary : Nat) (module : Nat)
  /-- RETRAIN_COMPLETE (R356). A retrain ends at x64, x32 or out of service and the stream returns. -/
  | retrainComplete (boundary : Nat) (module : Nat)
  /-- BOUNDARY_RETRAIN_CMD (R357). A service-core write of bit 0 of a module's word 1 commands a retrain. -/
  | boundaryRetrainCmd (boundary : Nat) (mask : Nat)
  /-- MEMORY_SCRUB (R371). A scrub read corrects a row and may add it to the hot list or remap it. -/
  | memoryScrub (slice : Nat)
  /-- IMAGE_LOAD (R379). A service core checks, copies and registers an image and returns its handle. -/
  | imageLoad (addr : Nat)
  /-- IMAGE_UNLOAD (R381). A service core unloads an image and invalidates its frames. -/
  | imageUnload (handle : Nat)
  /-- MAILBOX_DOORBELL (R362). A host doorbell makes the service core take and perform its ring's requests in order. -/
  | mailboxDoorbell (core : Nat)
  /-- JOB_COMPLETION_NOTICE (R363). A service core appends a completion record and raises its completion vector. -/
  | jobCompletionNotice (core : Nat)
  /-- ATTESTATION_REQUEST (R374). The security processor returns a signed attestation report. -/
  | attestationRequest (addr : Nat)
  /-- BOOT (R373). Boot verifies and runs the ROM, security firmware and service-core firmware in order. -/
  | boot
  /-- TILE_RESET (R27). Tile reset sets the tile's state to its reset values. -/
  | tileReset (tile : Nat)
  /-- MODULE_RESET (R6). Module reset sets the module's registers to their reset values. -/
  | moduleReset
  /-- READ_CACHE_EVICTION (R216). A read-cache line is evicted, so the next load of it misses and refills. -/
  | readCacheEviction (tile : Nat) (line : Nat)
  /-- SYASH_PORT_STATE_CHANGE (R359). A Syash port goes down, trains or comes up, and traffic moves between PRIMARY and ALTERNATE. -/
  | syashPortStateChange (port : Nat) (state : Nat)
  /-- SYASH_LINK_RETRY (R358). A fabric packet fails its link-level CRC and is retried, counting CRCERR and RETRY of the port. -/
  | syashLinkRetry (port : Nat)
  /-- SCORE_HALVING (R371). Every 24 hours each row's retirement score halves. -/
  | scoreHalving (slice : Nat)
  deriving DecidableEq, Repr

end Sys2Proof
end

