-- ==== Sys2Proof/WellFormed.lean ====
section
/-! DEFINITION. Which moves a bundle may hold: the connectivity of buses, sockets and ports (02 R30 to R32, 04 R89) and
the ranges of an instruction's fields. -/
namespace Sys2Proof

/-- The kinds of bus the connectivity tables distinguish: S0-S2, V0-V3, M0, C0-C1. -/
inductive BusKind where
  | s | v | m | c
  deriving DecidableEq, Repr

def Bus.kind : Bus → BusKind
  | .s0 | .s1 | .s2 => .s
  | .v0 | .v1 | .v2 | .v3 => .v
  | .m0 => .m
  | .c0 | .c1 => .c

/-- Sockets whose entries are 64 bits wide and reached from S buses only. -/
def Sock.isScalar : Sock → Bool
  | .ia0 | .ia1 | .im | .gp | .cu => true
  | _ => false

/-- Sockets whose entries and triggers take V and S buses: VA, VF0, VF1, VX, SF (02 R30). -/
def Sock.isVector : Sock → Bool
  | .va | .vf0 | .vf1 | .vx | .sf => true
  | _ => false

/-- The operand ports a socket has: O0 on CU, O0 to O3 on MX, O0 and O1 on every other socket (04 R89). -/
def Sock.hasOpnd (s : Sock) (port : BitVec 2) : Bool :=
  match s with
  | .cu => port == 0
  | .mx => true
  | _ => port.toNat < 2

/-- The buses that reach an operand port (02 R30). -/
def Sock.opndBus (s : Sock) (port : BitVec 2) (b : BusKind) : Bool :=
  match s with
  | .cu | .ia0 | .ia1 | .im | .gp => b == .s
  | .au => b == .s || b == .c || (b == .v && port == 1)
  | .sy | .ch | .cp => b == .s || b == .c
  | .va | .vf0 | .vf1 | .vx | .sf => b == .v || b == .s
  | .mx => b == .m

/-- The buses that reach a socket's trigger port (02 R30). -/
def Sock.trigBus (s : Sock) (b : BusKind) : Bool :=
  match s with
  | .ia0 | .ia1 | .im | .gp => b == .s
  | .cu | .au | .sy | .ch | .cp | .mx => b == .s || b == .c
  | .va | .vf0 | .vf1 | .vx | .sf => b == .v || b == .s

/-- The buses a result port drives; only GP has res2 (02 R30). -/
def Sock.resBus (s : Sock) (res2 : Bool) (b : BusKind) : Bool :=
  match s, res2 with
  | .gp, true => b == .v || b == .s
  | _, true => false
  | .gp, false => b == .v
  | .va, false | .vf0, false | .vf1, false => b == .v
  | .vx, false | .sf, false => b == .v || b == .s
  | .mx, false => b == .m || b == .v
  | .au, false => b == .s || b == .v || b == .c
  | _, false => b == .s || b == .c

/-- The sources a bus carries (02 R31). -/
def Src.onBus (s : Src) (b : BusKind) : Bool :=
  match s with
  | .g _ | .p _ | .spec _ | .port (.link _) | .port .inbox => b == .s || b == .c
  | .v _ | .port (.sq _) => b == .v
  | .imm _ | .lit _ _ _ => b != .m
  | .q _ => b == .s || b == .v
  | .port .gl | .port .spr => b == .m
  | .res k r2 => k.resBus r2 b

/-- The destinations a bus writes (02 R32, 04 R89). -/
def Dst.onBus (d : Dst) (b : BusKind) : Bool :=
  match d with
  | .g _ | .spec _ | .link _ => b == .s || b == .c
  | .v _ => b == .v
  | .p _ => b == .s
  | .q _ => b == .s || b == .v
  | .spr => b == .m
  | .opnd k n _ => k.hasOpnd n && k.opndBus n b

/-- A literal's words lie within the at most seven literal words of a bundle (04 R77, R84). -/
def Src.litOk : Src → Bool
  | .lit i _ (.sx62 _) => i.toNat < 6
  | .lit i _ _ => i.toNat < 7
  | _ => true

/-- PC is never a destination (04 R90). -/
def Dst.notPc : Dst → Bool
  | .spec .pc => false
  | _ => true

/-- A source that the move's bus can carry. -/
def Head.wf (h : Head) : Bool := h.src.onBus h.bus.kind && h.src.litOk

/-- A trigger of socket `k` that the move's bus can reach. -/
def Head.wfTrig (h : Head) (k : Sock) : Bool := h.wf && k.trigBus h.bus.kind

/-- A trigger's parts: the move's head, the socket it names, its opcode and its E bit (04 R87, R95); none for a plain
transport and for an event. -/
def Instr.trig? : Instr → Option (Head × Sock × BitVec 6 × Bool)
  | .br h e => some (h, .cu, 0x00#6, e)
  | .jmp h e => some (h, .cu, 0x01#6, e)
  | .call h e => some (h, .cu, 0x02#6, e)
  | .ret h e => some (h, .cu, 0x03#6, e)
  | .loop h e => some (h, .cu, 0x04#6, e)
  | .endTile h e => some (h, .cu, 0x05#6, e)
  | .trap h e => some (h, .cu, 0x06#6, e)
  | .tret h e => some (h, .cu, 0x07#6, e)
  | .add h u e => some (h, (if u then .ia1 else .ia0), 0x00#6, e)
  | .sub h u e => some (h, (if u then .ia1 else .ia0), 0x01#6, e)
  | .and h u e => some (h, (if u then .ia1 else .ia0), 0x02#6, e)
  | .andn h u e => some (h, (if u then .ia1 else .ia0), 0x03#6, e)
  | .or h u e => some (h, (if u then .ia1 else .ia0), 0x04#6, e)
  | .xor h u e => some (h, (if u then .ia1 else .ia0), 0x05#6, e)
  | .shl h u e => some (h, (if u then .ia1 else .ia0), 0x06#6, e)
  | .shr h u e => some (h, (if u then .ia1 else .ia0), 0x07#6, e)
  | .sar h u e => some (h, (if u then .ia1 else .ia0), 0x08#6, e)
  | .rol h u e => some (h, (if u then .ia1 else .ia0), 0x09#6, e)
  | .min h u e => some (h, (if u then .ia1 else .ia0), 0x0A#6, e)
  | .minU h u e => some (h, (if u then .ia1 else .ia0), 0x0B#6, e)
  | .max h u e => some (h, (if u then .ia1 else .ia0), 0x0C#6, e)
  | .maxU h u e => some (h, (if u then .ia1 else .ia0), 0x0D#6, e)
  | .cmpEq h u e => some (h, (if u then .ia1 else .ia0), 0x10#6, e)
  | .cmpNe h u e => some (h, (if u then .ia1 else .ia0), 0x11#6, e)
  | .cmpLt h u e => some (h, (if u then .ia1 else .ia0), 0x12#6, e)
  | .cmpLe h u e => some (h, (if u then .ia1 else .ia0), 0x13#6, e)
  | .cmpLtu h u e => some (h, (if u then .ia1 else .ia0), 0x14#6, e)
  | .cmpLeu h u e => some (h, (if u then .ia1 else .ia0), 0x15#6, e)
  | .sel h u e => some (h, (if u then .ia1 else .ia0), 0x18#6, e)
  | .clz h u e => some (h, (if u then .ia1 else .ia0), 0x19#6, e)
  | .popc h u e => some (h, (if u then .ia1 else .ia0), 0x1A#6, e)
  | .bext h u e => some (h, (if u then .ia1 else .ia0), 0x1B#6, e)
  | .bins h u e => some (h, (if u then .ia1 else .ia0), 0x1C#6, e)
  | .sext h u e => some (h, (if u then .ia1 else .ia0), 0x1D#6, e)
  | .pand h u e => some (h, (if u then .ia1 else .ia0), 0x20#6, e)
  | .por h u e => some (h, (if u then .ia1 else .ia0), 0x21#6, e)
  | .pxor h u e => some (h, (if u then .ia1 else .ia0), 0x22#6, e)
  | .mul h e => some (h, .im, 0x00#6, e)
  | .mulh h e => some (h, .im, 0x01#6, e)
  | .mulhU h e => some (h, .im, 0x02#6, e)
  | .mad h e => some (h, .im, 0x03#6, e)
  | .div h e => some (h, .im, 0x04#6, e)
  | .divU h e => some (h, .im, 0x05#6, e)
  | .rem h e => some (h, .im, 0x06#6, e)
  | .remU h e => some (h, .im, 0x07#6, e)
  | .ldB h e => some (h, .au, 0x00#6, e)
  | .ldH h e => some (h, .au, 0x01#6, e)
  | .ldW h e => some (h, .au, 0x02#6, e)
  | .ldD h e => some (h, .au, 0x03#6, e)
  | .ldBz h e => some (h, .au, 0x04#6, e)
  | .ldHz h e => some (h, .au, 0x05#6, e)
  | .ldWz h e => some (h, .au, 0x06#6, e)
  | .stB h e => some (h, .au, 0x08#6, e)
  | .stH h e => some (h, .au, 0x09#6, e)
  | .stW h e => some (h, .au, 0x0A#6, e)
  | .stD h e => some (h, .au, 0x0B#6, e)
  | .stDRel h e => some (h, .au, 0x0C#6, e)
  | .vld h e => some (h, .au, 0x10#6, e)
  | .vst h e => some (h, .au, 0x11#6, e)
  | .gld h e => some (h, .au, 0x12#6, e)
  | .sct h e => some (h, .au, 0x13#6, e)
  | .ldt h e => some (h, .au, 0x18#6, e)
  | .ldtV h e => some (h, .au, 0x19#6, e)
  | .rdm h e => some (h, .au, 0x1A#6, e)
  | .rdmS h e => some (h, .au, 0x1B#6, e)
  | .tkq h e => some (h, .au, 0x1C#6, e)
  | .tkx h e => some (h, .au, 0x1D#6, e)
  | .amoAdd h e => some (h, .au, 0x20#6, e)
  | .amoMin h e => some (h, .au, 0x21#6, e)
  | .amoMax h e => some (h, .au, 0x22#6, e)
  | .amoAnd h e => some (h, .au, 0x23#6, e)
  | .amoOr h e => some (h, .au, 0x24#6, e)
  | .amoXor h e => some (h, .au, 0x25#6, e)
  | .amoXchg h e => some (h, .au, 0x26#6, e)
  | .amoCas h e => some (h, .au, 0x27#6, e)
  | .amoAddAcq h e => some (h, .au, 0x28#6, e)
  | .amoMinAcq h e => some (h, .au, 0x29#6, e)
  | .amoMaxAcq h e => some (h, .au, 0x2A#6, e)
  | .amoAndAcq h e => some (h, .au, 0x2B#6, e)
  | .amoOrAcq h e => some (h, .au, 0x2C#6, e)
  | .amoXorAcq h e => some (h, .au, 0x2D#6, e)
  | .amoXchgAcq h e => some (h, .au, 0x2E#6, e)
  | .amoCasAcq h e => some (h, .au, 0x2F#6, e)
  | .amoAddRel h e => some (h, .au, 0x30#6, e)
  | .amoMinRel h e => some (h, .au, 0x31#6, e)
  | .amoMaxRel h e => some (h, .au, 0x32#6, e)
  | .amoAndRel h e => some (h, .au, 0x33#6, e)
  | .amoOrRel h e => some (h, .au, 0x34#6, e)
  | .amoXorRel h e => some (h, .au, 0x35#6, e)
  | .amoXchgRel h e => some (h, .au, 0x36#6, e)
  | .amoCasRel h e => some (h, .au, 0x37#6, e)
  | .pref h e => some (h, .au, 0x38#6, e)
  | .spb h e => some (h, .au, 0x39#6, e)
  | .fla h e => some (h, .au, 0x3A#6, e)
  | .loc h e => some (h, .au, 0x3B#6, e)
  | .phaseT h e => some (h, .sy, 0x00#6, e)
  | .phaseG h e => some (h, .sy, 0x01#6, e)
  | .bar h e => some (h, .sy, 0x02#6, e)
  | .fence h e => some (h, .sy, 0x03#6, e)
  | .wait h e => some (h, .sy, 0x04#6, e)
  | .slns h e => some (h, .sy, 0x05#6, e)
  | .twns h e => some (h, .sy, 0x06#6, e)
  | .tstmp h e => some (h, .sy, 0x07#6, e)
  | .cycle h e => some (h, .sy, 0x08#6, e)
  | .enq h e => some (h, .sy, 0x09#6, e)
  | .join h e => some (h, .sy, 0x0A#6, e)
  | .mode h e => some (h, .sy, 0x0B#6, e)
  | .srd h e => some (h, .sy, 0x0C#6, e)
  | .swr h e => some (h, .sy, 0x0D#6, e)
  | .send h e => some (h, .ch, 0x00#6, e)
  | .sendP h e => some (h, .ch, 0x01#6, e)
  | .recv h e => some (h, .ch, 0x02#6, e)
  | .strm h e => some (h, .ch, 0x03#6, e)
  | .coll h e => some (h, .ch, 0x04#6, e)
  | .cpy h e => some (h, .cp, 0x00#6, e)
  | .cpym h e => some (h, .cp, 0x01#6, e)
  | .cpnest h e => some (h, .cp, 0x02#6, e)
  | .cpbuf h e => some (h, .cp, 0x03#6, e)
  | .cpadv h e => some (h, .cp, 0x04#6, e)
  | .vadd h e => some (h, .va, 0x00#6, e)
  | .vaddS h e => some (h, .va, 0x01#6, e)
  | .vsub h e => some (h, .va, 0x02#6, e)
  | .vsubS h e => some (h, .va, 0x03#6, e)
  | .vmul h e => some (h, .va, 0x04#6, e)
  | .vmad h e => some (h, .va, 0x05#6, e)
  | .vand h e => some (h, .va, 0x06#6, e)
  | .vor h e => some (h, .va, 0x07#6, e)
  | .vxor h e => some (h, .va, 0x08#6, e)
  | .vshl h e => some (h, .va, 0x09#6, e)
  | .vshr h e => some (h, .va, 0x0A#6, e)
  | .vshrA h e => some (h, .va, 0x0B#6, e)
  | .vmin h e => some (h, .va, 0x0C#6, e)
  | .vmax h e => some (h, .va, 0x0D#6, e)
  | .vabs h e => some (h, .va, 0x0E#6, e)
  | .vcmpEq h e => some (h, .va, 0x10#6, e)
  | .vcmpNe h e => some (h, .va, 0x11#6, e)
  | .vcmpLt h e => some (h, .va, 0x12#6, e)
  | .vcmpLe h e => some (h, .va, 0x13#6, e)
  | .vcmpLtu h e => some (h, .va, 0x14#6, e)
  | .vcmpLeu h e => some (h, .va, 0x15#6, e)
  | .vsel h e => some (h, .va, 0x18#6, e)
  | .fadd h u e => some (h, (if u then .vf1 else .vf0), 0x00#6, e)
  | .fsub h u e => some (h, (if u then .vf1 else .vf0), 0x01#6, e)
  | .fmul h u e => some (h, (if u then .vf1 else .vf0), 0x02#6, e)
  | .ffma h u e => some (h, (if u then .vf1 else .vf0), 0x03#6, e)
  | .ffmaN h u e => some (h, (if u then .vf1 else .vf0), 0x04#6, e)
  | .ffms h u e => some (h, (if u then .vf1 else .vf0), 0x05#6, e)
  | .fmin h u e => some (h, (if u then .vf1 else .vf0), 0x06#6, e)
  | .fmax h u e => some (h, (if u then .vf1 else .vf0), 0x07#6, e)
  | .fabs h u e => some (h, (if u then .vf1 else .vf0), 0x08#6, e)
  | .fabsNeg h u e => some (h, (if u then .vf1 else .vf0), 0x09#6, e)
  | .fabsSgn h u e => some (h, (if u then .vf1 else .vf0), 0x0A#6, e)
  | .fcmpEq h u e => some (h, (if u then .vf1 else .vf0), 0x10#6, e)
  | .fcmpNe h u e => some (h, (if u then .vf1 else .vf0), 0x11#6, e)
  | .fcmpLt h u e => some (h, (if u then .vf1 else .vf0), 0x12#6, e)
  | .fcmpLe h u e => some (h, (if u then .vf1 else .vf0), 0x13#6, e)
  | .fcmpUn h u e => some (h, (if u then .vf1 else .vf0), 0x14#6, e)
  | .fcmpOrd h u e => some (h, (if u then .vf1 else .vf0), 0x15#6, e)
  | .fcvt h u e => some (h, (if u then .vf1 else .vf0), 0x18#6, e)
  | .frnd h u e => some (h, (if u then .vf1 else .vf0), 0x19#6, e)
  | .vperm h e => some (h, .vx, 0x00#6, e)
  | .vbcst h e => some (h, .vx, 0x01#6, e)
  | .vredAdd h e => some (h, .vx, 0x02#6, e)
  | .vredMin h e => some (h, .vx, 0x03#6, e)
  | .vredMax h e => some (h, .vx, 0x04#6, e)
  | .vscanAdd h e => some (h, .vx, 0x05#6, e)
  | .vcmpx h e => some (h, .vx, 0x06#6, e)
  | .vqnt h e => some (h, .vx, 0x07#6, e)
  | .vqntSr h e => some (h, .vx, 0x08#6, e)
  | .vdqn h e => some (h, .vx, 0x09#6, e)
  | .vcvt h e => some (h, .vx, 0x0A#6, e)
  | .ori2 h e => some (h, .gp, 0x00#6, e)
  | .ori3 h e => some (h, .gp, 0x01#6, e)
  | .incir h e => some (h, .gp, 0x02#6, e)
  | .insph h e => some (h, .gp, 0x03#6, e)
  | .segx h e => some (h, .gp, 0x04#6, e)
  | .gpst h e => some (h, .gp, 0x10#6, e)
  | .sfn h e => some (h, .sf, 0x00#6, e)
  | .sfrow h e => some (h, .sf, 0x01#6, e)
  | .sfld h e => some (h, .sf, 0x02#6, e)
  | .sfcm h e => some (h, .sf, 0x03#6, e)
  | .mlda h e => some (h, .mx, 0x00#6, e)
  | .mldb h e => some (h, .mx, 0x01#6, e)
  | .mma h e => some (h, .mx, 0x02#6, e)
  | .mzro h e => some (h, .mx, 0x03#6, e)
  | .mrd h e => some (h, .mx, 0x04#6, e)
  | .mqrd h e => some (h, .mx, 0x05#6, e)
  | _ => none

/-- The agent an event befalls exists: tiles (01 R11), clusters (R12), slices (R14), boundaries and modules (R16), service
cores (R15), Syash ports, voltage rows. True of every move word. -/
def Instr.agentOk : Instr → Bool
  | .bundleIssue tile => decide (tile < 16384)
  | .streamEndEvent tile => decide (tile < 16384)
  | .resultLand tile => decide (tile < 16384)
  | .resultArrive tile _ => decide (tile < 16384)
  | .linkWordArrive tile dir => decide (tile < 16384) && decide (dir < 4)
  | .linkCreditReturn tile dir => decide (tile < 16384) && decide (dir < 4)
  | .linkCreditNotice tile dir => decide (tile < 16384) && decide (dir < 4)
  | .linkMarkerArrive tile dir => decide (tile < 16384) && decide (dir < 4)
  | .codePageLoad tile => decide (tile < 16384)
  | .codePagePrefetch tile => decide (tile < 16384)
  | .spillEngineCycle tile => decide (tile < 16384)
  | .spillTransferComplete tile => decide (tile < 16384)
  | .syncOpComplete tile => decide (tile < 16384)
  | .readCacheFill tile _ => decide (tile < 16384)
  | .tlbMissWalk tile _ lane => decide (tile < 16384) && decide (lane < 32)
  | .pageWalkComplete cluster _ => decide (cluster < 64)
  | .invalAll cluster => decide (cluster < 64)
  | .invalPage cluster => decide (cluster < 64)
  | .replayAll cluster => decide (cluster < 64)
  | .failPage cluster => decide (cluster < 64)
  | .tlbcmdDone cluster => decide (cluster < 64)
  | .loadAtTarget tile _ lane => decide (tile < 16384) && decide (lane < 32)
  | .amoAtSlice tile _ => decide (tile < 16384)
  | .postedStorePerform tile _ lane => decide (tile < 16384) && decide (lane < 32)
  | .peerStoreAck tile _ => decide (tile < 16384)
  | .peerRequestTimeout tile _ lane => decide (tile < 16384) && decide (lane < 32)
  | .ticketAllocate tile _ => decide (tile < 16384)
  | .ticketFetchComplete slice entry => decide (slice < 1024) && decide (entry < 2048)
  | .redeemAtSlice tile _ => decide (tile < 16384)
  | .redeemDeliver slice entry => decide (slice < 1024) && decide (entry < 2048)
  | .ticketClassifyAtSlice tile _ => decide (tile < 16384)
  | .ticketWatchdogPass slice => decide (slice < 1024)
  | .enqAtSlice tile _ => decide (tile < 16384)
  | .joinAtSlice tile _ => decide (tile < 16384)
  | .handoverEnqueue cluster => decide (cluster < 64)
  | .dispenserSelect cluster => decide (cluster < 64)
  | .reservationTake cluster => decide (cluster < 64)
  | .tileRelease tile => decide (tile < 16384)
  | .recordCancel queue _ => decide (queue < 256)
  | .unresponsiveTimeout tile => decide (tile < 16384)
  | .gangResume cluster => decide (cluster < 64)
  | .ctlPark tile => decide (tile < 16384)
  | .ctlRelease tile => decide (tile < 16384)
  | .ctlStop tile => decide (tile < 16384)
  | .supack cluster n => decide (cluster < 64) && decide (1 ≤ n) && decide (n ≤ 64)
  | .queueDescriptorWrite queue _ _ => decide (queue < 256)
  | .mxOpStart tile => decide (tile < 16384)
  | .mxLoadReady tile => decide (tile < 16384)
  | .mmaComplete tile => decide (tile < 16384)
  | .gpOpComplete tile => decide (tile < 16384)
  | .sfOpComplete tile => decide (tile < 16384)
  | .copyJobStart cluster _ => decide (cluster < 64)
  | .copyJobEnd cluster _ => decide (cluster < 64)
  | .cbSlotFilled tile _ => decide (tile < 16384)
  | .sendAccepted tile => decide (tile < 16384)
  | .messageArrive tile => decide (tile < 16384)
  | .streamWordArrive tile dir => decide (tile < 16384) && decide (dir < 6)
  | .slnsExpire tile => decide (tile < 16384)
  | .waitComplete tile => decide (tile < 16384)
  | .waitTimeout tile => decide (tile < 16384)
  | .weirAlarm row => decide (row < 1024)
  | .weirStretchEnd row => decide (row < 1024)
  | .weirHalveEnd row => decide (row < 1024)
  | .powerInterval row => decide (row < 1024)
  | .tileClockChange row _ => decide (row < 1024)
  | .flitCrcFail boundary module => decide (boundary < 10) && decide (module < 48)
  | .moduleRetrain boundary module => decide (boundary < 10) && decide (module < 48)
  | .retrainComplete boundary module => decide (boundary < 10) && decide (module < 48)
  | .boundaryRetrainCmd boundary _ => decide (boundary < 10)
  | .memoryScrub slice => decide (slice < 1024)
  | .mailboxDoorbell core => decide (core < 4)
  | .jobCompletionNotice core => decide (core < 4)
  | .tileReset tile => decide (tile < 16384)
  | .readCacheEviction tile _ => decide (tile < 16384)
  | .syashPortStateChange port _ => decide (port < 24)
  | .syashLinkRetry port => decide (port < 24)
  | .scoreHalving slice => decide (slice < 1024)
  | _ => true

/-- Well-formed: a move word that one bus can carry, or an event of an agent that exists. -/
def Instr.wf (i : Instr) : Bool :=
  match i with
  | .move h d => h.wf && d.onBus h.bus.kind && d.notPc
  | i =>
    match i.trig? with
    | some (h, k, _, _) => h.wfTrig k
    | none => i.agentOk

end Sys2Proof
end

