-- ==== Sys2Proof/Decode.lean ====
section
/-! DEFINITION. Bundle encodings (chapter 04): the decoder of header, move and literal words with the static checks of
R96, total on any words and answering the check code that fails; and after it the encoder of one-move bundles. -/
namespace Sys2Proof

/-! ### Numbers of sockets, ports and special registers -/

def Sock.num : Sock → BitVec 5
  | .cu => 0 | .ia0 => 1 | .ia1 => 2 | .im => 3 | .au => 4 | .sy => 5 | .ch => 6 | .cp => 7 | .va => 8 | .vf0 => 9
  | .vf1 => 10 | .vx => 11 | .gp => 12 | .sf => 13 | .mx => 14

/-- Sockets 15 to 31 are reserved (02 R30). -/
def Sock.ofNum (n : BitVec 5) : Option Sock :=
  match n.toNat with
  | 0 => some .cu | 1 => some .ia0 | 2 => some .ia1 | 3 => some .im | 4 => some .au | 5 => some .sy | 6 => some .ch
  | 7 => some .cp | 8 => some .va | 9 => some .vf0 | 10 => some .vf1 | 11 => some .vx | 12 => some .gp
  | 13 => some .sf | 14 => some .mx | _ => none

/-- Special-register numbers (04 R90). -/
def SReg.num : SReg → BitVec 9
  | .pc => 0x000 | .rrc => 0x001 | .flm => 0x002 | .fpc => 0x003 | .tvec => 0x004 | .tpc => 0x005 | .tcause => 0x006
  | .taddr => 0x007 | .tstat => 0x008 | .tid => 0x009 | .gid => 0x00A | .grank => 0x00B | .gshape => 0x00C
  | .phn => 0x00D | .wth => 0x00E | .lnkstat => 0x00F
  | .lc n => 0x010 + n.setWidth 9 | .le n => 0x014 + n.setWidth 9 | .ls n => 0x018 + n.setWidth 9

def SReg.ofNum (x : BitVec 9) : Option SReg :=
  match x.toNat with
  | 0x000 => some .pc | 0x001 => some .rrc | 0x002 => some .flm | 0x003 => some .fpc | 0x004 => some .tvec
  | 0x005 => some .tpc | 0x006 => some .tcause | 0x007 => some .taddr | 0x008 => some .tstat | 0x009 => some .tid
  | 0x00A => some .gid | 0x00B => some .grank | 0x00C => some .gshape | 0x00D => some .phn | 0x00E => some .wth
  | 0x00F => some .lnkstat
  | 0x010 => some (.lc 0) | 0x011 => some (.lc 1) | 0x012 => some (.lc 2) | 0x013 => some (.lc 3)
  | 0x014 => some (.le 0) | 0x015 => some (.le 1) | 0x016 => some (.le 2) | 0x017 => some (.le 3)
  | 0x018 => some (.ls 0) | 0x019 => some (.ls 1) | 0x01A => some (.ls 2) | 0x01B => some (.ls 3)
  | _ => none

def Dir.num : Dir → Nat
  | .w => 0 | .e => 1 | .n => 2 | .s => 3

def StreamQ.num : StreamQ → Nat
  | .vaO0 => 0 | .vaO1 => 1 | .vf0O0 => 2 | .vf0O1 => 3 | .vf1O0 => 4 | .vf1O1 => 5

/-- Port-source numbers (04 R86). -/
def PortSrc.num : PortSrc → BitVec 9
  | .link .w => 0x000 | .link .e => 0x001 | .link .n => 0x002 | .link .s => 0x003
  | .inbox => 0x008 | .gl => 0x010 | .spr => 0x011
  | .sq .vaO0 => 0x100 | .sq .vaO1 => 0x101 | .sq .vf0O0 => 0x102 | .sq .vf0O1 => 0x103
  | .sq .vf1O0 => 0x104 | .sq .vf1O1 => 0x105

def PortSrc.ofNum (x : BitVec 9) : Option PortSrc :=
  match x.toNat with
  | 0x000 => some (.link .w) | 0x001 => some (.link .e) | 0x002 => some (.link .n) | 0x003 => some (.link .s)
  | 0x008 => some .inbox | 0x010 => some .gl | 0x011 => some .spr
  | 0x100 => some (.sq .vaO0) | 0x101 => some (.sq .vaO1) | 0x102 => some (.sq .vf0O0) | 0x103 => some (.sq .vf0O1)
  | 0x104 => some (.sq .vf1O0) | 0x105 => some (.sq .vf1O1)
  | _ => none

/-! ### The opcode map (04 R95) -/

def trigCu (opc : BitVec 6) (h : Head) (e : Bool) : Option Instr :=
  match opc.toNat with
  | 0x00 => some (.br h e)
  | 0x01 => some (.jmp h e)
  | 0x02 => some (.call h e)
  | 0x03 => some (.ret h e)
  | 0x04 => some (.loop h e)
  | 0x05 => some (.endTile h e)
  | 0x06 => some (.trap h e)
  | 0x07 => some (.tret h e)
  | _ => none

def trigIa (u : Bool) (opc : BitVec 6) (h : Head) (e : Bool) : Option Instr :=
  match opc.toNat with
  | 0x00 => some (.add h u e)
  | 0x01 => some (.sub h u e)
  | 0x02 => some (.and h u e)
  | 0x03 => some (.andn h u e)
  | 0x04 => some (.or h u e)
  | 0x05 => some (.xor h u e)
  | 0x06 => some (.shl h u e)
  | 0x07 => some (.shr h u e)
  | 0x08 => some (.sar h u e)
  | 0x09 => some (.rol h u e)
  | 0x0A => some (.min h u e)
  | 0x0B => some (.minU h u e)
  | 0x0C => some (.max h u e)
  | 0x0D => some (.maxU h u e)
  | 0x10 => some (.cmpEq h u e)
  | 0x11 => some (.cmpNe h u e)
  | 0x12 => some (.cmpLt h u e)
  | 0x13 => some (.cmpLe h u e)
  | 0x14 => some (.cmpLtu h u e)
  | 0x15 => some (.cmpLeu h u e)
  | 0x18 => some (.sel h u e)
  | 0x19 => some (.clz h u e)
  | 0x1A => some (.popc h u e)
  | 0x1B => some (.bext h u e)
  | 0x1C => some (.bins h u e)
  | 0x1D => some (.sext h u e)
  | 0x20 => some (.pand h u e)
  | 0x21 => some (.por h u e)
  | 0x22 => some (.pxor h u e)
  | _ => none

def trigIm (opc : BitVec 6) (h : Head) (e : Bool) : Option Instr :=
  match opc.toNat with
  | 0x00 => some (.mul h e)
  | 0x01 => some (.mulh h e)
  | 0x02 => some (.mulhU h e)
  | 0x03 => some (.mad h e)
  | 0x04 => some (.div h e)
  | 0x05 => some (.divU h e)
  | 0x06 => some (.rem h e)
  | 0x07 => some (.remU h e)
  | _ => none

def trigAu (opc : BitVec 6) (h : Head) (e : Bool) : Option Instr :=
  match opc.toNat with
  | 0x00 => some (.ldB h e)
  | 0x01 => some (.ldH h e)
  | 0x02 => some (.ldW h e)
  | 0x03 => some (.ldD h e)
  | 0x04 => some (.ldBz h e)
  | 0x05 => some (.ldHz h e)
  | 0x06 => some (.ldWz h e)
  | 0x08 => some (.stB h e)
  | 0x09 => some (.stH h e)
  | 0x0A => some (.stW h e)
  | 0x0B => some (.stD h e)
  | 0x0C => some (.stDRel h e)
  | 0x10 => some (.vld h e)
  | 0x11 => some (.vst h e)
  | 0x12 => some (.gld h e)
  | 0x13 => some (.sct h e)
  | 0x18 => some (.ldt h e)
  | 0x19 => some (.ldtV h e)
  | 0x1A => some (.rdm h e)
  | 0x1B => some (.rdmS h e)
  | 0x1C => some (.tkq h e)
  | 0x1D => some (.tkx h e)
  | 0x20 => some (.amoAdd h e)
  | 0x21 => some (.amoMin h e)
  | 0x22 => some (.amoMax h e)
  | 0x23 => some (.amoAnd h e)
  | 0x24 => some (.amoOr h e)
  | 0x25 => some (.amoXor h e)
  | 0x26 => some (.amoXchg h e)
  | 0x27 => some (.amoCas h e)
  | 0x28 => some (.amoAddAcq h e)
  | 0x29 => some (.amoMinAcq h e)
  | 0x2A => some (.amoMaxAcq h e)
  | 0x2B => some (.amoAndAcq h e)
  | 0x2C => some (.amoOrAcq h e)
  | 0x2D => some (.amoXorAcq h e)
  | 0x2E => some (.amoXchgAcq h e)
  | 0x2F => some (.amoCasAcq h e)
  | 0x30 => some (.amoAddRel h e)
  | 0x31 => some (.amoMinRel h e)
  | 0x32 => some (.amoMaxRel h e)
  | 0x33 => some (.amoAndRel h e)
  | 0x34 => some (.amoOrRel h e)
  | 0x35 => some (.amoXorRel h e)
  | 0x36 => some (.amoXchgRel h e)
  | 0x37 => some (.amoCasRel h e)
  | 0x38 => some (.pref h e)
  | 0x39 => some (.spb h e)
  | 0x3A => some (.fla h e)
  | 0x3B => some (.loc h e)
  | _ => none

def trigSy (opc : BitVec 6) (h : Head) (e : Bool) : Option Instr :=
  match opc.toNat with
  | 0x00 => some (.phaseT h e)
  | 0x01 => some (.phaseG h e)
  | 0x02 => some (.bar h e)
  | 0x03 => some (.fence h e)
  | 0x04 => some (.wait h e)
  | 0x05 => some (.slns h e)
  | 0x06 => some (.twns h e)
  | 0x07 => some (.tstmp h e)
  | 0x08 => some (.cycle h e)
  | 0x09 => some (.enq h e)
  | 0x0A => some (.join h e)
  | 0x0B => some (.mode h e)
  | 0x0C => some (.srd h e)
  | 0x0D => some (.swr h e)
  | _ => none

def trigCh (opc : BitVec 6) (h : Head) (e : Bool) : Option Instr :=
  match opc.toNat with
  | 0x00 => some (.send h e)
  | 0x01 => some (.sendP h e)
  | 0x02 => some (.recv h e)
  | 0x03 => some (.strm h e)
  | 0x04 => some (.coll h e)
  | _ => none

def trigCp (opc : BitVec 6) (h : Head) (e : Bool) : Option Instr :=
  match opc.toNat with
  | 0x00 => some (.cpy h e)
  | 0x01 => some (.cpym h e)
  | 0x02 => some (.cpnest h e)
  | 0x03 => some (.cpbuf h e)
  | 0x04 => some (.cpadv h e)
  | _ => none

def trigVa (opc : BitVec 6) (h : Head) (e : Bool) : Option Instr :=
  match opc.toNat with
  | 0x00 => some (.vadd h e)
  | 0x01 => some (.vaddS h e)
  | 0x02 => some (.vsub h e)
  | 0x03 => some (.vsubS h e)
  | 0x04 => some (.vmul h e)
  | 0x05 => some (.vmad h e)
  | 0x06 => some (.vand h e)
  | 0x07 => some (.vor h e)
  | 0x08 => some (.vxor h e)
  | 0x09 => some (.vshl h e)
  | 0x0A => some (.vshr h e)
  | 0x0B => some (.vshrA h e)
  | 0x0C => some (.vmin h e)
  | 0x0D => some (.vmax h e)
  | 0x0E => some (.vabs h e)
  | 0x10 => some (.vcmpEq h e)
  | 0x11 => some (.vcmpNe h e)
  | 0x12 => some (.vcmpLt h e)
  | 0x13 => some (.vcmpLe h e)
  | 0x14 => some (.vcmpLtu h e)
  | 0x15 => some (.vcmpLeu h e)
  | 0x18 => some (.vsel h e)
  | _ => none

def trigVf (u : Bool) (opc : BitVec 6) (h : Head) (e : Bool) : Option Instr :=
  match opc.toNat with
  | 0x00 => some (.fadd h u e)
  | 0x01 => some (.fsub h u e)
  | 0x02 => some (.fmul h u e)
  | 0x03 => some (.ffma h u e)
  | 0x04 => some (.ffmaN h u e)
  | 0x05 => some (.ffms h u e)
  | 0x06 => some (.fmin h u e)
  | 0x07 => some (.fmax h u e)
  | 0x08 => some (.fabs h u e)
  | 0x09 => some (.fabsNeg h u e)
  | 0x0A => some (.fabsSgn h u e)
  | 0x10 => some (.fcmpEq h u e)
  | 0x11 => some (.fcmpNe h u e)
  | 0x12 => some (.fcmpLt h u e)
  | 0x13 => some (.fcmpLe h u e)
  | 0x14 => some (.fcmpUn h u e)
  | 0x15 => some (.fcmpOrd h u e)
  | 0x18 => some (.fcvt h u e)
  | 0x19 => some (.frnd h u e)
  | _ => none

def trigVx (opc : BitVec 6) (h : Head) (e : Bool) : Option Instr :=
  match opc.toNat with
  | 0x00 => some (.vperm h e)
  | 0x01 => some (.vbcst h e)
  | 0x02 => some (.vredAdd h e)
  | 0x03 => some (.vredMin h e)
  | 0x04 => some (.vredMax h e)
  | 0x05 => some (.vscanAdd h e)
  | 0x06 => some (.vcmpx h e)
  | 0x07 => some (.vqnt h e)
  | 0x08 => some (.vqntSr h e)
  | 0x09 => some (.vdqn h e)
  | 0x0A => some (.vcvt h e)
  | _ => none

def trigGp (opc : BitVec 6) (h : Head) (e : Bool) : Option Instr :=
  match opc.toNat with
  | 0x00 => some (.ori2 h e)
  | 0x01 => some (.ori3 h e)
  | 0x02 => some (.incir h e)
  | 0x03 => some (.insph h e)
  | 0x04 => some (.segx h e)
  | 0x10 => some (.gpst h e)
  | _ => none

def trigSf (opc : BitVec 6) (h : Head) (e : Bool) : Option Instr :=
  match opc.toNat with
  | 0x00 => some (.sfn h e)
  | 0x01 => some (.sfrow h e)
  | 0x02 => some (.sfld h e)
  | 0x03 => some (.sfcm h e)
  | _ => none

def trigMx (opc : BitVec 6) (h : Head) (e : Bool) : Option Instr :=
  match opc.toNat with
  | 0x00 => some (.mlda h e)
  | 0x01 => some (.mldb h e)
  | 0x02 => some (.mma h e)
  | 0x03 => some (.mzro h e)
  | 0x04 => some (.mrd h e)
  | 0x05 => some (.mqrd h e)
  | _ => none

/-- The trigger a socket and opcode name, none where the pair is not in the map (04 R93). -/
def Instr.ofTrig (k : Sock) (opc : BitVec 6) (h : Head) (e : Bool) : Option Instr :=
  match k with
  | .cu => trigCu opc h e | .ia0 => trigIa false opc h e | .ia1 => trigIa true opc h e | .im => trigIm opc h e
  | .au => trigAu opc h e | .sy => trigSy opc h e | .ch => trigCh opc h e | .cp => trigCp opc h e
  | .va => trigVa opc h e | .vf0 => trigVf false opc h e | .vf1 => trigVf true opc h e | .vx => trigVx opc h e
  | .gp => trigGp opc h e | .sf => trigSf opc h e | .mx => trigMx opc h e

/-! ### Fields of a move word -/

/-- A source field with the bundle's literal words, or the check code it breaks (04 R83, R84, R86, R90, R96). -/
def decodeSrc (x : BitVec 12) (lits : List (BitVec 31)) : Except Nat Src :=
  match (x.extractLsb' 9 3).toNat with
  | 0 => if x.extractLsb' 6 3 = 0 then .ok (.g (x.extractLsb' 0 6)) else .error 8
  | 1 =>
    if x.extractLsb' 1 3 ≠ 0 then .error 5
    else
      match Sock.ofNum (x.extractLsb' 4 5) with
      | none => .error 6
      | some k => .ok (.res k (x.getLsbD 0))
  | 2 => .ok (.imm (x.extractLsb' 0 9))
  | 3 =>
    if x.extractLsb' 0 4 ≠ 0 then .error 8
    else
      let i := x.extractLsb' 6 3
      match lits[i.toNat]? with
      | none => .error 9
      | some lo =>
        match (x.extractLsb' 4 2).toNat with
        | 0 => .ok (.lit i lo .sx31)
        | 1 =>
          match lits[i.toNat + 1]? with
          | none => .error 9
          | some hi => .ok (.lit i lo (.sx62 hi))
        | 2 => .ok (.lit i lo .zx31)
        | _ => .ok (.lit i lo .sh31)
  | 4 => if x.extractLsb' 5 4 = 0 then .ok (.v (x.extractLsb' 0 5)) else .error 8
  | 5 =>
    if x.extractLsb' 5 4 ≠ 0 then .error 8
    else if x.getLsbD 4 then
      if x.getLsbD 3 then .error 8 else .ok (.q (x.extractLsb' 0 3))
    else .ok (.p (x.extractLsb' 0 4))
  | 6 =>
    match PortSrc.ofNum (x.extractLsb' 0 9) with
    | none => .error 5
    | some n => .ok (.port n)
  | _ =>
    match SReg.ofNum (x.extractLsb' 0 9) with
    | none => .error 5
    | some r => .ok (.spec r)

/-- What a destination field names: a plain destination, or a trigger's constructor awaiting its head. -/
inductive DstField where
  | plain (d : Dst)
  | trig (k : Sock) (opc : BitVec 6) (e : Bool)
  deriving DecidableEq, Repr

/-- A register sub-class (04 R88). -/
def decodeReg (x : BitVec 12) : Except Nat DstField :=
  let n := x.extractLsb' 0 9
  match (x.extractLsb' 9 3).toNat with
  | 0 => if n.extractLsb' 6 3 = 0 then .ok (.plain (.g (n.extractLsb' 0 6))) else .error 8
  | 1 => if n.extractLsb' 5 4 = 0 then .ok (.plain (.v (n.extractLsb' 0 5))) else .error 8
  | 2 => if n.extractLsb' 4 5 = 0 then .ok (.plain (.p (n.extractLsb' 0 4))) else .error 8
  | 3 => if n.extractLsb' 3 6 = 0 then .ok (.plain (.q (n.extractLsb' 0 3))) else .error 8
  | 4 =>
    match SReg.ofNum n with
    | none | some .pc => .error 5
    | some r => .ok (.plain (.spec r))
  | 5 =>
    match PortSrc.ofNum n with
    | some (.link d) => .ok (.plain (.link d))
    | some .spr => .ok (.plain .spr)
    | _ => .error 5
  | _ => .error 5

/-- A destination field, or the check code it breaks (04 R87, R93, R96). -/
def decodeDst (x : BitVec 14) : Except Nat DstField :=
  match (x.extractLsb' 12 2).toNat with
  | 0 => decodeReg (x.extractLsb' 0 12)
  | 1 => .error 5
  | 2 =>
    match Sock.ofNum (x.extractLsb' 7 5) with
    | none => .error 6
    | some k =>
      if x.extractLsb' 0 4 = 0 then .ok (.plain (.opnd k (x.extractLsb' 5 2) (x.getLsbD 4))) else .error 8
  | _ =>
    match Sock.ofNum (x.extractLsb' 7 5) with
    | none => .error 6
    | some k => .ok (.trig k (x.extractLsb' 0 6) (x.getLsbD 6))

/-- A move word on a bus: the instruction, or the lowest check code of 5 to 10 that it breaks (04 R96). -/
def decodeMove (lits : List (BitVec 31)) (b : Bus) (w : W32) : Except Nat Instr :=
  match decodeSrc (w.extractLsb' 14 12) lits, decodeDst (w.extractLsb' 0 14) with
  | .error a, .error c => .error (min a c)
  | .error a, .ok (.trig k opc e) =>
    match Instr.ofTrig k opc ⟨b, 0, .g 0⟩ e with
    | none => .error (min a 7)
    | some _ => .error a
  | .error a, .ok (.plain _) => .error a
  | .ok _, .error c => .error c
  | .ok src, .ok f =>
    let h : Head := ⟨b, w.extractLsb' 26 5, src⟩
    match f with
    | .plain d => if src.onBus b.kind && d.onBus b.kind then .ok (.move h d) else .error 10
    | .trig k opc e =>
      match Instr.ofTrig k opc h e with
      | none => .error 7
      | some i => if src.onBus b.kind && k.trigBus b.kind then .ok i else .error 10

/-! ### Bundles -/

/-- A decoded bundle: its length in words, the ROT bit and its moves in bus order (04 R77, R78). -/
structure Bundle where
  len : Nat
  rot : Bool
  nlit : Nat
  moves : List Instr
  deriving DecidableEq, Repr

/-- The buses of a BUSMASK field, from bit [30] of the header down (04 R77). -/
def busesOf (m : BitVec 10) : List Bus :=
  (if m.getLsbD 9 then [.s0] else []) ++ (if m.getLsbD 8 then [.s1] else []) ++ (if m.getLsbD 7 then [.s2] else []) ++
  (if m.getLsbD 6 then [.v0] else []) ++ (if m.getLsbD 5 then [.v1] else []) ++ (if m.getLsbD 4 then [.v2] else []) ++
  (if m.getLsbD 3 then [.v3] else []) ++ (if m.getLsbD 2 then [.m0] else []) ++ (if m.getLsbD 1 then [.c0] else []) ++
  (if m.getLsbD 0 then [.c1] else [])

/-- What the duplicate-destination rule compares (04 R91). -/
inductive DstKey where
  | g (i : BitVec 6) | v (i : BitVec 5) | p (n : Nat) | q (n : Nat) | spec (r : SReg) | link (d : Dir) | spr
  | opnd (k : Sock) (port : BitVec 2) (e : Bool) | trig (k : Sock) | none
  deriving DecidableEq, Repr

def Dst.key : Dst → DstKey
  | .g i => .g i | .v i => .v i | .p n => .p (n.toNat / 2) | .q n => .q (n.toNat / 2) | .spec r => .spec r
  | .link d => .link d | .spr => .spr | .opnd k n e => .opnd k n e

def Instr.key : Instr → DstKey
  | .move _ d => d.key
  | i => match i.trig? with
    | some (_, k, _, _) => .trig k
    | none => .none

/-- The head of a move word. -/
def Instr.head? : Instr → Option Head
  | .move h _ => some h
  | i => i.trig?.map (·.1)

/-- The g index a move reads (04 R92). -/
def Instr.gRead? (i : Instr) : Option (BitVec 6) :=
  match i.head? with
  | some ⟨_, _, .g n⟩ => some n
  | _ => Option.none

/-- The moves decoded, or the first lowest check code with its word offset from the header. -/
def decodeMoves (lits : List (BitVec 31)) : Nat → List Bus → List W32 → Except (Nat × Nat) (List Instr)
  | off, b :: bs, w :: ws =>
    match decodeMove lits b w, decodeMoves lits (off + 1) bs ws with
    | .ok i, .ok is => .ok (i :: is)
    | .ok _, .error x => .error x
    | .error c, .ok _ => .error (c, off)
    | .error c, .error (c', off') => if c ≤ c' then .error (c, off) else .error (c', off')
  | _, _, _ => .ok []

/-- The offset of the first move whose destination an earlier one names (04 R91): of two moves with one destination, the later
one's (log 99). -/
def firstDup : List DstKey → Nat → List Instr → Option Nat
  | _, _, [] => none
  | seen, off, i :: is => if seen.contains i.key then some off else firstDup (i.key :: seen) (off + 1) is

/-- The offset of the first move that reads a second g register of one bank (04 R92): of two moves in conflict, the later one's
(log 99). -/
def firstBank : Option (BitVec 6) → Option (BitVec 6) → Nat → List Instr → Option Nat
  | _, _, _, [] => none
  | ev, od, off, i :: is =>
    match i.gRead? with
    | none => firstBank ev od (off + 1) is
    | some n =>
      if n.getLsbD 0 then
        if od.all (· == n) then firstBank ev (some n) (off + 1) is else some off
      else
        if ev.all (· == n) then firstBank (some n) od (off + 1) is else some off

/-- A bundle's words, from its header to the end of its packet: the bundle, or the lowest check code of 2 to 12 that
holds with the word offset it reports (04 R96). -/
def decodeBundle (ws : List W32) : Except (Nat × Nat) Bundle :=
  match ws with
  | [] => .error (2, 0)
  | hd :: rest =>
    let buses := busesOf (hd.extractLsb' 21 10)
    let nlit := (hd.extractLsb' 18 3).toNat
    let n := buses.length
    if 16 < 1 + n + nlit || rest.length < n + nlit then .error (2, 0)
    else if (rest.take (n + nlit)).any (·.getLsbD 31) then .error (3, 0)
    else if hd.extractLsb' 0 17 ≠ 0 then .error (4, 0)
    else
      let lits := ((rest.drop n).take nlit).map (·.extractLsb' 0 31)
      match decodeMoves lits 1 buses (rest.take n) with
      | .error x => .error x
      | .ok is =>
        match firstDup [] 1 is with
        | some off => .error (11, off)
        | none =>
          match firstBank none none 1 is with
          | some off => .error (12, off)
          | none => .ok ⟨1 + n + nlit, hd.getLsbD 17, nlit, is⟩

/-- The buses in the order in which source text is given its buses (03 R63, as 04's worked example shows). -/
def busOrder : List Bus := [.s0, .s1, .s2, .v0, .v1, .v2, .v3, .m0, .c0, .c1]

/-- The instruction of a row of the opcode table: the move word on the first bus that carries it, every literal word
zero. -/
def decodeTableWord (nbits w : Nat) : Option Instr :=
  if nbits = 32 ∧ w < 2 ^ 31 then
    busOrder.findSome? fun b =>
      match decodeMove (List.replicate 7 0) b (BitVec.ofNat 32 w) with
      | .ok i => some i
      | .error _ => none
  else none

/-! ### The encoder -/

def encodeSrc : Src → BitVec 12
  | .g i => (0#3 ++ 0#3 ++ i : BitVec 12)
  | .res k r2 => (1#3 ++ k.num ++ 0#3 ++ BitVec.ofBool r2 : BitVec 12)
  | .imm x => (2#3 ++ x : BitVec 12)
  | .lit i _ f =>
    let form : BitVec 2 := match f with | .sx31 => 0 | .sx62 _ => 1 | .zx31 => 2 | .sh31 => 3
    (3#3 ++ i ++ form ++ 0#4 : BitVec 12)
  | .v i => (4#3 ++ 0#4 ++ i : BitVec 12)
  | .p i => (5#3 ++ 0#4 ++ 0#1 ++ i : BitVec 12)
  | .q i => (5#3 ++ 0#4 ++ 1#1 ++ 0#1 ++ i : BitVec 12)
  | .port n => (6#3 ++ n.num : BitVec 12)
  | .spec r => (7#3 ++ r.num : BitVec 12)

def encodeDst : Dst → BitVec 14
  | .g i => (0#2 ++ 0#3 ++ 0#3 ++ i : BitVec 14)
  | .v i => (0#2 ++ 1#3 ++ 0#4 ++ i : BitVec 14)
  | .p n => (0#2 ++ 2#3 ++ 0#5 ++ n : BitVec 14)
  | .q n => (0#2 ++ 3#3 ++ 0#6 ++ n : BitVec 14)
  | .spec r => (0#2 ++ 4#3 ++ r.num : BitVec 14)
  | .link d => (0#2 ++ 5#3 ++ (PortSrc.link d).num : BitVec 14)
  | .spr => (0#2 ++ 5#3 ++ PortSrc.spr.num : BitVec 14)
  | .opnd k n e => (2#2 ++ k.num ++ n ++ BitVec.ofBool e ++ 0#4 : BitVec 14)

def encodeTrig (k : Sock) (opc : BitVec 6) (e : Bool) : BitVec 14 :=
  (3#2 ++ k.num ++ BitVec.ofBool e ++ opc : BitVec 14)

/-- The move word of an instruction (04 R81); none of an event. -/
def Instr.word : Instr → Option W32
  | .move h d => some (0#1 ++ h.g ++ encodeSrc h.src ++ encodeDst d : BitVec 32)
  | i => i.trig?.map fun (h, k, opc, e) => (0#1 ++ h.g ++ encodeSrc h.src ++ encodeTrig k opc e : BitVec 32)

def Bus.mask : Bus → BitVec 10
  | .s0 => 0x200 | .s1 => 0x100 | .s2 => 0x080 | .v0 => 0x040 | .v1 => 0x020 | .v2 => 0x010 | .v3 => 0x008
  | .m0 => 0x004 | .c0 => 0x002 | .c1 => 0x001

/-- The literal words of a one-move bundle: those before the move's own are zero. -/
def Src.literals : Src → List W32
  | .lit i lo (.sx62 hi) => List.replicate i.toNat 0 ++ [lo.setWidth 32, hi.setWidth 32]
  | .lit i lo _ => List.replicate i.toNat 0 ++ [lo.setWidth 32]
  | _ => []

/-- A header word (04 R77). -/
def headerWord (mask : BitVec 10) (nlit : Nat) (rot : Bool) : W32 :=
  (1#1 ++ mask ++ BitVec.ofNat 3 nlit ++ BitVec.ofBool rot ++ 0#17 : BitVec 32)

/-- The words of the bundle that holds exactly this move: header, move word, literal words. An event has none. -/
def encode (i : Instr) : List W32 :=
  match i.head?, i.word with
  | some h, some w =>
    let ls := h.src.literals
    headerWord h.bus.mask ls.length false :: w :: ls
  | _, _ => []

end Sys2Proof
end

