-- ==== Sys2Proof/Machine/State.lean ====
section
/-! DEFINITION. The machine's state: the whole module, as plain data. A tile, slice, cluster, boundary module, voltage
row or table entry that its list does not name is in its reset state. -/
namespace Sys2Proof.Machine

/-- Why the machine stops. No instruction of this model stops it: every trap, fault and park of the NX-5 is a next
state. The one constructor is kept for an agent that the module does not have. -/
inductive Fault where
  /-- A tile bundle asked of a tile number the module does not have. Raised by nothing from a well-formed state. Safe. -/
  | noSuchTile
  deriving DecidableEq, Repr

/-- Why an instruction has no meaning here. -/
inductive Refusal where
  /-- Raised by the arm of an instruction that is not modelled yet. Safe: nothing follows from it. -/
  | notModelled (mnemonic : String)
  deriving DecidableEq, Repr

/-! ### Values -/

/-- Format tags (05 R107); `raw` is NONE. -/
inductive Tag where
  | raw | i8 | i16 | i32 | i64 | ui8 | ui16 | ui32 | ui64 | fp16 | bf16 | fp32 | fp64
  | bfm2 | bfm3 | bfm4 | bfm5 | bfm6 | bfm7 | bfm8 | pred
  deriving DecidableEq, Repr

/-- A value on a bus, a port or in an operand entry: up to 2048 data bits, a tag and up to eight 24-bit scales (02 R25,
05 R106, R108, 12 R260). A scalar stands in the low 64 bits. -/
structure Val where
  data : BitVec 2048
  tag : Tag
  side : BitVec 192
  deriving DecidableEq, Repr

def Val.zero : Val := ⟨0, .raw, 0⟩

/-- The flags an operation raises, in the order of FPC[14:8]: QC, BV, NV, DZ, OF, UF, NX (06 R134). -/
abbrev Flags := BitVec 7

/-- A v register (05 R105, R106). -/
structure VReg where
  data : BitVec 1024
  tag : Tag
  side : BitVec 96
  deriving DecidableEq, Repr

def VReg.zero : VReg := ⟨0, .raw, 0⟩

/-- Memory in canonical form: addresses strictly rising, no byte equal to what an unlisted address reads as, zero
(log 1, log 2). -/
abbrev Mem := List Host.Cell

/-- No cell is zero and the addresses rise from `lo` on. -/
def Mem.wfFrom (lo : Nat) : Mem → Bool
  | [] => true
  | (a, b) :: m => decide (lo ≤ a) && (b != 0) && Mem.wfFrom (a + 1) m

/-- The canonical form. -/
def Mem.wf (m : Mem) : Bool := m.wfFrom 0

/-! ### Results on their way (02 R33 to R45, 15 R338, R340, R351) -/

/-- The operands an operation captured when it was triggered: T, O0[e], O1[e], the four scalar entries, E and the
opcode. A saved wait and a reissued request start from them (15 R342, R346, R352). -/
structure Opnds where
  t : Val
  o0 : Val
  o1 : Val
  e00 : W64
  e01 : W64
  e10 : W64
  e11 : W64
  e : Bool
  opc : BitVec 6
  deriving DecidableEq, Repr

def Opnds.zero : Opnds := ⟨.zero, .zero, .zero, 0, 0, 0, 0, false, 0⟩

/-- A fault that a result carries (02 R45, 15 R335). -/
structure FaultRep where
  code : BitVec 8
  addr : W64
  aux : BitVec 8
  lmask : BitVec 16
  deriving DecidableEq, Repr

def FaultRep.zero : FaultRep := ⟨0, 0, 0, 0⟩

/-- A place of a variable-latency result queue (02 R42, 15 R340, R352): `flt` is its FAULT bit, `rep` its CODE, FADDR and
what else a faulted result reports. -/
structure Place where
  id : Nat
  ready : Bool
  val : Val
  flt : Bool
  rep : FaultRep
  fl : Flags
  hp : Bool
  rt : Bool
  rtag : Tag
  ops : Opnds
  deriving DecidableEq, Repr

/-- A fixed-latency result in flight: the issued-bundle count it is due for (in a shadow, its offset j), its trigger
order, its value and its flags (02 R33, 15 R338). `unread`, `flt` and `rep` are the fields of its record that only a write
to the map sets (15 R352). -/
structure Flight where
  due : Nat
  id : Nat
  val : Val
  fl : Flags
  opc : BitVec 6
  unread : Bool
  flt : Bool
  rep : FaultRep
  deriving DecidableEq, Repr

/-- A result as its operation sends it on its way. -/
def Flight.fresh (due id : Nat) (val : Val) (fl : Flags) (opc : BitVec 6) : Flight :=
  ⟨due, id, val, fl, opc, false, false, .zero⟩

/-- A fixed-latency result port (02 R38); `full` says that a result has landed on it (15 R352, V); `fl` are the flags it
landed with, `flt` and `rep` what a write to the map set. -/
structure Port where
  val : Val
  unread : Bool
  opc : BitVec 6
  full : Bool
  fl : Flags
  flt : Bool
  rep : FaultRep
  deriving DecidableEq, Repr

def Port.empty : Port := ⟨.zero, false, 0, false, 0, false, .zero⟩

/-- The port once a result has landed on it. -/
def Flight.land (x : Flight) : Port := ⟨x.val, true, x.opc, true, x.fl, x.flt, x.rep⟩

/-- A fixed-latency socket's results: its port, what is in flight, and what a trap captured. -/
structure Fixed where
  port : Port
  pipe : List Flight
  shPort : Option Port
  shadows : List Flight
  deriving DecidableEq, Repr

def Fixed.empty : Fixed := ⟨.empty, [], none, []⟩

/-! ### The matrix socket (chapter 12) -/

/-- An operand file: eight operand rows and the width (12 R259, R260). -/
structure MxFile where
  rows : Vector Val 8
  width : Nat
  deriving DecidableEq, Repr

def MxFile.launch : MxFile := ⟨Vector.replicate 8 .zero, 8⟩

/-- A queued MX operation with the fields of its T (12 R266) and the operands its trigger captured. A follow-on MLDB
names the copy it waits for; `poison` says that the copy ended in a fault (12 R280). -/
inductive MxOp where
  | mlda (file : Bool) (width : Nat) (index : BitVec 512)
  | mldb (file : Bool) (width : Nat) (entries : Bool) (offset : Nat) (captured : List Val) (copy : Option Nat)
      (poison : Bool)
  | mma (a b : Bool) (acc : Nat)
  | mzro (mask : BitVec 4)
  | mrd (hi : Bool) (fmt row acc : Nat) (mode : BitVec 2)
  | mqrd (pair : Bool) (width row acc : Nat) (mode : BitVec 2)
  deriving DecidableEq, Repr

/-- An operation waiting in the queue: its trigger order and the bundle of its trigger. -/
structure MxQueued where
  id : Nat
  at_ : Nat
  op : MxOp
  deriving DecidableEq, Repr

/-- A load in progress: the bundles until which the unit is busy and from which the file is ready, and what it will
write (12 R275). -/
structure MxLoad where
  op : MxOp
  busyTo : Nat
  ready : Nat
  rows : Vector Val 8
  bad : Bool
  deriving DecidableEq, Repr

/-- An MMA in progress, with the files it read (12 R269, R275). -/
structure MxRun where
  id : Nat
  a : MxFile
  b : MxFile
  useA : Bool
  useB : Bool
  acc : Nat
  arrayTo : Nat
  done : Nat
  deriving DecidableEq, Repr

/-- MX (12 R259). An accumulator row is 32 binary64 elements; row i of accn is row 32n + i. -/
structure Mx where
  acc : Vector (Vector W64 32) 128
  a0 : MxFile
  a1 : MxFile
  b0 : MxFile
  b1 : MxFile
  latch : MxFile
  latchTag : Tag
  cursor : Nat
  rp : Nat
  wp : Nat
  queue : List MxQueued
  lastStart : Option Nat
  load : Option MxLoad
  arrayTo : Option Nat
  runs : List MxRun
  deriving DecidableEq, Repr

def Mx.launch : Mx :=
  ⟨Vector.replicate 128 (Vector.replicate 32 0), .launch, .launch, .launch, .launch, .launch, .raw, 0, 0, 0, [], none,
    none, none, []⟩

/-! ### Memory accesses of a tile (chapters 08 to 11) -/

inductive AmoOp where
  | add | min | max | and | or | xor | xchg | cas
  deriving DecidableEq, Repr

inductive AmoOrd where
  | relaxed | acq | rel
  deriving DecidableEq, Repr

/-- What an outstanding request of AU, or an ENQ or JOIN of SY, asks for. -/
inductive ReqKind where
  | load (size : Nat) (signed : Bool)
  | vload (size : Nat) (tag : Tag)
  | gload (tag : Tag)
  | store
  | storeRel
  | amo (op : AmoOp) (ord : AmoOrd)
  | ldt (line : Bool)
  | rdm
  | rdmS (off : Nat)
  | tkq
  | tkx
  | pref
  | loc
  | enq (queue : Nat) (off : Nat)
  | join
  deriving DecidableEq, Repr

/-- How far one access of a request has come: not yet translated; waiting on a pending-miss entry; translated; performed
(a read's bytes stand in the lane's data); failed with a cause code and its AUX; `deny`: a JOIN's or an AMO.REL's, whose address
faulted, and which has still to publish (08 R183, 18 R391). -/
inductive LaneSt where
  | issue | miss | hit (pa : Nat) | fin | flt (code : BitVec 8) (aux : BitVec 8) | deny (code : BitVec 8) (aux : BitVec 8)
  deriving DecidableEq, Repr

/-- One access: the whole request, or one lane of a gather or scatter. `data` holds up to 140 bytes. -/
structure Lane where
  idx : Nat
  addr : W64
  len : Nat
  st : LaneSt
  data : BitVec 1120
  deriving DecidableEq, Repr

/-- An outstanding request, with its trigger order, the bundle it was triggered in and its captured operands. `sent`: an LDT
that has left the AU, with the logged bytes that it carries (11 R244); a ST.D.REL whose release steps are done (20 R467). -/
structure Req where
  id : Nat
  nb : Nat
  kind : ReqKind
  ops : Opnds
  lanes : List Lane
  sent : Option (List (Option Byte))
  deriving DecidableEq, Repr

/-- One store's bytes in a write-log entry, in the order of logging (10 R212, R215). -/
structure LogStore where
  id : Nat
  mask : BitVec 8
  data : W64
  deriving DecidableEq, Repr

/-- A write-log entry: its index, its double (PA div 8) and the stores merged into it, oldest first. -/
structure LogEnt where
  idx : Nat
  dbl : Nat
  hist : List LogStore
  deriving DecidableEq, Repr

/-- An overflow record (10 R214). -/
structure OvfRec where
  dbl : Nat
  st : LogStore
  deriving DecidableEq, Repr

/-- The deferred-fault record (10 R226, R227). -/
structure Deferred where
  count : Nat
  cause : BitVec 8
  addr : W64
  aux : BitVec 8
  deriving DecidableEq, Repr

/-- A read-cache line of 128 bytes at line address `line` (PA div 128) (10 R216). -/
structure CLine where
  line : Nat
  data : BitVec 1024
  deriving DecidableEq, Repr

/-- A line fill in flight: what the slices returned, which granules met an error, and whether to discard it. -/
structure Fill where
  line : Nat
  data : BitVec 1024
  badLo : Bool
  badHi : Bool
  discard : Bool
  deriving DecidableEq, Repr

/-- A TLB entry (09 R205, R508): page size 0 64 KiB, 1 2 MiB, 2 1 GiB. -/
structure Tlb where
  psz : Nat
  w : Bool
  gran : Nat
  pa : Nat
  deriving DecidableEq, Repr

inductive SyncKind where
  | phaseT | phaseG | bar | fence
  deriving DecidableEq, Repr

/-- A synchronising operation under way (10 R221). `hp`: the handler triggered it; `arrived`: it waits for its barrier, or
for the checkpoint; `faults`: the deferred faults recorded when it was triggered. -/
structure Sync where
  kind : SyncKind
  id : Nat
  nb : Nat
  hp : Bool
  arrived : Bool
  faults : Nat
  deriving DecidableEq, Repr

/-- A WAIT under way with the bound left in cycles (21 R495, R496). -/
structure WaitOp where
  id : Nat
  t : W64
  tickets : List W64
  bound : Option Nat
  deriving DecidableEq, Repr

/-- A spill transfer (05 R117 to R121): the registers it moves (none: a dead or hard-wired name), how many are done,
whether a v register is half done, and for a spill the values as its trigger left them (none: a fill of the register was
still pending, and its value comes first). -/
structure Spill where
  id : Nat
  fill : Bool
  vfile : Bool
  off : Nat
  regs : List (Option Nat)
  vals : List (Option (BitVec 1152))
  pos : Nat
  half : Bool
  deriving DecidableEq, Repr

/-! ### Channel, copies, collectives (chapter 13) -/

structure Send where
  id : Nat
  peer : Bool
  word : W64
  payload : List W64
  delivered : Bool
  deriving DecidableEq, Repr

/-- A message: its header word and data words (13 R303). -/
structure Msg where
  hdr : W64
  words : List W64
  deriving DecidableEq, Repr

structure Recv where
  id : Nat
  off : Nat
  deriving DecidableEq, Repr

/-- A stream queue (13 R308, R309). -/
structure Strm where
  bind : W64
  rows : List (BitVec 1024)
  asm : List W64
  eos : Bool
  deriving DecidableEq, Repr

def Strm.empty : Strm := ⟨0, [], [], false⟩

/-- A circular buffer (13 R296 to R298): the counts of slots and the next slot to claim, fill and take; `owed` counts FREEs
of TAKEs still without a slot, `ended` holds slots whose job ended before an earlier slot's. -/
structure CBuf where
  desc : W64
  free : Nat
  filled : Nat
  taken : Nat
  inflight : Nat
  claimAt : Nat
  fillAt : Nat
  takeAt : Nat
  owed : Nat
  ended : List Nat
  deriving DecidableEq, Repr

def CBuf.empty : CBuf := ⟨0, 0, 0, 0, 0, 0, 0, 0, 0, []⟩

/-- A job card with its nest snapshot (13 R283, R287). -/
structure Card where
  w : Vector W64 8
  nest : BitVec 2048
  deriving DecidableEq, Repr

/-- A CPY or CPYM on its way to the job queue: its result place, its ticket once allocated. -/
structure CpySub where
  id : Nat
  card : Card
  mx : Bool
  ticket : Option W64
  deriving DecidableEq, Repr

/-- A collective accepted by a member (13 R299 to R302). Its DST is undefined until its ticket is READY (18 R404): `old` are
the bytes under it, those of the trigger with every write since then made. `early` are the bytes of its SRC at
the trigger, the first of the two values that an element written since may have (log 79). -/
structure CollSub where
  id : Nat
  card : Vector W64 8
  devs : BitVec 16384
  ticket : Option W64
  seqNo : Nat
  old : List Byte
  early : List Byte
  deriving DecidableEq, Repr

structure Take where
  id : Nat
  buf : Nat
  deriving DecidableEq, Repr

/-! ### GP and SF (chapter 14) -/

structure GpOp where
  id : Nat
  opc : BitVec 6
  off : Nat
  mask : BitVec 16
  f32 : Bool
  sos : Bool
  nfp : Nat
  cyc : Nat
  nb : Nat
  deriving DecidableEq, Repr

/-- The stage report of a predicate (14 R323). -/
structure GpStat where
  stages : List (BitVec 64)
  cycles : Nat
  opc : BitVec 6
  deriving DecidableEq, Repr

/-- The GP operation running: its results and the cycle in which they become valid (14 R322). -/
structure GpRun where
  op : GpOp
  doneAt : Nat
  res : Val
  res2 : W64
  flt : Option FaultRep
  deriving DecidableEq, Repr

structure Gp where
  queue : List GpOp
  run : Option GpRun
  last : Option GpStat
  deriving DecidableEq, Repr

/-- An SF bank (14 R329): the slots and table words a loaded package set; every other slot is the shipped bank's. -/
structure SfBank where
  slots : List (Nat × List W64)
  table : List (Nat × W64)
  deriving DecidableEq, Repr

structure SfOp where
  id : Nat
  nb : Nat
  opc : BitVec 6
  t : Val
  o0 : W64
  sel : BitVec 128
  mode : BitVec 2
  cm : Bool
  deriving DecidableEq, Repr

/-- SF: its banks (14 R329; the shadow bank keeps what the last SFLD left in it, log 71), CM and SFGEN, and its queue. -/
structure Sf where
  bank : SfBank
  shadow : SfBank
  cm : Bool
  gen : BitVec 32
  queue : List SfOp
  deriving DecidableEq, Repr

/-! ### Links (02 R49 to R55) -/

inductive Fwd where
  | word (w : W64) | marker
  deriving DecidableEq, Repr

inductive Back where
  | credit
  | notice (places : Nat)
  deriving DecidableEq, Repr

/-- One direction of a tile: the inbound queue and the markers awaited; the credits toward the neighbour; the words and
markers on their way to the neighbour, and the credits and notices on their way back to it. A notice says how many places
the queue has. -/
structure Link where
  queue : List W64
  await : Nat
  credit : Nat
  wire : List Fwd
  back : List Back
  deriving DecidableEq, Repr

def Link.reset : Link := ⟨[], 0, 8, [], []⟩

/-! ### A tile -/

/-- How the waiting bundle was reached: at launch, by sequential flow, or by a transfer of the bundle at `h` (04 R75,
R76). -/
inductive Via where
  | launch | seq | xfer (h : Nat)
  deriving DecidableEq, Repr

/-- A tile's run state (15 R353); `locked` is not stored, it is what the waiting bundle shows. -/
inductive Run where
  | idle | running | parked | stopping | draining | quarantined
  deriving DecidableEq, Repr

/-- A fatal-fault report's four words (15 R344). -/
structure Report where
  w0 : W64
  w1 : W64
  w2 : W64
  w3 : W64
  deriving DecidableEq, Repr

/-- An instruction-memory frame (07 R161): the image handle and page it is tagged with, its bytes, and its place in the order
in which bundles last issued from the tile's frames: the greater `used` is, the later. -/
structure Frame where
  tag : Option (Nat × Nat)
  bytes : Mem
  used : Nat
  deriving DecidableEq, Repr

def Frame.empty : Frame := ⟨none, [], 0⟩

/-- The fixed-latency results, MX and FPC as they stood before the landings of the waiting bundle (15 R338). -/
structure Pre where
  fixed : Vector Fixed 9
  mx : Mx
  fpc : W64
  deriving DecidableEq, Repr

/-- What a trap puts into TCAUSE, TADDR and TSTAT (15 R335): zero where the cause names no value (log 94). -/
structure Trap where
  code : BitVec 8
  sock : BitVec 5 := 0
  res2 : Bool := false
  swcode : BitVec 16 := 0
  addr : W64 := 0
  aux : BitVec 8 := 0
  lmask : BitVec 16 := 0
  dcnt : BitVec 8 := 0
  dcause : BitVec 8 := 0
  onResult : Bool := false
  deriving DecidableEq, Repr

/-- A trap of a bundle that has completed, or of a page that cannot be had, whose entry waits for the page of its handler:
the cause, the TPC and the header address of the bundle that raised it (07 R158, R163, 15 R337). -/
structure Entering where
  trap : Trap
  tpc : Int
  hdr : Nat
  deriving DecidableEq, Repr

/-- A tile. A failed fill's registers stand in `failed` with the scratchpad offset of the error (05 R123); `ovfCount` counts
the overflow records since the last publication (10 R222); `weir` is what is left of the Weir's response, in cycles (16
R366). `slnsH` is the handler's own SLNS interval. `relReq`: a RELEASE of the parked tile that waits for its engines (15 R353).
`resTrap` says that the trap whose handler runs was delivered on a faulted
result (15 R342, step 3). `mxKept` are the latch's cursor, RP and WP that the entry of the handler captured (12 R279). -/
structure Tile where
  g : Vector W64 64
  v : Vector VReg 32
  p : BitVec 16
  q : Vector W64 8
  pc : Int
  via : Via
  rrc : W64
  flm : W64
  fpc : W64
  tvec : W64
  tpc : W64
  tcause : W64
  taddr : W64
  tstat : W64
  resTrap : Bool
  gid : W64
  grank : W64
  gshape : W64
  phCount : BitVec 32
  lc : Vector W64 4
  le : Vector W64 4
  ls : Vector W64 4
  opnd : Vector Val 120
  fixed : Vector Fixed 9
  queues : Vector (List Place) 7
  pre : Option Pre
  entering : Option Entering
  nb : Nat
  cyc : Nat
  nextId : Nat
  mx : Mx
  mxKept : Option (Nat × Nat × Nat)
  spill : List Spill
  failed : List (Bool × Nat × Nat)
  reqs : List Req
  log : List LogEnt
  ovf : List OvfRec
  ovfCount : Nat
  deferred : Option Deferred
  syncFault : Bool
  cache : List CLine
  fills : List Fill
  tlb : List Tlb
  sync : List Sync
  barCount : BitVec 32
  arr : Bool
  rel : Bool
  twb : Option Nat
  slns : Nat
  slnsH : Nat
  weir : Nat
  waits : List WaitOp
  sends : List Send
  inbox : List Msg
  taking : Option (Msg × Nat)
  recvs : List Recv
  disc : Nat
  linkDisc : Nat
  strm : Vector Strm 6
  nests : Vector (BitVec 2048) 8
  cbufs : Vector CBuf 4
  takes : List Take
  cpys : List CpySub
  colls : List CollSub
  collCount : Nat
  gp : Gp
  sf : Sf
  links : Vector Link 4
  grants : Vector W64 4
  spm : Mem
  badSpm : List Nat
  dirty : BitVec 256
  frames : Vector Frame 16
  run : Run
  parkReq : Bool
  stopReq : Bool
  relReq : Bool
  img : Nat
  spadk : Nat
  report : Option Report
  deriving DecidableEq, Repr

def SfBank.shipped : SfBank := ⟨[], []⟩

/-- q0-q7 after tile reset: even zero, odd all ones (05 R111). -/
def qReset : Vector W64 8 := #v[0, BitVec.allOnes 64, 0, BitVec.allOnes 64, 0, BitVec.allOnes 64, 0, BitVec.allOnes 64]

/-- Tile reset. -/
def Tile.reset : Tile where
  g := Vector.replicate 64 0
  v := Vector.replicate 32 .zero
  p := 0xAAA9
  q := qReset
  pc := 0
  via := .launch
  rrc := 0x2000
  flm := 0
  fpc := 0
  tvec := 0
  tpc := 0
  tcause := 0
  taddr := 0
  tstat := 0
  resTrap := false
  gid := 0
  grank := 0
  gshape := 0
  phCount := 0
  lc := Vector.replicate 4 0
  le := Vector.replicate 4 0
  ls := Vector.replicate 4 0
  opnd := Vector.replicate 120 .zero
  fixed := Vector.replicate 9 .empty
  queues := Vector.replicate 7 []
  pre := none
  entering := none
  nb := 0
  cyc := 0
  nextId := 0
  mx := .launch
  mxKept := none
  spill := []
  failed := []
  reqs := []
  log := []
  ovf := []
  ovfCount := 0
  deferred := none
  syncFault := false
  cache := []
  fills := []
  tlb := []
  sync := []
  barCount := 0
  arr := false
  rel := false
  twb := none
  slns := 0
  slnsH := 0
  weir := 0
  waits := []
  sends := []
  inbox := []
  taking := none
  recvs := []
  disc := 0
  linkDisc := 0
  strm := Vector.replicate 6 .empty
  nests := Vector.replicate 8 0
  cbufs := Vector.replicate 4 .empty
  takes := []
  cpys := []
  colls := []
  collCount := 0
  gp := ⟨[], none, none⟩
  sf := ⟨.shipped, .shipped, false, 0, []⟩
  links := Vector.replicate 4 .reset
  grants := Vector.replicate 4 0
  spm := []
  badSpm := []
  dirty := 0
  frames := Vector.replicate 16 .empty
  run := .idle
  parkReq := false
  stopReq := false
  relReq := false
  img := 0
  spadk := 0
  report := none

/-! ### Slices, clusters and the device -/

inductive TkState where
  | free | pending | ready | faulted | claimed
  deriving DecidableEq, Repr

/-- A ticket-table entry with its data buffer (11 R239, R240). `done` says that the fetch or the engine has finished,
`claimer` is the gang, rank and request that redeem it, `addr` the peer address a KIND 4 fetch reads, `nb` the bundle of
the LDT that issued it (10 R229). -/
structure Ticket where
  state : TkState
  kind : Nat
  det : Bool
  frozen : Bool
  line : Bool
  gen : BitVec 16
  retgen : BitVec 16
  retwhy : Nat
  age : Nat
  owner : BitVec 32
  fcode : BitVec 8
  tid : Nat
  data : BitVec 1024
  done : Bool
  addr : W64
  nb : Nat
  claimer : Option (BitVec 32 × Nat × Nat)
  deriving DecidableEq, Repr

def Ticket.reset : Ticket := ⟨.free, 0, false, false, false, 0, 0xFFFF, 3, 0, 0, 0, 0, 0, false, 0, 0, none⟩

/-- A row of a score table (16 R371, R372). -/
structure RowScore where
  row : Nat
  score : Nat
  deriving DecidableEq, Repr

/-- A memory slice: its ticket table, counters, key and error state (11 R239 to R242, 16 R370 to R372). -/
structure Slice where
  tickets : List (Nat × Ticket)
  issued : W64
  nulls : W64
  redeemed : W64
  cancelled : W64
  reclaimed : W64
  expired : W64
  badRedeem : W64
  tkkey : W64
  corr : W64
  uncorr : W64
  scrubbed : W64
  remapped : W64
  spares : W64
  scores : List RowScore
  deriving DecidableEq, Repr

def Slice.reset : Slice := ⟨[], 0, 0, 0, 0, 0, 0, 0, 0, 0, 0, 0, 0, 0, []⟩

/-- A request waiting on a pending-miss entry: tile, request, lane, and the access it needs (09 R207, R208). -/
structure Waiter where
  tile : Nat
  id : Nat
  lane : Nat
  acc : Nat
  deriving DecidableEq, Repr

/-- A pending-miss entry (09 R207); `walking` while its walk is in progress. `locs` are the LOCs that wait for that walk: they
are no waiters of the entry (19 R434). -/
structure Pend where
  gran : Nat
  faulted : Bool
  fb : Bool
  kind : Nat
  walking : Bool
  starter : Nat
  waiters : List Waiter
  locs : List Waiter
  deriving DecidableEq, Repr

/-- A fault-buffer entry (09 R208). -/
structure FbEnt where
  kind : Nat
  acc : Nat
  level : Nat
  gran : Nat
  time : BitVec 32
  tid : Nat
  deriving DecidableEq, Repr

inductive JobSt where
  | waiting | running | ended
  deriving DecidableEq, Repr

/-- A job-queue entry (13 R289 to R297). `src` and `dst` are its handles' table entries as it read them when it started
(09 R201); `staged` what a reduction has computed and not committed, by destination offset (13 R292). `written`: every byte is written, and
the job's end waits for room for its clip notice (13 R295). -/
structure Job where
  seqNo : Nat
  card : Card
  ticket : W64
  tid : Nat
  gid : BitVec 32
  id : Nat
  st : JobSt
  attempt : Nat
  cbSlot : Option Nat
  status : W64
  src : W64 × W64
  dst : W64 × W64
  staged : Option (List (Int × List Byte))
  written : Bool
  deriving DecidableEq, Repr

/-- The cluster's reservation (08 R178). -/
structure Rsv where
  queue : Nat
  slot : Nat
  log2n : Nat
  origin : Nat
  deriving DecidableEq, Repr

/-- A successor handed over by a join (08 R183), with the join block whose PEND bit it holds. -/
structure Handover where
  record : BitVec 256
  queue : Nat
  joinPa : Nat
  deriving DecidableEq, Repr

/-- A record that a failure left to be placed again (08 R177, R186). -/
structure Redo where
  queue : Nat
  slot : Nat
  gid : BitVec 32
  deriving DecidableEq, Repr

structure Throttle where
  ns : W64
  what : W64
  deriving DecidableEq, Repr

/-- A cluster: dispenser, supervisor, TLB, pending misses, fault buffer, job queue (08 R179, 09 R205 to R209).
`owed`: successors handed over before a module reset, which HANDOVER shows no longer (log 48). `unretired`: retirements
(queue, slot, STATUS) whose ring could not be reached (08 R173). `tlbPend`: the TLB command in progress has not acted yet;
`tlbWait`: the requests its end waits for. -/
structure Cluster where
  dspctl : W64
  ser : BitVec 26
  rsv : Option Rsv
  rrptr : Vector Byte 8
  supring : List Report
  supAt : Nat
  supOvf : Bool
  supWait : List Report
  handover : List Handover
  owed : List Handover
  throt : List Throttle
  throtOvf : Bool
  redo : List Redo
  unretired : List (Nat × Nat × BitVec 8)
  l2 : List (Nat × Tlb)
  pend : List (Nat × Pend)
  fb : List (Nat × FbEnt)
  dropped : Bool
  tlbop : W64
  tlbBusy : Bool
  tlbPend : Bool
  tlbWait : List (Nat × Nat)
  jobs : List (Nat × Job)
  jobSeq : Nat
  deriving DecidableEq, Repr

def Cluster.reset : Cluster :=
  ⟨1, 0, none, Vector.replicate 8 0, [], 0, false, [], [], [], [], false, [], [], [], [], [], false, 0, false, false, [], [], 0⟩

/-- Why a resident gang is being stopped (08 R186, 15 R346, R350). -/
inductive StopWhy where
  | failed (fault : Bool) | integrity | cancelled | preempt
  deriving DecidableEq, Repr

/-- A gang from launch to retirement (08 R165 to R170). -/
structure Gang where
  gid : BitVec 32
  queue : Nat
  slot : Nat
  origin : Nat
  log2n : Nat
  record : BitVec 256
  why : Option StopWhy
  status : BitVec 8
  exposed : Bool
  deriving DecidableEq, Repr

/-- A saved gang (15 R346 to R349): the members' tiles in rank order, ranks already released, the checkpoint's slot in
CKPOOL. -/
structure Save where
  gang : Gang
  checkpoint : Bool
  offset : Nat
  size : Nat
  members : List (Nat × Tile)
  deriving DecidableEq, Repr

/-- A quarantine (15 R345): the tiles of the stopped gang, and the tiles whose grants it waits on with PHN.COUNT. -/
structure Quar where
  gid : BitVec 32
  tiles : List Nat
  watch : List (Nat × BitVec 32)
  deriving DecidableEq, Repr

/-- The state of a boundary module (16 R357). `bad` holds the faulty lanes, lane < 64. -/
structure Module where
  crcerr : W64
  replay : W64
  retrain : W64
  width : Nat
  rt : Bool
  repaired : Nat
  stream : Byte
  xstream : Byte
  streak : Nat
  bad : List Nat
  deriving DecidableEq, Repr

/-- The Weir of a voltage row (16 R366). -/
inductive Weir where
  | idle | stretch | halve
  deriving DecidableEq, Repr

/-- A voltage row (16 R365 to R367): row r of cluster c is 16c + r. `grant` is the clock that the power controller grants
it, `mhz` the clock it runs at. -/
structure VRow where
  thresh : BitVec 12
  alarms : BitVec 16
  weir : Weir
  mhz : Nat
  grant : Nat
  withheld : Bool
  deriving DecidableEq, Repr

def VRow.reset : VRow := ⟨690, 0, .idle, 700, 700, false⟩

/-- A queue descriptor (08 R173). -/
structure QDesc where
  en : Bool
  ring : BitVec 32
  log2 : Nat
  cmask : W64
  prod : BitVec 32
  claim : BitVec 32
  retire : BitVec 32
  ckpool : BitVec 32
  cksize : BitVec 32
  deriving DecidableEq, Repr

def QDesc.reset : QDesc := ⟨false, 0, 0, 0, 0, 0, 0, 0, 0⟩

/-- An entry point of an image's manifest (17 R377). -/
structure Entry where
  offset : Nat
  frame : Nat
  shape : Nat
  ld : Nat
  flm : BitVec 15
  deriving DecidableEq, Repr

/-- An image-table entry with the manifest the service core keeps (17 R376 to R380). -/
structure Image where
  v : Bool
  rev : Bool
  gen : BitVec 22
  npages : Nat
  codeh : BitVec 16
  hashh : BitVec 16
  entries : List Entry
  deriving DecidableEq, Repr

def Image.reset : Image := ⟨false, false, 0, 0, 0, 0, []⟩

/-- A notice to a service core (09 R208, 08 R183, 16 R363, R371). -/
inductive Notice where
  | faultBuffer (cluster : Nat)
  | jobDone (block : W64) (status : Byte) (jcode : Byte)
  | noSpare (slice : Nat)
  deriving DecidableEq, Repr

/-- What the host asks of a service core: an event of the driver's that the service core performs (16 R362). -/
structure Service where
  ev : Instr
  deriving DecidableEq, Repr

/-- A service core's mailbox (16 R362, R363, R373): requests waiting, the completion ring, notices not yet reported, the
mailbox words, the status word (the boot step that failed), and how often the completion vector has been raised. -/
structure Mailbox where
  requests : List Service
  done : List (W64 × W64)
  notices : List Notice
  words : List (Nat × W64)
  status : W64
  raised : Nat
  deriving DecidableEq, Repr

def Mailbox.reset : Mailbox := ⟨[], [], [], [], 0, 0⟩

/-- The security processor (16 R373, R374): boot steps passed, a failed step, the measurements in order, the fused
counter, the attestation reports given, each with the host address of its request. -/
structure Security where
  booted : Nat
  failed : Option Nat
  measures : List (BitVec 512)
  fuse : W64
  reports : List (Nat × List Byte)
  deriving DecidableEq, Repr

/-- A Syash port (16 R359). -/
structure SyPort where
  state : Nat
  crcerr : W64
  retry : W64
  deriving DecidableEq, Repr

def SyPort.reset : SyPort := ⟨0, 0, 0⟩

/-- The device window's registers and tables (09 R195). `loaded` is what the last image load answered: a handle, or a
refusal. -/
structure Device where
  devid : BitVec 20
  ptroot : W64
  logpool : W64
  tkttl : Nat
  ports : Vector SyPort 24
  routes : List (Nat × W64)
  otherPort : W64
  images : List (Nat × Image)
  loaded : Option Nat
  queues : List (Nat × QDesc)
  handles : List (Nat × (W64 × W64))
  peers : List (Nat × (W64 × W64))
  mail : Vector Mailbox 4
  sec : Security
  deriving DecidableEq, Repr

def Device.reset : Device where
  devid := 0
  ptroot := 0
  logpool := 0
  tkttl := 1000
  ports := Vector.replicate 24 .reset
  routes := []
  otherPort := 0
  images := []
  loaded := none
  queues := []
  handles := []
  peers := []
  mail := Vector.replicate 4 .reset
  sec := ⟨0, none, [], 0, []⟩

/-- A double of HBM that a member's PHASE.G has published ahead of its barrier (10 R224): the gang, the double (PA div 8), what
it held before that publication, and the ranks that see it as the publication left it (log 72). Several members may publish
one double; their entries stand in the order of publication. -/
structure Held where
  gid : BitVec 32
  dbl : Nat
  old : W64
  seers : List Nat
  deriving DecidableEq, Repr

/-- An event still to come, the reference nanoseconds that pass before it, and the memory errors that strike before it:
granules of HBM (PA div 64), uncorrectable ones and correctable ones, and doubles of a tile's scratchpad. These are the
choices of the world and of the arbiters that no rule fixes (log 4). -/
structure Sched where
  dns : Nat
  hbmErr : List Nat
  hbmFix : List Nat
  spErr : List (Nat × Nat)
  ev : Instr
  deriving DecidableEq, Repr

/-- The module. `cur` is the tile whose bundle is next; `fresh` counts the free values used (log 4, log 5); `power` is the
last interval of the power controller and whether it met the current limit (16 R367). `held`: doubles published ahead of a
gang's barrier (10 R224); `softHbm`: granules whose next read is corrected (16 R370); `hot`: each stack's hot list, a slice
and its row, oldest first (16 R371); `usable`: the tiles whose usable scratchpad is less than 256 KiB (08 R179, log 70). -/
structure State where
  tiles : List (Nat × Tile)
  slices : List (Nat × Slice)
  clusters : List (Nat × Cluster)
  gangs : List Gang
  saves : List Save
  quar : List Quar
  hbm : Mem
  held : List Held
  badHbm : List (Nat × Bool)
  softHbm : List Nat
  hot : List (Nat × List (Nat × Nat))
  usable : List (Nat × Nat)
  modules : List (Nat × Module)
  rows : List (Nat × VRow)
  dev : Device
  power : Option (Nat × Bool)
  ns : Nat
  cur : Nat
  agenda : List Sched
  fresh : Nat
  deriving DecidableEq, Repr

/-- The module right after reset. -/
def State.reset : State where
  tiles := []
  slices := []
  clusters := []
  gangs := []
  saves := []
  quar := []
  hbm := []
  held := []
  badHbm := []
  softHbm := []
  hot := []
  usable := []
  modules := []
  rows := []
  dev := .reset
  power := none
  ns := 0
  cur := 0
  agenda := []
  fresh := 0

end Sys2Proof.Machine
end

