-- ==== Sys2Proof/Machine/Bits.lean ====
section
/-! DEFINITION. Bit fields, bytes, lanes, tags and their codes, and lists keyed by numbers. -/
namespace Sys2Proof.Machine

/-! ### Bits -/

/-- Bits [lo + len - 1 : lo] as a number. -/
def bitsN {w : Nat} (x : BitVec w) (lo len : Nat) : Nat := (x.toNat >>> lo) % 2 ^ len

/-- A value's low `n` bits read in two's complement. -/
def signedN (n x : Nat) : Int :=
  let y := x % 2 ^ n
  if y < 2 ^ (n - 1) then (y : Int) else (y : Int) - (2 ^ n : Nat)

/-- An exact integer narrowed to `n` bits (06 R126). -/
def wrapN (n : Nat) (x : Int) : Nat := (x % (2 ^ n : Nat)).toNat

/-- An element byte of a BFM row: bits above the `m`-bit mantissa copy its sign (06 R137). -/
def bfmByte (m x : Nat) : Nat := wrapN 8 (signedN m x)

/-- Element `i` of `w` bits (00 R3). -/
def elem {n : Nat} (x : BitVec n) (w i : Nat) : Nat := (x.toNat >>> (w * i)) % 2 ^ w

/-- The number whose `w`-bit elements are these, element 0 lowest. -/
def packN (w : Nat) : List Nat → Nat
  | [] => 0
  | x :: xs => x % 2 ^ w + packN w xs <<< w

/-- A row packed from its elements. -/
def packRow (w : Nat) (xs : List Nat) : BitVec 1024 := BitVec.ofNat 1024 (packN w xs)

/-- The elements of a row, `w` bits each. -/
def elems {n : Nat} (x : BitVec n) (w : Nat) : List Nat := (List.range (n / w)).map (elem x w)

/-- The low `n` bytes of a value, lowest first (00 R2). -/
def bytesOf {w : Nat} (n : Nat) (x : BitVec w) : List Byte := (List.range n).map fun k => x.extractLsb' (8 * k) 8

/-- The value whose bytes are these, lowest first. -/
def ofBytes : List Byte → Nat
  | [] => 0
  | b :: bs => b.toNat + ofBytes bs <<< 8

/-- A 64-bit value repeated in all sixteen groups (02 R26). -/
def rep16 (x : W64) : BitVec 1024 := packRow 64 (List.replicate 16 x.toNat)

/-- Bit `n` as a double. -/
def boolW (b : Bool) : W64 := if b then 1 else 0

/-- `x` with the bits of `mask` replaced by those of `y`. -/
def merge64 (mask x y : W64) : W64 := (x &&& ~~~mask) ||| (y &&& mask)

/-! ### Tags (05 R107) -/

def Tag.code : Tag → BitVec 6
  | .raw => 0x00 | .i8 => 0x01 | .i16 => 0x02 | .i32 => 0x03 | .i64 => 0x04 | .ui8 => 0x05 | .ui16 => 0x06
  | .ui32 => 0x07 | .ui64 => 0x08 | .fp16 => 0x09 | .bf16 => 0x0A | .fp32 => 0x0B | .fp64 => 0x0C
  | .bfm2 => 0x12 | .bfm3 => 0x13 | .bfm4 => 0x14 | .bfm5 => 0x15 | .bfm6 => 0x16 | .bfm7 => 0x17 | .bfm8 => 0x18
  | .pred => 0x20

/-- A reserved code is NONE. -/
def Tag.ofCode (c : BitVec 6) : Tag :=
  match c.toNat with
  | 0x01 => .i8 | 0x02 => .i16 | 0x03 => .i32 | 0x04 => .i64 | 0x05 => .ui8 | 0x06 => .ui16 | 0x07 => .ui32
  | 0x08 => .ui64 | 0x09 => .fp16 | 0x0A => .bf16 | 0x0B => .fp32 | 0x0C => .fp64 | 0x12 => .bfm2 | 0x13 => .bfm3
  | 0x14 => .bfm4 | 0x15 => .bfm5 | 0x16 => .bfm6 | 0x17 => .bfm7 | 0x18 => .bfm8 | 0x20 => .pred | _ => .raw

/-- The storage width of an element; none for NONE and PRED. -/
def Tag.width : Tag → Option Nat
  | .raw | .pred => none
  | .i8 | .ui8 | .bfm2 | .bfm3 | .bfm4 | .bfm5 | .bfm6 | .bfm7 | .bfm8 => some 8
  | .i16 | .ui16 | .fp16 | .bf16 => some 16
  | .i32 | .ui32 | .fp32 => some 32
  | .i64 | .ui64 | .fp64 => some 64

def Tag.isInt : Tag → Bool
  | .i8 | .i16 | .i32 | .i64 | .ui8 | .ui16 | .ui32 | .ui64 => true
  | _ => false

def Tag.isSigned : Tag → Bool
  | .i8 | .i16 | .i32 | .i64 => true
  | _ => false

def Tag.isFp : Tag → Bool
  | .fp16 | .bf16 | .fp32 | .fp64 => true
  | _ => false

/-- The mantissa width of a BFM tag. -/
def Tag.bfm : Tag → Option Nat
  | .bfm2 => some 2 | .bfm3 => some 3 | .bfm4 => some 4 | .bfm5 => some 5 | .bfm6 => some 6 | .bfm7 => some 7
  | .bfm8 => some 8 | _ => none

/-- BFMm for m from 2 to 8. -/
def Tag.ofBfm (m : Nat) : Tag := Tag.ofCode (BitVec.ofNat 6 (0x10 + m))

/-- The signed tag of an integer tag's width, and the like. -/
def Tag.intOf (w : Nat) (signed : Bool) : Tag :=
  match w, signed with
  | 8, true => .i8 | 16, true => .i16 | 32, true => .i32 | 64, true => .i64
  | 8, false => .ui8 | 16, false => .ui16 | 32, false => .ui32 | _, false => .ui64
  | _, true => .i64

/-! ### Values -/

/-- A scalar on a bus (02 R25). -/
def Val.ofScalar (x : W64) : Val := ⟨x.setWidth 2048, .raw, 0⟩

/-- The low 64 bits: what an S or C bus delivers. -/
def Val.lo (x : Val) : W64 := x.data.setWidth 64

/-- Row bits [1023:0]. -/
def Val.row (x : Val) : BitVec 1024 := x.data.setWidth 1024

/-- A row with its tag and a zero sidecar. -/
def Val.ofRow (d : BitVec 1024) (t : Tag) : Val := ⟨d.setWidth 2048, t, 0⟩

/-- A value as an operation produces it: under a BFM tag of m bits each byte sign-filled from bit m - 1 (06 R137). -/
def Val.filled (x : Val) : Val :=
  match x.tag.bfm with
  | some m => { x with data := (packRow 8 ((elems x.row 8).map (bfmByte m))).setWidth 2048 }
  | none => x

/-- A v register's content on a V bus. -/
def VReg.val (r : VReg) : Val := ⟨r.data.setWidth 2048, r.tag, r.side.setWidth 192⟩

/-- The sidecar that a vector result takes over from operand `x` with its tag: four scales under a BFM tag, zero under any
other (05 R106). -/
def Val.keptSide (x : Val) : BitVec 192 := if x.tag.bfm.isSome then (x.side.setWidth 96).setWidth 192 else 0

/-- What a V bus leaves in a v register (02 R25, 12 R261). -/
def Val.vreg (x : Val) : VReg := ⟨x.row, x.tag, x.side.setWidth 96⟩

/-- Row bits [1023:0] with the tag and scales 0 to 3: a 2048-bit value on a V bus (12 R261). -/
def Val.onV (x : Val) : Val := x.vreg.val

/-- Scale j of a sidecar (05 R106, 12 R260). -/
def Val.scale (x : Val) (j : Nat) : BitVec 24 := x.side.extractLsb' (24 * j) 24

/-- The 144-byte record of a v register (05 R119) as 18 doubles. -/
def VReg.record (r : VReg) : BitVec 1152 := (0#26 ++ r.tag.code ++ r.side ++ r.data : BitVec 1152)

def VReg.ofRecord (x : BitVec 1152) : VReg :=
  ⟨x.extractLsb' 0 1024, Tag.ofCode (x.extractLsb' 1120 6), x.extractLsb' 1024 96⟩

/-! ### Lists keyed by numbers, keys rising -/

def look {α : Type} (k : Nat) : List (Nat × α) → Option α
  | [] => none
  | (j, a) :: l => if j = k then some a else look k l

def put {α : Type} (k : Nat) (a : α) : List (Nat × α) → List (Nat × α)
  | [] => [(k, a)]
  | (j, b) :: l => if k < j then (k, a) :: (j, b) :: l else if j = k then (k, a) :: l else (j, b) :: put k a l

def drop1 {α : Type} (k : Nat) (l : List (Nat × α)) : List (Nat × α) := l.filter (·.1 != k)

/-- The lowest of 0 to n - 1 that is not a key. -/
def lowestFree {α : Type} (n : Nat) (l : List (Nat × α)) : Option Nat :=
  (List.range n).find? fun k => (look k l).isNone

/-- Element `i`, or `d` beyond the end. -/
def vget {α : Type} {n : Nat} (d : α) (x : Vector α n) (i : Nat) : α := (x[i]?).getD d

/-- The vector with element `i` replaced, unchanged beyond the end. -/
def vput {α : Type} {n : Nat} (x : Vector α n) (i : Nat) (a : α) : Vector α n := x.setIfInBounds i a

/-- Elements 0 to n - 1. -/
def vlist {α : Type} {n : Nat} (x : Vector α n) : List α := x.toList

/-- A vector filled from a list, `d` where the list is short. -/
def vofList {α : Type} (n : Nat) (d : α) (l : List α) : Vector α n :=
  (List.range n).foldl (fun x i => vput x i ((l[i]?).getD d)) (Vector.replicate n d)

end Sys2Proof.Machine
end

