-- ==== Sys2Proof/Machine/Flags.lean ====
section
/-! DEFINITION. The flags of FPC (06 R134, R136). Each operation's own flag rules stand with its arithmetic. -/
namespace Sys2Proof.Machine

/-- Flag bits (06 R134). -/
def flNX : Flags := 0x01
def flUF : Flags := 0x02
def flOF : Flags := 0x04
def flDZ : Flags := 0x08
def flNV : Flags := 0x10
def flBV : Flags := 0x20
def flQC : Flags := 0x40

/-- A landing's or an arrival's flags are ORed into FPC[14:8] (06 R136). -/
def orFlags (fpc : W64) (fl : Flags) : W64 := fpc ||| (fl.setWidth 64 <<< 8)

end Sys2Proof.Machine
end

