-- ==== Sys2Proof/Machine/Num.lean ====
section
/-! DEFINITION. The arithmetic of chapter 06: exact dyadic values, one rounding to a format under a mode, the flags it
raises, conversions, and the quantisation of a block. -/
namespace Sys2Proof.Machine

/-- The floating-point formats (06 R130). -/
inductive Fmt where
  | f16 | bf16 | f32 | f64
  deriving DecidableEq, Repr

/-- Rounding modes, numbered as RMODE (06 R134). -/
inductive RMode where
  | rne | rz | rp | rm
  deriving DecidableEq, Repr

def RMode.of (x : BitVec 2) : RMode :=
  match x.toNat with
  | 0 => .rne | 1 => .rz | 2 => .rp | _ => .rm

def Fmt.p : Fmt → Nat
  | .f16 => 11 | .bf16 => 8 | .f32 => 24 | .f64 => 53

def Fmt.emax : Fmt → Nat
  | .f16 => 15 | .bf16 => 127 | .f32 => 127 | .f64 => 1023

def Fmt.emin (f : Fmt) : Int := 1 - (f.emax : Int)

def Fmt.ebits : Fmt → Nat
  | .f16 => 5 | .bf16 => 8 | .f32 => 8 | .f64 => 11

def Fmt.width : Fmt → Nat
  | .f16 => 16 | .bf16 => 16 | .f32 => 32 | .f64 => 64

def Fmt.tag : Fmt → Tag
  | .f16 => .fp16 | .bf16 => .bf16 | .f32 => .fp32 | .f64 => .fp64

def Tag.fmt : Tag → Option Fmt
  | .fp16 => some .f16 | .bf16 => some .bf16 | .fp32 => some .f32 | .fp64 => some .f64 | _ => none

/-- The format's canonical NaN (06 R130). -/
def Fmt.nan : Fmt → Nat
  | .f16 => 0x7E00 | .bf16 => 0x7FC0 | .f32 => 0x7FC00000 | .f64 => 0x7FF8000000000000

def Fmt.infBits (f : Fmt) (s : Bool) : Nat :=
  (if s then 2 ^ (f.width - 1) else 0) + (2 ^ f.ebits - 1) * 2 ^ (f.p - 1)

def Fmt.maxBits (f : Fmt) (s : Bool) : Nat := f.infBits s - 1


/-- A datum: NaN (signalling or quiet), infinity, or the exact value (-1)^s · m · 2^e. -/
inductive Fp where
  | nan (sig : Bool)
  | inf (s : Bool)
  | fin (s : Bool) (m : Nat) (e : Int)
  deriving DecidableEq, Repr

/-- The datum an element's bits denote. -/
def Fmt.decode (f : Fmt) (x : Nat) : Fp :=
  let frac := x % 2 ^ (f.p - 1)
  let ex := (x >>> (f.p - 1)) % 2 ^ f.ebits
  let s := x.testBit (f.width - 1)
  if ex = 2 ^ f.ebits - 1 then
    if frac = 0 then .inf s else .nan (!frac.testBit (f.p - 2))
  else if ex = 0 then .fin s frac (f.emin - ((f.p - 1 : Nat) : Int))
  else .fin s (frac + 2 ^ (f.p - 1)) ((ex : Int) - (f.emax : Int) - ((f.p - 1 : Nat) : Int))

/-- Result bits with the flags raised. -/
structure FRes where
  bits : Nat
  fl : Flags
  deriving DecidableEq, Repr

/-- `m / 2^k` rounded to an integer under a mode, for a value of sign `s`. -/
def roundShift (mode : RMode) (s : Bool) (m k : Nat) : Nat :=
  let q := m >>> k
  let r := m % 2 ^ k
  if r = 0 then q
  else
    match mode with
    | .rne => if 2 * r > 2 ^ k || (2 * r = 2 ^ k && q % 2 = 1) then q + 1 else q
    | .rz => q
    | .rp => if s then q else q + 1
    | .rm => if s then q + 1 else q

/-- Overflow's value (06 R131). -/
def Fmt.overflow (f : Fmt) (mode : RMode) (s : Bool) : Nat :=
  match mode with
  | .rne => f.infBits s
  | .rz => f.maxBits s
  | .rp => if s then f.maxBits s else f.infBits s
  | .rm => if s then f.infBits s else f.maxBits s

/-- The bits of (-1)^s · r · 2^q, where r has at most p bits or is 2^p, and q is the quantum of its binade. -/
def Fmt.pack (f : Fmt) (s : Bool) (r : Nat) (q : Int) : Nat :=
  let sg := if s then 2 ^ (f.width - 1) else 0
  if r < 2 ^ (f.p - 1) then sg + r
  else sg + ((q + ((f.p - 1 : Nat) : Int) + (f.emax : Int)).toNat) * 2 ^ (f.p - 1) + (r - 2 ^ (f.p - 1))

/-- The exact value (-1)^s · m · 2^e rounded once to a format (06 R131). -/
def Fmt.round (f : Fmt) (mode : RMode) (s : Bool) (m : Nat) (e : Int) : FRes :=
  if m = 0 then ⟨if s then 2 ^ (f.width - 1) else 0, 0⟩
  else
    let top : Int := e + (Nat.log2 m : Int)
    let q0 : Int := top - ((f.p - 1 : Nat) : Int)
    let qmin : Int := f.emin - ((f.p - 1 : Nat) : Int)
    let q := max q0 qmin
    let r := if q ≤ e then m <<< (e - q).toNat else roundShift mode s m (q - e).toNat
    let inexact := decide (e < q) && decide (m % 2 ^ (q - e).toNat ≠ 0)
    let r0 := if q0 ≤ e then m <<< (e - q0).toNat else roundShift mode s m (q0 - e).toNat
    let tiny := decide (q0 + (Nat.log2 r0 : Int) < f.emin)
    if r ≠ 0 ∧ q + (Nat.log2 r : Int) > (f.emax : Int) then ⟨f.overflow mode s, flOF ||| flNX⟩
    else
      ⟨f.pack s r q, (if inexact then flNX else 0) ||| (if inexact && tiny then flUF else 0)⟩

/-- A datum rounded to a format: NaN canonical, with NV for a signalling one (06 R132, R133). -/
def Fmt.ofFp (f : Fmt) (mode : RMode) : Fp → FRes
  | .nan sig => ⟨f.nan, if sig then flNV else 0⟩
  | .inf s => ⟨f.infBits s, 0⟩
  | .fin s m e => f.round mode s m e

def Fp.isNan : Fp → Bool
  | .nan _ => true
  | _ => false

def Fp.isSig : Fp → Bool
  | .nan sg => sg
  | _ => false

def Fp.finite : Fp → Bool
  | .fin _ _ _ => true
  | _ => false

def Fp.isZero : Fp → Bool
  | .fin _ m _ => m == 0
  | _ => false

def Fp.sign : Fp → Bool
  | .nan _ => false
  | .inf s => s
  | .fin s _ _ => s

def Fp.neg : Fp → Fp
  | .nan g => .nan g
  | .inf s => .inf (!s)
  | .fin s m e => .fin (!s) m e

/-- A finite datum's integer numerator over 2^e. -/
def signedM (s : Bool) (m : Nat) : Int := if s then -(m : Int) else (m : Int)

/-- The exact sum of two finite data; a zero sum's sign by 06 R131. -/
def sumFin (mode : RMode) (s1 : Bool) (m1 : Nat) (e1 : Int) (s2 : Bool) (m2 : Nat) (e2 : Int) : Fp :=
  let e := min e1 e2
  let x := signedM s1 (m1 <<< (e1 - e).toNat) + signedM s2 (m2 <<< (e2 - e).toNat)
  if x = 0 then .fin (if s1 = s2 then s1 else decide (mode = .rm)) 0 e
  else .fin (decide (x < 0)) x.natAbs e

/-- The exact sum of two data, with the flags of an invalid operation (06 R132). -/
def Fp.add (mode : RMode) : Fp → Fp → Fp × Flags
  | .nan a, .nan b => (.nan false, if a || b then flNV else 0)
  | .nan a, _ => (.nan false, if a then flNV else 0)
  | _, .nan b => (.nan false, if b then flNV else 0)
  | .inf a, .inf b => if a = b then (.inf a, 0) else (.nan false, flNV)
  | .inf a, .fin _ _ _ => (.inf a, 0)
  | .fin _ _ _, .inf b => (.inf b, 0)
  | .fin s1 m1 e1, .fin s2 m2 e2 => (sumFin mode s1 m1 e1 s2 m2 e2, 0)

/-- The exact product of two data. -/
def Fp.mul : Fp → Fp → Fp × Flags
  | .nan a, .nan b => (.nan false, if a || b then flNV else 0)
  | .nan a, _ => (.nan false, if a then flNV else 0)
  | _, .nan b => (.nan false, if b then flNV else 0)
  | .inf a, .inf b => (.inf (a != b), 0)
  | .inf a, .fin s m _ => if m = 0 then (.nan false, flNV) else (.inf (a != s), 0)
  | .fin s m _, .inf b => if m = 0 then (.nan false, flNV) else (.inf (s != b), 0)
  | .fin s1 m1 e1, .fin s2 m2 e2 => (.fin (s1 != s2) (m1 * m2) (e1 + e2), 0)

/-- The exact a · b + c: a product 0 × ∞ is invalid even beside a quiet NaN addend (06 R132, item 3). -/
def Fp.fma (mode : RMode) (a b c : Fp) : Fp × Flags :=
  let (pr, f1) := Fp.mul a b
  let (r, f2) := Fp.add mode pr c
  (r, f1 ||| f2)

def Fmt.finish (f : Fmt) (mode : RMode) (r : Fp × Flags) : FRes :=
  let x := f.ofFp mode r.1
  ⟨x.bits, x.fl ||| r.2⟩

def Fmt.add (f : Fmt) (mode : RMode) (a b : Nat) : FRes := f.finish mode (Fp.add mode (f.decode a) (f.decode b))
def Fmt.sub (f : Fmt) (mode : RMode) (a b : Nat) : FRes := f.finish mode (Fp.add mode (f.decode a) (f.decode b).neg)
def Fmt.mul (f : Fmt) (mode : RMode) (a b : Nat) : FRes := f.finish mode (Fp.mul (f.decode a) (f.decode b))
/-- a · b + c with the product, then the addend, optionally negated. -/
def Fmt.fma (f : Fmt) (mode : RMode) (negP negC : Bool) (a b c : Nat) : FRes :=
  let x := f.decode a
  let z := f.decode c
  f.finish mode (Fp.fma mode (if negP then x.neg else x) (f.decode b) (if negC then z.neg else z))

/-- The exact order of two finite data. -/
def cmpFin (s1 : Bool) (m1 : Nat) (e1 : Int) (s2 : Bool) (m2 : Nat) (e2 : Int) : Ordering :=
  let e := min e1 e2
  compare (signedM s1 (m1 <<< (e1 - e).toNat)) (signedM s2 (m2 <<< (e2 - e).toNat))

/-- The order of two data that are not NaN; -0 equals +0. -/
def Fp.cmp : Fp → Fp → Ordering
  | .inf a, .inf b => if a = b then .eq else if a then .lt else .gt
  | .inf a, _ => if a then .lt else .gt
  | _, .inf b => if b then .gt else .lt
  | .fin s1 m1 e1, .fin s2 m2 e2 => cmpFin s1 m1 e1 s2 m2 e2
  | _, _ => .eq

/-- (-1)^s · m · 2^e rounded to an integer under a mode, and whether that changed it. -/
def roundToInt (mode : RMode) (s : Bool) (m : Nat) (e : Int) : Int × Bool :=
  if 0 ≤ e then (signedM s (m <<< e.toNat), false)
  else
    let k := (-e).toNat
    (signedM s (roundShift mode s m k), decide (m % 2 ^ k ≠ 0))

/-- The bounds of an integer tag (06 R125). -/
def intLo (w : Nat) (signed : Bool) : Int := if signed then -((2 ^ (w - 1) : Nat) : Int) else 0
def intHi (w : Nat) (signed : Bool) : Int := if signed then ((2 ^ (w - 1) : Nat) : Int) - 1 else ((2 ^ w : Nat) : Int) - 1

/-- FP to an integer tag (06 R133). -/
def fpToInt (mode : RMode) (w : Nat) (signed : Bool) : Fp → FRes
  | .nan _ => ⟨0, flNV⟩
  | .inf s => ⟨wrapN w (if s then intLo w signed else intHi w signed), flNV⟩
  | .fin s m e =>
    let (x, ch) := roundToInt mode s m e
    if x < intLo w signed then ⟨wrapN w (intLo w signed), flNV⟩
    else if intHi w signed < x then ⟨wrapN w (intHi w signed), flNV⟩
    else ⟨wrapN w x, if ch then flNX else 0⟩

/-- An exact integer to FP, rounded once (06 R133). -/
def Fmt.ofInt (f : Fmt) (mode : RMode) (x : Int) : FRes := f.round mode (decide (x < 0)) x.natAbs 0

/-- The integer an element of an integer tag denotes. -/
def intOf (w : Nat) (signed : Bool) (x : Nat) : Int := if signed then signedN w x else ((x % 2 ^ w : Nat) : Int)

/-! ### Exact quotients -/

/-- floor(log2 (n / d)), both positive. -/
def floorLog2 (n d : Nat) : Int :=
  let k : Int := (Nat.log2 n : Int) - (Nat.log2 d : Int)
  let ge := if 0 ≤ k then decide (d <<< k.toNat ≤ n) else decide (d ≤ n <<< (-k).toNat)
  if ge then k else k - 1

/-- A quotient n / d · 2^e rounded to a format, through enough quotient bits and a sticky bit. -/
def Fmt.roundQuot (f : Fmt) (mode : RMode) (s : Bool) (n d : Nat) (e : Int) : FRes :=
  if n = 0 then f.round mode s 0 0
  else
    let k := f.p + 3 + Nat.log2 d
    let x := n <<< k
    f.round mode s (2 * (x / d) + (if x % d = 0 then 0 else 1)) (e - (k : Int) - 1)

/-- The integer square root, bit by bit from bit `k` down. -/
def isqrtFrom (n : Nat) : Nat → Nat → Nat
  | 0, r => if (r + 1) * (r + 1) ≤ n then r + 1 else r
  | k + 1, r => isqrtFrom n k (if (r + 2 ^ (k + 1)) * (r + 2 ^ (k + 1)) ≤ n then r + 2 ^ (k + 1) else r)

def isqrt (n : Nat) : Nat := isqrtFrom n (Nat.log2 n / 2 + 1) 0

/-- The square root of m · 2^e rounded to a format, through a sticky bit. -/
def Fmt.roundSqrt (f : Fmt) (mode : RMode) (m : Nat) (e : Int) : FRes :=
  if m = 0 then f.round mode false 0 0
  else
    let k0 := 2 * f.p + 6
    let k := if (e - (k0 : Int)) % 2 = 0 then k0 else k0 + 1
    let x := m <<< k
    let r := isqrt x
    f.round mode false (2 * r + (if r * r = x then 0 else 1)) ((e - (k : Int)) / 2 - 1)

/-! ### Block formats (06 R137 to R142) -/

/-- A block scale's fields. -/
def scaleE (s : BitVec 24) : Nat := (s.extractLsb' 16 8).toNat
def scaleF (s : BitVec 24) : Nat := (s.extractLsb' 0 16).toNat
def mkScale (e f : Nat) : BitVec 24 := (BitVec.ofNat 8 e ++ BitVec.ofNat 16 f : BitVec 24)

/-- The exact value of mantissa byte `b` of width `m` under a scale; none in an invalid block (06 R138). -/
def blockElem (m : Nat) (s : BitVec 24) (b : Nat) : Option Fp :=
  if scaleE s = 255 then none
  else if scaleE s = 0 then some (.fin false 0 0)
  else
    let q := signedN m b
    some (.fin (decide (q < 0)) (q.natAbs * (65536 + scaleF s)) ((scaleE s : Int) - 127 - 16 - ((m - 1 : Nat) : Int)))

/-- n / d (of sign `s`) rounded to an integer under a mode. -/
def roundQuotInt (mode : RMode) (s : Bool) (n d : Nat) : Int :=
  let q := n / d
  let r := n % d
  let up :=
    match mode with
    | .rne => decide (2 * r > d) || (decide (2 * r = d) && decide (q % 2 = 1))
    | .rz => false
    | .rp => !s && decide (r ≠ 0)
    | .rm => s && decide (r ≠ 0)
  signedM s (if up then q + 1 else q)

/-- The 24 random bits of VQNT.SR at a position (06 R142). -/
def srBits (seed : W64) (i : Nat) : Nat :=
  let z := seed + BitVec.ofNat 64 (i + 1) * 0x9E3779B97F4A7C15
  let z := (z ^^^ (z >>> 30)) * 0xBF58476D1CE4E5B9
  let z := (z ^^^ (z >>> 27)) * 0x94D049BB133111EB
  let z := z ^^^ (z >>> 31)
  (z.extractLsb' 40 24).toNat

/-- How a quantised element is rounded: under a mode, or stochastically from a seed. -/
inductive QRound where
  | mode (m : RMode)
  | seed (s : W64)
  deriving DecidableEq, Repr

/-- floor(y + r / 2^24) for y = (-1)^s · n / d. -/
def srFloor (s : Bool) (n d r : Nat) : Int :=
  (signedM s (n * 2 ^ 24) + ((r * d : Nat) : Int)) / ((d * 2 ^ 24 : Nat) : Int)

/-- A datum's exact absolute value as a fraction over 1 or under a power of two. -/
def absFrac (m : Nat) (e : Int) : Nat × Nat := if 0 ≤ e then (m <<< e.toNat, 1) else (m, 2 ^ (-e).toNat)

/-- The larger of two fractions. -/
def maxFrac (a b : Nat × Nat) : Nat × Nat := if a.1 * b.2 < b.1 * a.2 then b else a

/-- A quantised block: its scale, its 32 mantissas and the flags raised. -/
structure QBlock where
  scale : BitVec 24
  q : List Int
  fl : Flags
  deriving DecidableEq, Repr

def Fp.frac : Fp → Nat × Nat
  | .fin _ m e => absFrac m e
  | _ => (0, 1)

/-- The scale exponent, fraction and flag that a block's largest magnitude n / d takes at width m (06 R141). -/
def blockScale (m n d : Nat) : Int × Nat × Flags :=
  let sn := n * 2 ^ (m - 1)
  let sd := d * (2 ^ (m - 1) - 1)
  let e := floorLog2 sn sd
  let (an, ad) := if 0 ≤ e then (sn, sd <<< e.toNat) else (sn <<< (-e).toNat, sd)
  let x := (an - ad) * 65536
  let f := (x + ad - 1) / ad
  let (e, f) := if f = 65536 then (e + 1, 0) else (e, f)
  if e < -126 then (-126, 0, flQC)
  else if 127 < e then (127, 65535, flQC)
  else (e, f, 0)

/-- One element of a block whose scale is (1 + f/65536) · 2^E. -/
def quantElem (m : Nat) (r : QRound) (i : Nat) (e : Int) (f : Nat) : Fp → Int × Flags
  | .fin s mx ex =>
    let (xn, xd) := absFrac mx ex
    let num := xn * 2 ^ (m - 1) * 65536
    let den := xd * (65536 + f)
    let (n, d) := if 0 ≤ e then (num, den <<< e.toNat) else (num <<< (-e).toNat, den)
    let y :=
      match r with
      | .mode md => roundQuotInt md s n d
      | .seed sd => srFloor s n d (srBits sd i)
    let qmax : Int := ((2 ^ (m - 1) - 1 : Nat) : Int)
    let q := max (-qmax) (min qmax y)
    (q, if q * (d : Int) = signedM s n then 0 else flNX)
  | _ => (0, 0)

/-- A block of 32 values quantised to width `m`; `i0` is the position of its first element in the output row
(06 R141, R142). -/
def quantBlock (m : Nat) (r : QRound) (i0 : Nat) (xs : List Fp) : QBlock :=
  if xs.any (fun x => !x.finite) then
    ⟨mkScale 255 0, List.replicate 32 0, flBV ||| (if xs.any Fp.isSig then flNV else 0)⟩
  else
    let mx := xs.foldl (fun a x => maxFrac a x.frac) (0, 1)
    if mx.1 = 0 then ⟨0, List.replicate 32 0, 0⟩
    else
      let (e, f, fl) := blockScale m mx.1 mx.2
      let qs := xs.zipIdx.map fun (x, i) => quantElem m r (i0 + i) e f x
      ⟨mkScale (e + 127).toNat f, qs.map (·.1), qs.foldl (fun a x => a ||| x.2) fl⟩

/-! ### Merges (06 R145) -/

/-- The largest power of two below `n`, for n at least 2. -/
def halfSplit (n : Nat) : Nat := 2 ^ Nat.log2 (n - 1)

/-- The fixed binary tree over `n` partials; each step's flags are kept. The fuel is the tree's depth. -/
def mergeTree {α : Type} (op : α → α → α × Flags) (dflt : α) : Nat → List α → α × Flags
  | _, [] => (dflt, 0)
  | _, [x] => (x, 0)
  | 0, x :: _ => (x, 0)
  | k + 1, xs =>
    let h := halfSplit xs.length
    let (a, f1) := mergeTree op dflt k (xs.take h)
    let (b, f2) := mergeTree op dflt k (xs.drop h)
    let (r, f3) := op a b
    (r, f1 ||| f2 ||| f3)

end Sys2Proof.Machine
end

