-- ==== Sys2Proof/Machine/Ops.lean ====
section
/-! DEFINITION. The named operations over memory, registers, ports, result queues and links of one tile, and taking a
trap and returning from one (chapters 02, 05, 15). -/
namespace Sys2Proof.Machine

/-! ### Memory -/

/-- The byte at an address; an unlisted byte reads as zero (log 1, log 2). -/
def Mem.get : Mem → Nat → Byte
  | [], _ => 0
  | (k, b) :: m, a => if k = a then b else Mem.get m a

/-- Stores a byte and keeps the canonical form. -/
def Mem.set : Mem → Nat → Byte → Mem
  | [], a, b => if b = 0 then [] else [(a, b)]
  | (k, c) :: m, a, b =>
    if a < k then (if b = 0 then (k, c) :: m else (a, b) :: (k, c) :: m)
    else if a = k then (if b = 0 then m else (a, b) :: m)
    else (k, c) :: Mem.set m a b

/-- The `n` bytes from `a` up. -/
def Mem.read (m : Mem) (a n : Nat) : List Byte := (List.range n).map fun k => m.get (a + k)

/-- Stores bytes from `a` up. -/
def Mem.write : Mem → Nat → List Byte → Mem
  | m, _, [] => m
  | m, a, b :: bs => Mem.write (m.set a b) (a + 1) bs

/-- The `n`-byte little-endian value at `a` (00 R2). -/
def Mem.value (m : Mem) (a n : Nat) : Nat := ofBytes (m.read a n)

/-- The double at `a`. -/
def Mem.double (m : Mem) (a : Nat) : W64 := BitVec.ofNat 64 (m.value a 8)

/-- Stores the low `n` bytes of a value (00 R2). -/
def Mem.store {w : Nat} (m : Mem) (a n : Nat) (x : BitVec w) : Mem := m.write a (bytesOf n x)

/-- Blocks of 1 KiB that a write of `n` bytes at `off` makes dirty (15 R348). -/
def dirtyMask (off n : Nat) : BitVec 256 :=
  if n = 0 then 0
  else BitVec.ofNat 256 ((2 ^ ((off + n - 1) / 1024 - off / 1024 + 1) - 1) <<< (off / 1024))

/-- DST of a COLL card (13 R299). -/
def collDst (d : Vector W64 8) : Nat := bitsN (vget 0 d 3) 0 18

/-- A write of scratchpad bytes where a collective's DST stands: they lie under it from then on (log 79). -/
def CollSub.wrote (x : CollSub) (off : Nat) (bs : List Byte) : CollSub :=
  { x with old := x.old.zipIdx.map fun (b, k) =>
      let a := collDst x.card + k
      if off ≤ a then (bs[a - off]?).getD b else b }

/-- Bytes written to the scratchpad: they mend an error in a double they cover whole. -/
def Tile.spmWrite (t : Tile) (off : Nat) (bs : List Byte) : Tile :=
  { t with
    spm := t.spm.write off bs
    colls := t.colls.map fun x => x.wrote off bs
    dirty := t.dirty ||| dirtyMask off bs.length
    badSpm := t.badSpm.filter fun d => !(decide (off ≤ 8 * d) && decide (8 * d + 8 ≤ off + bs.length)) }

def Tile.spmStore {w : Nat} (t : Tile) (off n : Nat) (x : BitVec w) : Tile := t.spmWrite off (bytesOf n x)

/-- A scratchpad range holds a double with an uncorrectable error. -/
def Tile.spmBad (t : Tile) (off n : Nat) : Bool :=
  t.badSpm.any fun d => decide (8 * d < off + n) && decide (off < 8 * d + 8)

/-- The scratchpad bytes the task may use: SPADK KiB (08 R172). -/
def Tile.limit (t : Tile) : Nat := t.spadk * 1024

/-- Two byte ranges meet. -/
def overlaps (a n b m : Nat) : Bool := decide (a < b + m) && decide (b < a + n)

/-! ### The g registers (05 R99 to R103) -/

def Tile.rrb (t : Tile) : Nat := bitsN t.rrc 0 5
def Tile.ld (t : Tile) : Nat := bitsN t.rrc 8 6

/-- The physical register behind a name. -/
def Tile.gPhys (t : Tile) (n : BitVec 6) : Nat :=
  if n.toNat < 32 then n.toNat else 32 + (n.toNat - 32 + t.rrb) % 32

/-- The name stands at a dead position. -/
def Tile.gDead (t : Tile) (n : BitVec 6) : Bool := decide (32 ≤ n.toNat) && decide (t.ld ≤ n.toNat - 32)

/-- A g register read by name: g0 and dead positions read as zero. -/
def Tile.gRead (t : Tile) (n : BitVec 6) : W64 :=
  if n = 0 ∨ t.gDead n = true then 0 else vget 0 t.g (t.gPhys n)

/-- A g register written by name, the name resolved in `old`: writes to g0 and to dead positions are ignored. -/
def Tile.gWrite (old t : Tile) (n : BitVec 6) (x : W64) : Tile :=
  if n = 0 ∨ old.gDead n = true then t else { t with g := vput t.g (old.gPhys n) x }

/-- The name that now stands for physical register `k`. -/
def Tile.gPos (rrb k : Nat) : Nat := (k - 32 + 32 - rrb) % 32

/-- Every physical register at a dead position set to zero (05 R103, step 3). -/
def Tile.gZeroDead (t : Tile) : Tile :=
  if t.ld = 32 then t
  else
    { t with
      g := (List.range 32).foldl (fun g i => if t.ld ≤ Tile.gPos t.rrb (32 + i) then vput g (32 + i) 0 else g) t.g }

/-- RRB counted down modulo 32 (05 R103, step 2). -/
def Tile.rotate (t : Tile) : Tile :=
  { t with rrc := merge64 0x1F t.rrc (BitVec.ofNat 64 ((t.rrb + 31) % 32)) }

/-! ### Predicates (05 R111) -/

/-- A p pair written; pair 0 ignores it. -/
def Tile.pWrite (t : Tile) (n : BitVec 4) (b : Bool) : Tile :=
  if n.toNat < 2 then t
  else
    let k := n.toNat
    let hi : BitVec 16 := 1#16 <<< k
    let lo : BitVec 16 := 1#16 <<< (Nat.xor k 1)
    { t with p := if b then (t.p ||| hi) &&& ~~~lo else (t.p ||| lo) &&& ~~~hi }

/-- The bits of a q pair that `mask` selects (05 R111, R113). -/
def Tile.qWrite (t : Tile) (n : BitVec 3) (mask x : W64) : Tile :=
  let k := n.toNat
  let j := Nat.xor k 1
  { t with q := vput (vput t.q k (merge64 mask (vget 0 t.q k) x)) j (merge64 mask (vget 0 t.q j) (~~~x)) }

/-! ### Sockets' places in the state -/

/-- The index of a fixed-latency socket's results. -/
def fixedIdx : Sock → Option Nat
  | .cu => some 0 | .ia0 => some 1 | .ia1 => some 2 | .im => some 3 | .va => some 4 | .vf0 => some 5 | .vf1 => some 6
  | .vx => some 7 | .mx => some 8 | _ => none

/-- The index of a variable-latency socket's result queue. -/
def queueIdx (k : Sock) (res2 : Bool) : Option Nat :=
  match k, res2 with
  | .au, false => some 0 | .sy, false => some 1 | .ch, false => some 2 | .cp, false => some 3
  | .gp, false => some 4 | .gp, true => some 5 | .sf, false => some 6 | _, _ => none

/-- The depth of a result queue (02 R44). -/
def queueDepth (k : Nat) : Nat :=
  match k with
  | 0 => 32 | 1 => 4 | 2 => 8 | 3 => 8 | 4 => 4 | 5 => 4 | _ => 8

/-- The FLM bit that locks a fixed-latency socket; CU has none (02 R36). -/
def fixedLocked (flm : W64) (k : Nat) : Bool :=
  match k with
  | 1 => flm.getLsbD 1 | 2 => flm.getLsbD 2 | 3 => flm.getLsbD 3 | 4 => flm.getLsbD 8 | 5 => flm.getLsbD 9
  | 6 => flm.getLsbD 10 | 7 => flm.getLsbD 11 | 8 => flm.getLsbD 14 | _ => false

/-- The index of an operand entry (09 R193). -/
def opndIdx (k : Sock) (port : Nat) (e : Bool) : Nat := (4 * k.num.toNat + port) * 2 + (if e then 1 else 0)

def Tile.entry (t : Tile) (k : Sock) (port : Nat) (e : Bool) : Val := vget .zero t.opnd (opndIdx k port e)

/-- How an operand entry takes a value: 64 bits on a scalar entry; a row, replicated when it comes from an S bus, on a
vector entry; AU's O1 the row without replication; all 2048 bits on MX (02 R26, R30). -/
def entryVal (k : Sock) (port : Nat) (b : BusKind) (x : Val) : Val :=
  match k with
  | .mx => x
  | .va | .vf0 | .vf1 | .vx | .sf => if b = .v then x.onV else Val.ofRow (rep16 x.lo) .raw
  | .au => if port = 1 then (if b = .v then x.onV else .ofScalar x.lo) else .ofScalar x.lo
  | _ => .ofScalar x.lo

/-- How a trigger port takes a value: the vector sockets take rows (02 R26), the others 64 bits. -/
def trigVal (k : Sock) (b : BusKind) (x : Val) : Val :=
  if k.isVector then (if b = .v then x.onV else Val.ofRow (rep16 x.lo) .raw) else .ofScalar x.lo

/-! ### TSTAT and the trap registers (15 R334) -/

/-- INH: the handler is running. -/
def Tile.inh (t : Tile) : Bool := t.tstat.getLsbD 63
/-- RSOL (15 R342). -/
def Tile.rsol (t : Tile) : Nat := bitsN t.tstat 61 2
/-- PHN.DFP: a deferred fault is recorded (10 R226). -/
def Tile.dfp (t : Tile) : Bool := t.deferred.isSome

/-- A deferred fault recorded: the first one's cause, address and AUX stand (10 R226, 15 R335). -/
def Tile.defer (t : Tile) (cause : BitVec 8) (addr : W64) (aux : BitVec 8) : Tile :=
  { t with deferred :=
      match t.deferred with
      | none => some ⟨1, cause, addr, aux⟩
      | some d => some { d with count := d.count + 1 } }

/-! ### Special registers (04 R90) -/

/-- What a tile's bundle sees beside its own state: its number, the device's id, the reference time, its clock, its
voltage row's WTH, and its image: the length of the code segment and whether it is revoked. -/
structure Env where
  tid : Nat
  devid : BitVec 20
  ns : Nat
  mhz : Nat
  wth : W64
  codeLen : Nat
  revoked : Bool
  handles : List (Nat × (W64 × W64))
  deriving DecidableEq, Repr

def dirIdx : Dir → Nat := Dir.num

def Tile.link (t : Tile) (d : Nat) : Link := vget .reset t.links d
def Tile.setLink (t : Tile) (d : Nat) (l : Link) : Tile := { t with links := vput t.links d l }

/-- The direction faces the mesh edge (02 R53). -/
def edgeAt (tid : Nat) (d : Nat) : Bool :=
  match d with
  | 0 => tid % 128 == 0
  | 1 => tid % 128 == 127
  | 2 => tid / 128 == 0
  | _ => tid / 128 == 127

/-- The neighbour's tile number, for a direction that faces no edge. -/
def neighbour (tid : Nat) (d : Nat) : Nat :=
  match d with
  | 0 => tid - 1
  | 1 => tid + 1
  | 2 => tid - 128
  | _ => tid + 128

/-- The direction from the neighbour back: W and E, N and S. -/
def opposite (d : Nat) : Nat := Nat.xor d 1

/-- LNKSTAT (02 R55). -/
def Tile.lnkstat (t : Tile) (tid : Nat) : W64 :=
  let q := fun d => (t.link d).queue.length
  let c := fun d => (t.link d).credit
  let b := fun d => if edgeAt tid d then 1 else 0
  BitVec.ofNat 64 (q 0 + q 1 <<< 4 + q 2 <<< 8 + q 3 <<< 12 + c 0 <<< 16 + c 1 <<< 20 + c 2 <<< 24 + c 3 <<< 28 +
    b 0 <<< 40 + b 1 <<< 41 + b 2 <<< 42 + b 3 <<< 43 + (min t.linkDisc 0xFFFF) <<< 48)

/-- PHN (10 R222). -/
def Tile.phn (t : Tile) : W64 :=
  BitVec.ofNat 64 (t.phCount.toNat + (min t.ovfCount 0xFFFF) <<< 32 + (if t.dfp then 2 ^ 63 else 0))

/-- A special register's value (05 R114). -/
def Tile.sregRead (env : Env) (t : Tile) : SReg → W64
  | .pc => BitVec.ofInt 64 (t.pc % 2 ^ 30)
  | .rrc => t.rrc
  | .flm => t.flm
  | .fpc => t.fpc
  | .tvec => t.tvec
  | .tpc => t.tpc
  | .tcause => t.tcause
  | .taddr => t.taddr
  | .tstat => t.tstat
  | .tid => BitVec.ofNat 64 env.tid
  | .gid => t.gid
  | .grank => t.grank
  | .gshape => t.gshape
  | .phn => t.phn
  | .wth => env.wth
  | .lnkstat => t.lnkstat env.tid
  | .lc n => vget 0 t.lc n.toNat
  | .le n => vget 0 t.le n.toNat
  | .ls n => vget 0 t.ls n.toNat

/-- RRC as stored: LD from 33 to 63 stores 32 (05 R101). -/
def rrcMask (x : W64) : W64 := BitVec.ofNat 64 (bitsN x 0 5 + (min (bitsN x 8 6) 32) <<< 8)

/-- Level n active. -/
def lcActive (lc : Vector W64 4) (n : Nat) : Bool := (vget 0 lc n).getLsbD 63

/-- Levels from `n` up deactivated, their counts kept (07 R155). -/
def deactivate (lc : Vector W64 4) (n : Nat) : Vector W64 4 :=
  (List.range 4).foldl (fun v i => if n ≤ i then vput v i (vget 0 v i &&& 0x7FFFFFFFFFFFFFFF) else v) lc

/-- A write of LCn (07 R155). Several writes of one bundle, and a LOOP's push after them, are applied one after another in
bus order (log 64). -/
def lcWrite (lc : Vector W64 4) (n : Nat) (x : W64) : Vector W64 4 :=
  let y := x &&& 0x80000000FFFFFFFF
  if y.getLsbD 63 then
    if n = 0 || lcActive lc (n - 1) then vput lc n y else deactivate (vput lc n (y &&& 0x7FFFFFFFFFFFFFFF)) n
  else deactivate (vput lc n y) n

/-- A write of a special register: RO fields keep their values (05 R114, 00 R7). -/
def Tile.sregWrite (t : Tile) (x : W64) : SReg → Tile
  | .rrc => { t with rrc := rrcMask x }
  | .flm => { t with flm := x &&& 0x4F0E }
  | .fpc => { t with fpc := x &&& 0x7F03 }
  | .tvec => { t with tvec := x &&& 0x3FFFFFFD }
  | .tpc => { t with tpc := x &&& 0x3FFFFFFF }
  | .tcause => { t with tcause := x &&& 0xFFFF7EFF }
  | .taddr => { t with taddr := x }
  | .tstat => { t with tstat := merge64 0x60FFFFFFFFFF0000 t.tstat x }
  | .lc n => { t with lc := lcWrite t.lc n.toNat x }
  | .le n => { t with le := vput t.le n.toNat (x &&& 0x3FFFFFFC) }
  | .ls n => { t with ls := vput t.ls n.toNat (x &&& 0x3FFFFFFC) }
  | _ => t

/-! ### Guards (04 R82, 05 R112, R113) -/

/-- The bytes of a row that the bits of a lane guard govern, by the width of the value's tag. -/
def laneBytes (t : Tag) (bits : W64) : BitVec 128 :=
  let per := match t.width with
    | some 32 => 4
    | some 64 => 8
    | _ => 2
  BitVec.ofNat 128 (packN 1 ((List.range 128).map fun k => if bits.getLsbD (k / per) then 1 else 0))

/-- What a guard lets through: nothing, the whole move, or the selected bytes, with the guard's 64 bits. -/
inductive Gate where
  | off | all | lanes (m : BitVec 128) (bits : W64)
  deriving DecidableEq, Repr

/-- A q guard's bits, inverted when G says so. -/
def Tile.laneBits (t : Tile) (g : BitVec 5) : W64 :=
  let q := vget 0 t.q (bitsN g 0 3)
  if g.getLsbD 4 then ~~~q else q

/-- The gate of a move whose source delivers a value tagged `tag`. A lane guard that selects no lane of the value's tag
lets nothing through (log 61). -/
def Tile.gate (t : Tile) (h : Head) (tag : Tag) : Gate :=
  if h.bus.kind = .v then
    if h.g.getLsbD 3 then
      let m := laneBytes tag (t.laneBits h.g)
      if m = 0 then .off else .lanes m (t.laneBits h.g)
    else if (t.p.getLsbD (bitsN h.g 0 3)) != h.g.getLsbD 4 then .all else .off
  else if (t.p.getLsbD (bitsN h.g 0 4)) != h.g.getLsbD 4 then .all else .off

/-- The bits of a row that selected bytes cover. -/
def byteBits (m : BitVec 128) : BitVec 1024 :=
  BitVec.ofNat 1024 (packN 8 ((List.range 128).map fun k => if m.getLsbD k then 0xFF else 0))

/-- The selected bytes of `new` over `old`; tag and sidecar are the new value's (05 R113). -/
def blend (g : Gate) (old new : Val) : Val :=
  match g with
  | .lanes m _ =>
    let b := (byteBits m).setWidth 2048
    ⟨(old.data &&& ~~~b) ||| (new.data &&& b), new.tag, new.side⟩
  | _ => new

/-! ### Result queues (02 R42 to R45, 15 R340) -/

def Tile.queue (t : Tile) (k : Nat) : List Place := vget [] t.queues k
def Tile.setQueue (t : Tile) (k : Nat) (q : List Place) : Tile := { t with queues := vput t.queues k q }

/-- The head the bundle stream reads: of the handler part while INH is 1, else of the context part. -/
def headOf (inh : Bool) (q : List Place) : Option Place := q.find? fun x => x.hp == inh

/-- The queue without that head. -/
def popHead (inh : Bool) : List Place → List Place
  | [] => []
  | x :: q => if x.hp == inh then q else x :: popHead inh q

/-- A place taken at the tail by an operation just triggered. -/
def Tile.takePlace (t : Tile) (k : Nat) (rtag : Tag) (ops : Opnds) : Tile :=
  t.setQueue k (t.queue k ++ [⟨t.nextId, false, .zero, false, .zero, 0, t.inh, false, rtag, ops⟩])

/-- The place of the operation whose trigger order is `id`, changed while its result has not arrived. -/
def Tile.onPlace (t : Tile) (k id : Nat) (f : Place → Place) : Tile :=
  t.setQueue k ((t.queue k).map fun x => if x.id = id && !x.ready then f x else x)

/-- The operation has this place still (a handler's discarded place takes no result). -/
def Tile.hasPlace (t : Tile) (k id : Nat) : Bool := (t.queue k).any fun x => x.id == id && !x.ready

/-- A result arrives: its place becomes valid and its flags are ORed (02 R43, 06 R136). A result whose place a TRET
discarded is dropped (15 R342). -/
def Tile.arrive (t : Tile) (k id : Nat) (x : Val) (fl : Flags) : Tile :=
  if t.hasPlace k id then
    { t.onPlace k id (fun q => { q with ready := true, val := x, fl := fl }) with
      fpc := orFlags t.fpc fl
      pre := t.pre.map fun p => { p with fpc := orFlags p.fpc fl } }
  else t

/-- A faulted result arrives (02 R45). -/
def Tile.arriveFault (t : Tile) (k id : Nat) (f : FaultRep) : Tile :=
  t.onPlace k id fun q => { q with ready := true, val := .zero, flt := true, rep := f }

/-! ### Fixed-latency results (02 R33 to R41) -/

def Tile.fixedAt (t : Tile) (k : Nat) : Fixed := vget .empty t.fixed k
def Tile.setFixed (t : Tile) (k : Nat) (f : Fixed) : Tile := { t with fixed := vput t.fixed k f }

/-- A flight put behind every flight due no later: the pipe stands in landing order. -/
def insertFlight (x : Flight) : List Flight → List Flight
  | [] => [x]
  | y :: ys => if y.due ≤ x.due then y :: insertFlight x ys else x :: y :: ys

/-- A result of latency `lat` sent on its way by the waiting bundle (02 R33). -/
def Tile.fly (t : Tile) (k lat : Nat) (x : Val) (fl : Flags) (opc : BitVec 6) : Tile :=
  let f := t.fixedAt k
  t.setFixed k { f with pipe := insertFlight (.fresh (t.nb + lat) t.nextId x fl opc) f.pipe }

/-- The landings of bundle `b` on one socket: its results after them, the flags they raise, and whether a data-lock
collision is due (02 R39, R40). -/
def Fixed.land (locked : Bool) (b : Nat) (f : Fixed) : Fixed × Flags × Bool :=
  let due := f.pipe.filter (·.due ≤ b)
  let rest := f.pipe.filter (fun x => !decide (x.due ≤ b))
  let late := fun l : List Flight => l.map fun x : Flight => { x with due := b + 1 }
  match due with
  | [] => (f, 0, false)
  | x :: xs =>
    if locked then
      if f.port.unread then ({ f with pipe := late due ++ rest }, 0, true)
      else ({ f with port := x.land, pipe := late xs ++ rest }, x.fl, !xs.isEmpty)
    else
      let y := xs.getLast?.getD x
      ({ f with port := y.land, pipe := rest }, due.foldl (fun a z => a ||| z.fl) 0, false)

/-- All landings of the waiting bundle: the tile after them and the sockets with a collision due. MX lands nothing while
INH is 1 (15 R341). -/
def Tile.landAll (t : Tile) : Tile × List Nat :=
  (List.range (if t.inh then 8 else 9)).foldl
    (fun (t, cs) k =>
      let (f, fl, c) := (t.fixedAt k).land (fixedLocked t.flm k) t.nb
      ({ t.setFixed k f with fpc := orFlags t.fpc fl }, if c then cs ++ [k] else cs))
    (t, [])

/-! ### Code (04 R74, 07 R161) -/

/-- The frame that holds a page of the tile's image. -/
def Tile.frameOf (t : Tile) (page : Nat) : Option Nat :=
  (List.range 16).find? fun k => decide ((vget .empty t.frames k).tag = some (t.img, page))

/-- The code word at an address whose page is resident. -/
def Tile.codeWord (t : Tile) (a : Nat) : Option W32 :=
  (t.frameOf (a / 4096)).map fun k => BitVec.ofNat 32 ((vget .empty t.frames k).bytes.value (a % 4096) 4)

/-- The words from `a` to the end of its packet. -/
def Tile.packetFrom (t : Tile) (a : Nat) : List W32 :=
  match t.frameOf (a / 4096) with
  | none => []
  | some k =>
    let m := (vget .empty t.frames k).bytes
    (List.range (16 - a % 64 / 4)).map fun i => BitVec.ofNat 32 (m.value (a % 4096 + 4 * i) 4)

/-- The sequential successor of a bundle of `len` words at `h` (04 R75). -/
def Tile.successor (t : Tile) (h len : Nat) : Nat :=
  let w := h % 64 / 4 + len
  let packet := h / 64 * 64
  if 16 ≤ w then packet + 64
  else if ((t.codeWord (packet + 4 * w)).getD 0).getLsbD 31 then packet + 4 * w else packet + 64

/-- The length that a header word gives its bundle (04 R78). -/
def headerLen (w : W32) : Nat := 1 + (busesOf (w.extractLsb' 21 10)).length + (w.extractLsb' 18 3).toNat

/-! ### Traps (15 R334 to R342) -/

def Trap.cause (x : Trap) : W64 := (0#32 ++ x.swcode ++ 0#1 ++ x.sock ++ BitVec.ofBool x.res2 ++ 0#1 ++ x.code : BitVec 64)

/-- TSTAT at entry: INH set, RSOL 0. -/
def Trap.stat (x : Trap) : W64 := (1#1 ++ 0#7 ++ x.dcnt ++ x.dcause ++ x.aux ++ x.lmask ++ 0#16 : BitVec 64)

/-- A trap with the deferred faults that the tile has recorded in its DCNT and DCAUSE (15 R334, 21 R475). The
deferred-store trap brings its own: its delivery has cleared the record. -/
def Tile.withRecord (t : Tile) (x : Trap) : Trap :=
  match t.deferred with
  | none => x
  | some d => { x with dcnt := BitVec.ofNat 8 (min d.count 0xFF), dcause := d.cause }

/-- The report a fatal fault sends (15 R344). -/
def mkReport (tid : Nat) (code aux : BitVec 8) (tpc : Int) (addr : W64) : Report :=
  ⟨BitVec.ofNat 64 (tid + aux.toNat <<< 32), code.setWidth 64, BitVec.ofInt 64 (tpc % 2 ^ 30), addr⟩

/-- The tile parks with a fatal report; its registers stay (15 R337, R343). -/
def Tile.fatal (t : Tile) (tid : Nat) (code aux : BitVec 8) (tpc : Int) (addr : W64) : Tile :=
  { t with run := .parked, report := some (mkReport tid code aux tpc addr) }

/-- A fixed-latency socket captured into its shadows: offsets from the waiting bundle `b` (15 R338). -/
def Fixed.capture (b : Nat) (f : Fixed) : Fixed :=
  ⟨.empty, [], some f.port, f.pipe.map fun x => { x with due := x.due - b }⟩

/-- The shadows put back before bundle `b` (15 R342), in the order of the offsets they now have (15 R352). -/
def Fixed.restore (b : Nat) (f : Fixed) : Fixed :=
  ⟨f.shPort.getD .empty, f.shadows.foldl (fun l x => insertFlight { x with due := x.due + b } l) [], none, []⟩

/-- Bundle counts of a result in flight moved on by `d`: MX's own while the handler ran; in the order of the counts they now have
(15 R352). -/
def Fixed.shift (d : Nat) (f : Fixed) : Fixed :=
  { f with pipe := f.pipe.foldl (fun l x => insertFlight { x with due := x.due + d } l) [] }

/-- MX's progress moved on by `d` bundles in which it was frozen (15 R341). The bundle in which a queued operation was
triggered stays: the stores before it are told by it (12 R276). -/
def Mx.shift (d : Nat) (m : Mx) : Mx :=
  { m with
    lastStart := m.lastStart.map (· + d)
    load := m.load.map fun l => { l with busyTo := l.busyTo + d, ready := l.ready + d }
    arrayTo := m.arrayTo.map (· + d)
    runs := m.runs.map fun r => { r with arrayTo := r.arrayTo + d, done := r.done + d } }

/-- The bundle count by which MX goes: the tile's own, or, while a handler runs, that of its entry (15 R341). -/
def Tile.mxNow (t : Tile) : Nat := ((vget .empty t.fixed 8).shadows.head?.map (·.due)).getD t.nb

/-- Taking a trap: the registers written, the fixed-latency results captured, the queues split, MX frozen, and the next
bundle the one at `h` (15 R337 to R341). The queues split by INH itself: every place held now has hp 0. MX's frozen
counts are moved on when INH clears; `nb` at entry is kept in the shadow of socket MX as its offset, and its port at entry for
record 1 (15 R351). The latch's cursor, RP and
WP are captured, and go on from where they stand (12 R279). -/
def Tile.enter (t : Tile) (x : Trap) (tpc : Int) (h : Nat) : Tile :=
  let fx := (List.range 8).foldl (fun f k => vput f k ((vget .empty f k).capture t.nb)) t.fixed
  let mxf := vget .empty fx 8
  { t with
    fixed := vput fx 8 { mxf with shPort := some mxf.port, shadows := [.fresh t.nb 0 .zero 0 0] }
    mxKept := some (t.mx.cursor, t.mx.rp, t.mx.wp)
    pre := none
    tpc := BitVec.ofInt 64 (tpc % 2 ^ 30)
    tcause := x.cause
    taddr := x.addr
    tstat := (t.withRecord x).stat
    resTrap := x.onResult
    pc := h
    via := .xfer h }

/-- What a bundle or an event comes to: the tile after it; the page that must be loaded first, and for a trap's entry the
tile as entered, whose handler stands on that page; or the tile lock with the conditions of 02 R46 that hold. -/
inductive Issue where
  | next (t : Tile)
  | need (page : Nat) (entered : Option Tile)
  | locked (bits : BitVec 6)
  deriving DecidableEq, Repr

/-- The entry of a trap through TVEC, or of a stream-end event through its HANDLER (15 R337). `t` is the tile as it
stood before the landings of the waiting bundle. -/
def Tile.trapTo (env : Env) (t : Tile) (x : Trap) (tpc : Int) (hdr : Nat) (handler : Option Nat) : Issue :=
  if handler.isNone && t.inh then .next (t.fatal env.tid 0x31 x.code tpc (BitVec.ofNat 64 hdr))
  else if handler.isNone && !t.tvec.getLsbD 0 then .next (t.fatal env.tid 0x32 (x.code &&& 0x7F) tpc 0)
  else
    let h := handler.getD (bitsN t.tvec 2 28 * 4)
    if env.codeLen ≤ h then .next (t.enter x tpc h)
    else
      match t.codeWord h with
      | none => .need (h / 4096) (some (t.enter x tpc h))
      | some w =>
        if w.getLsbD 31 then .next (t.enter x tpc h)
        else .next (t.fatal env.tid 0x32 (0x80 ||| (x.code &&& 0x7F)) tpc 0)

/-- A trap delivered at the waiting bundle, whose address is the tile's PC. -/
def Tile.trapAt (env : Env) (t : Tile) (x : Trap) : Issue := t.trapTo env x t.pc (t.pc % 2 ^ 30).toNat none

/-- A faulted place resolved by RSOL (15 R342, R352). `reissue` says that the request goes out again. -/
def resolvePlace (rsol : Nat) (taddr : W64) (q : List Place) : List Place :=
  match q with
  | [] => []
  | x :: xs =>
    if x.hp then x :: resolvePlace rsol taddr xs
    else
      match rsol with
      | 0 => { x with ready := false, flt := false, rep := .zero } :: xs
      | 3 => xs
      | 1 => (if x.flt then { x with ready := true, val := ⟨0, x.rtag, 0⟩, flt := false } else x) :: xs
      | _ => (if x.flt then { x with ready := true, val := .ofScalar taddr, flt := false } else x) :: xs

/-- A faulted port resolved by RSOL: it has no request to issue again and no place behind it, so RSOL 0 leaves it and RSOL 3
leaves it as at a launch (15 R342, R352, log 106). -/
def Port.resolve (rsol : Nat) (taddr : W64) (p : Port) : Port :=
  if !p.flt then p
  else
    match rsol with
    | 0 => p
    | 1 => { p with val := ⟨0, p.val.tag, 0⟩, flt := false }
    | 3 => .empty
    | _ => { p with val := .ofScalar taddr, flt := false }

/-- TCAUSE.CODE names a faulted result: codes delivered on a result (15 R335). -/
def resultCode (c : Nat) : Bool := decide (0x10 ≤ c) && decide (c ≤ 0x19)

/-- The handler parts of the queues discarded (15 R342, step 2). -/
def Tile.dropHandler (t : Tile) : Tile := { t with queues := t.queues.map fun q => q.filter fun x => !x.hp }

/-- MX with the cursor, RP and WP that a trap's entry captured (12 R279). -/
def Mx.recall (m : Mx) : Option (Nat × Nat × Nat) → Mx
  | some (c, r, w) => { m with cursor := c, rp := r, wp := w }
  | none => m

/-- TRET's restoration: shadows back, handler parts gone, MX resumed, INH 0 (15 R342). The bundle of TRET itself has
been counted: `nb` is that of the bundle at TPC. -/
def Tile.tretRestore (t : Tile) : Tile :=
  let d := t.nb - t.mxNow
  let fx := (List.range 8).foldl (fun f k => vput f k ((vget .empty f k).restore t.nb)) t.fixed
  let mxf := (vget .empty fx 8).shift d
  { t.dropHandler with
    fixed := vput fx 8 { mxf with shPort := none, shadows := [] }
    mx := (t.mx.shift d).recall t.mxKept
    mxKept := none
    tstat := t.tstat &&& 0x7FFFFFFFFFFFFFFF }

end Sys2Proof.Machine
end

