-- ==== Sys2Proof/Machine/Operands.lean ====
section
/-! DEFINITION. Every operand form: what each source delivers, when reading it locks or traps, what reading it removes;
what each destination does; and the operands a trigger samples (chapters 02, 04, 05, 12). -/
namespace Sys2Proof.Machine

/-! ### Row records (12 R260 to R262) -/

/-- The 288 bytes of a 2048-bit value's row record. -/
def Val.rowRecord (x : Val) : List Byte :=
  (List.range 4).foldl
    (fun l g => l ++ (List.range 64).map (fun k => x.data.extractLsb' (8 * (64 * g + k)) 8) ++
      bytesOf 3 (x.scale (2 * g)) ++ bytesOf 3 (x.scale (2 * g + 1)) ++
      [if g = 0 then x.tag.code.setWidth 8 else 0, 0]) []

/-- A 2048-bit value from its row record. -/
def Val.ofRowRecord (bs : List Byte) : Val :=
  let byte : Nat → Byte := fun i => (bs[i]?).getD 0
  let data := packN 8 ((List.range 256).map fun i => (byte (72 * (i / 64) + i % 64)).toNat)
  let side := packN 8 ((List.range 24).map fun i => (byte (72 * (i / 6) + 64 + i % 6)).toNat)
  ⟨BitVec.ofNat 2048 data, Tag.ofCode ((byte 70).setWidth 6), BitVec.ofNat 192 side⟩

/-! ### Stores of the tile to its own scratchpad that are not yet performed -/

/-- The own-scratchpad offset an address names, if it names one (09 R192, R193). -/
def ownOffset (tid : Nat) (a : W64) : Option Nat :=
  let n := a.toNat
  if n / 2 ^ 24 = 0xE0 * 2 ^ 32 + tid ∧ n % 2 ^ 24 < 0x40000 then some (n % 2 ^ 24) else none

def ReqKind.isStore : ReqKind → Bool
  | .store | .storeRel => true
  | _ => false

/-- The access has not been performed and has not failed. -/
def Lane.open_ (l : Lane) : Bool :=
  match l.st with
  | .fin | .flt _ _ => false
  | _ => true

/-- An AU store triggered before bundle `before` overlaps [off, off + n) of the scratchpad and is not yet performed. -/
def Tile.storeOpen (t : Tile) (tid off n before : Nat) : Bool :=
  t.reqs.any fun r => r.kind.isStore && decide (r.nb < before) && r.lanes.any fun l =>
    l.open_ && (match ownOffset tid l.addr with
      | some o => overlaps o l.len off n
      | none => false)

/-! ### Sources -/

/-- The value a literal form gives (04 R84). -/
def litVal (lo : BitVec 31) : LitForm → W64
  | .sx31 => lo.signExtend 64
  | .sx62 hi => (hi ++ lo : BitVec 62).signExtend 64
  | .zx31 => lo.setWidth 64
  | .sh31 => (lo.setWidth 64) <<< 31

/-- An immediate on a bus: the value, or on a V bus the value in every group (04 R84). -/
def immOn (b : BusKind) (x : W64) : Val := if b = .v then Val.ofRow (rep16 x) .raw else .ofScalar x

/-- The message words `inbox` reads: header first (13 R306). -/
def Msg.all (m : Msg) : List W64 := m.hdr :: m.words

/-- The next word an `inbox` read takes. -/
def Tile.inboxWord (t : Tile) : Option W64 :=
  match t.taking with
  | some (m, k) => m.all[k]?
  | none => t.inbox.head?.map (·.hdr)

/-- The inbox after an `inbox` read: the message goes after its last word. -/
def Tile.inboxPop (t : Tile) : Tile :=
  match t.taking with
  | some (m, k) => { t with taking := if k + 1 < m.all.length then some (m, k + 1) else none }
  | none =>
    match t.inbox with
    | [] => t
    | m :: ms => { t with inbox := ms, taking := if 1 < m.all.length then some (m, 1) else none }

def Tile.strmAt (t : Tile) (q : Nat) : Strm := vget .empty t.strm q
def Strm.bound (s : Strm) : Bool := s.bind.getLsbD 63
/-- The tag a binding gives its rows (13 R308). -/
def Strm.tag (s : Strm) : Tag := Tag.ofCode (s.bind.extractLsb' 8 6)

/-- The value of a result queue's head, zero where it is not valid. -/
def Tile.headVal (t : Tile) (k : Nat) : Val :=
  match headOf t.inh (t.queue k) with
  | some x => if x.ready then x.val else .zero
  | none => .zero

/-- A value as a bus of a kind delivers it (02 R25, 12 R261). -/
def onBus (b : BusKind) (x : Val) : Val :=
  match b with
  | .v => x.onV
  | .m => x
  | _ => .ofScalar x.lo

/-- What a source delivers on a bus, in a tile whose landings for this bundle have been made (04 R83 to R86). -/
def Tile.srcVal (env : Env) (t : Tile) (b : BusKind) : Src → Val
  | .g i => .ofScalar (t.gRead i)
  | .res k r2 =>
    onBus b (match fixedIdx k with
      | some i => (t.fixedAt i).port.val
      | none => match queueIdx k r2 with
        | some i => t.headVal i
        | none => .zero)
  | .imm x => immOn b (x.signExtend 64)
  | .lit _ lo f => immOn b (litVal lo f)
  | .v i => (vget .zero t.v i.toNat).val
  | .p i => .ofScalar (boolW (t.p.getLsbD i.toNat))
  | .q i =>
    if b = .v then ⟨(vget 0 t.q i.toNat).setWidth 2048, .pred, 0⟩ else .ofScalar (vget 0 t.q i.toNat)
  | .port (.link d) => .ofScalar ((t.link d.num).queue.head?.getD 0)
  | .port .inbox => .ofScalar (t.inboxWord.getD 0)
  | .port .gl => let r := vget .zero t.mx.latch.rows t.mx.cursor; ⟨r.data, t.mx.latchTag, r.side⟩
  | .port .spr => Val.ofRowRecord (t.spm.read t.mx.rp 288)
  | .port (.sq q) =>
    let s := t.strmAt q.num
    Val.ofRow (s.rows.head?.getD 0) s.tag
  | .spec r => .ofScalar (t.sregRead env r)

/-! ### Spill tokens (05 R121, R123) -/

/-- Registers a pending transfer has not handled yet: fill tokens or spill tokens. -/
def Spill.left (s : Spill) : List (Option Nat) := s.regs.drop s.pos

/-- Physical register `k` of a file carries a token of the kind. -/
def Tile.token (t : Tile) (fill vfile : Bool) (k : Nat) : Bool :=
  t.spill.any fun s => s.fill == fill && s.vfile == vfile && s.left.contains (some k)

/-- The physical register a g name reaches, none for g0 and a dead position. -/
def Tile.gReach (t : Tile) (n : BitVec 6) : Option Nat :=
  if n = 0 ∨ t.gDead n = true then none else some (t.gPhys n)

/-- A failed fill holds its token on the register: the scratchpad offset of the error (05 R123, log 74). -/
def Tile.failedFill (t : Tile) (vfile : Bool) (k : Nat) : Option Nat :=
  (t.failed.find? fun (f, j, _) => f == vfile && j == k).map fun (_, _, off) => off

/-- The memory-error trap of such a register (05 R123, 15 R335). -/
def Tile.fillTrap (t : Tile) (vfile : Bool) (k : Nat) : Option Trap :=
  (t.failedFill vfile k).map fun off => { code := 0x14, addr := BitVec.ofNat 64 off }

/-- A read of the register waits: a fill is pending (05 R121). -/
def Tile.readWaits (t : Tile) (vfile : Bool) (k : Nat) : Bool := t.token true vfile k && (t.failedFill vfile k).isNone

/-- A write of the register waits: a fill is pending, or a spill has not read it yet (05 R121). -/
def Tile.writeWaits (t : Tile) (vfile : Bool) (k : Nat) : Bool :=
  (t.token true vfile k || t.token false vfile k) && (t.failedFill vfile k).isNone

/-- The register a source reads, with its file. -/
def Tile.srcReg (t : Tile) : Src → Option (Bool × Nat)
  | .g i => (t.gReach i).map fun k => (false, k)
  | .v i => some (true, i.toNat)
  | _ => none

/-- The tag by which a lane guard selects lanes of what a source delivers. A register whose fill is pending has none yet: any
lane may be selected (05 R112, R121). -/
def Tile.gateTag (t : Tile) (s : Src) (tag : Tag) : Tag :=
  if (t.srcReg s).any fun (f, k) => t.readWaits f k then .raw else tag

/-- The register a destination writes, with its file. -/
def Tile.dstReg (t : Tile) : Dst → Option (Bool × Nat)
  | .g i => (t.gReach i).map fun k => (false, k)
  | .v i => some (true, i.toNat)
  | _ => none

/-! ### Locks and traps of sources and destinations -/

/-- The lock conditions 1, 3 and 5 of 02 R46 that reading a source raises, and the row port's wait (12 R264) as 6. -/
def Tile.srcLock (env : Env) (t : Tile) (s : Src) : BitVec 6 :=
  match s with
  | .res k r2 =>
    match queueIdx k r2 with
    | some i => if (headOf t.inh (t.queue i)).any (·.ready) then 0 else 1
    | none => 0
  | .port (.link d) => if !edgeAt env.tid d.num && (t.link d.num).queue.isEmpty then 4 else 0
  | .port .inbox => if t.inboxWord.isNone || !t.recvs.isEmpty then 4 else 0
  | .port (.sq q) => if (t.strmAt q.num).bound && (t.strmAt q.num).rows.isEmpty then 4 else 0
  | .port .spr => if t.storeOpen env.tid t.mx.rp 288 t.nb then 32 else 0
  | _ =>
    match t.srcReg s with
    | some (f, k) => if t.readWaits f k then 16 else 0
    | none => 0

/-- The lock conditions 4 and 5 that writing a destination raises, and the row port's wait as 6. -/
def Tile.dstLock (env : Env) (t : Tile) (d : Dst) : BitVec 6 :=
  match d with
  | .link d => if !edgeAt env.tid d.num && (t.link d.num).credit = 0 then 8 else 0
  | .spr => if t.storeOpen env.tid t.mx.wp 288 t.nb then 32 else 0
  | _ =>
    match t.dstReg d with
    | some (f, k) => if t.writeWaits f k then 16 else 0
    | none => 0

/-- The trap of a source: the edge link (02 R53), the unbound stream queue (13 R308), the row port's range and error
(12 R264), a register whose fill failed (05 R123). -/
def Tile.srcTrap (env : Env) (t : Tile) (s : Src) : Option Trap :=
  match s with
  | .port (.link d) =>
    if edgeAt env.tid d.num then some { code := 0x0B, aux := BitVec.ofNat 8 d.num } else none
  | .port (.sq q) => if (t.strmAt q.num).bound then none else some { code := 0x06 }
  | .port .spr =>
    if t.limit < t.mx.rp + 288 then some { code := 0x12, addr := BitVec.ofNat 64 t.mx.rp }
    else if t.spmBad t.mx.rp 288 then some { code := 0x14, addr := BitVec.ofNat 64 t.mx.rp }
    else none
  | _ =>
    match t.srcReg s with
    | some (f, k) => t.fillTrap f k
    | none => none

/-- The trap of a destination. -/
def Tile.dstTrap (env : Env) (t : Tile) (d : Dst) : Option Trap :=
  match d with
  | .link d => if edgeAt env.tid d.num then some { code := 0x0B, aux := BitVec.ofNat 8 d.num } else none
  | .spr =>
    if t.limit < t.mx.wp + 288 then some { code := 0x12, addr := BitVec.ofNat 64 t.mx.wp } else none
  | _ =>
    match t.dstReg d with
    | some (f, k) => t.fillTrap f k
    | none => none

/-- The trap that reading a faulted result takes. -/
def FaultRep.trap (r : FaultRep) (k : Sock) (r2 : Bool) : Trap :=
  { code := r.code, sock := k.num, res2 := r2, addr := r.addr, aux := r.aux, lmask := r.lmask, onResult := true }

/-- A faulted result's trap: of a result queue's head (02 R45, 15 R335), or of a port whose record says FAULT (15 R352). -/
def Tile.faultTrap (t : Tile) (s : Src) : Option Trap :=
  match s with
  | .res k r2 =>
    match queueIdx k r2 with
    | some i =>
      match headOf t.inh (t.queue i) with
      | some x => if x.ready && x.flt then some (x.rep.trap k r2) else none
      | none => none
    | none =>
      match fixedIdx k with
      | some i => let p := (t.fixedAt i).port; if p.flt then some (p.rep.trap k r2) else none
      | none => none
  | _ => none

/-- What reading a source removes, once a bundle (02 R38, R43, R49, 12 R264, R265, 13 R306, R309). RP is no bounded number:
it goes past its 18 bits where no record is read any more (log 59). -/
def Tile.srcPop (t : Tile) (s : Src) : Tile :=
  match s with
  | .res k r2 =>
    match fixedIdx k with
    | some i => let f := t.fixedAt i; t.setFixed i { f with port := { f.port with unread := false } }
    | none =>
      match queueIdx k r2 with
      | some i => t.setQueue i (popHead t.inh (t.queue i))
      | none => t
  | .port (.link d) =>
    let l := t.link d.num
    t.setLink d.num { l with queue := l.queue.drop 1, back := l.back ++ [.credit] }
  | .port .inbox => t.inboxPop
  | .port (.sq q) =>
    let s := t.strmAt q.num
    { t with strm := vput t.strm q.num { s with rows := s.rows.drop 1 } }
  | .port .gl => { t with mx := { t.mx with cursor := (t.mx.cursor + 1) % 8 } }
  | .port .spr => { t with mx := { t.mx with rp := t.mx.rp + 288 } }
  | _ => t

/-- The sources whose reading removes something. -/
def Src.pops : Src → Bool
  | .res _ _ | .port _ => true
  | _ => false

/-! ### Destinations -/

/-- A value written to a plain destination through its gate; names are resolved in `old`, the tile before the bundle
(05 R102, R113, R114). -/
def Tile.dstWrite (old t : Tile) (b : BusKind) (gt : Gate) (x : Val) : Dst → Tile
  | .g i => Tile.gWrite old t i x.lo
  | .v i => { t with v := vput t.v i.toNat (blend gt (vget .zero old.v i.toNat).val x).vreg }
  | .p n => t.pWrite n (x.lo.getLsbD 0)
  | .q n =>
    t.qWrite n (match gt with
      | .lanes _ bits => bits
      | _ => BitVec.allOnes 64) x.lo
  | .spec r => t.sregWrite x.lo r
  | .link d =>
    let l := t.link d.num
    t.setLink d.num { l with credit := l.credit - 1, wire := l.wire ++ [.word x.lo] }
  | .spr =>
    let u := t.spmWrite old.mx.wp x.rowRecord
    { u with mx := { u.mx with wp := old.mx.wp + 288 } }
  | .opnd k n e =>
    let i := opndIdx k n.toNat e
    { t with opnd := vput t.opnd i (blend gt (vget .zero old.opnd i) (entryVal k n.toNat b x)) }

/-! ### Triggers -/

/-- What an operation samples at the end of its bundle (02 R24, R28): the operands O0[e] to O3[e] and T; the tile before
the bundle's writes; the selected bytes of a lane guard; the bundle's header address and length; the places of MX's queue
that the bundle's own MX trigger takes (12 R280). -/
structure TCtx where
  env : Env
  old : Tile
  opnd : Vector Val 120
  o0 : Val
  o1 : Val
  t : Val
  e : Bool
  sel : BitVec 128
  h : Nat
  len : Nat
  entersMx : Nat

/-- Where a bundle's flow goes: on, to a target, into a loop, to the end, into a software trap, back from one. -/
inductive Flow where
  | seq
  | to (target : Int)
  | push (count : Nat) (le : Nat)
  | stop
  | soft (code : BitVec 16)
  | tret
  deriving DecidableEq, Repr

/-- An operation as its trigger starts it: whether it needs a result place (and
`delivers`: with these operands), what it checks at its bundle, what holds its
bundle, its effect at the bundle's end, its effect after the rotation, and where the flow goes. -/
structure TrigSpec where
  sock : Sock
  opc : BitVec 6
  e : Bool
  place : Bool := false
  delivers : TCtx → Bool := fun _ => true
  check : TCtx → Option Trap := fun _ => none
  lock : TCtx → Bool := fun _ => false
  needPage : TCtx → Option Nat := fun _ => none
  fire : TCtx → Tile → Tile := fun _ t => t
  late : TCtx → Tile → Tile := fun _ t => t
  flow : TCtx → Flow := fun _ => .seq

/-- The operands a place keeps for a reissue or a saved wait. -/
def TCtx.ops (c : TCtx) (k : Sock) (opc : BitVec 6) : Opnds :=
  let en := fun p e => (vget .zero c.opnd (opndIdx k p e)).lo
  ⟨c.t, c.o0, c.o1, en 0 false, en 0 true, en 1 false, en 1 true, c.e, opc⟩

/-- The scratchpad bytes the task may use. -/
def TCtx.limit (c : TCtx) : Nat := c.old.limit

/-- The invalid-operand trap of a socket's trigger. -/
def invalid (k : Sock) : Option Trap := some { code := 0x06, sock := k.num }

/-- The invalid-operand trap unless a condition holds. -/
def require (k : Sock) (ok : Bool) : Option Trap := if ok then none else invalid k

/-- The access fault of a scratchpad range at a trigger. -/
def accessTrap (k : Sock) (off : Nat) : Option Trap := some { code := 0x12, sock := k.num, addr := BitVec.ofNat 64 off }

/-- The memory-error trap of a scratchpad range at a trigger. -/
def errorTrap (k : Sock) (off : Nat) : Option Trap := some { code := 0x14, sock := k.num, addr := BitVec.ofNat 64 off }

/-- The format trap naming the offending tag (05 R109, 15 R335). -/
def formatTrap (k : Sock) (t : Tag) : Option Trap := some { code := 0x05, sock := k.num, aux := t.code.setWidth 8 }

/-- The first of two checks that fails. -/
def firstTrap (a b : Option Trap) : Option Trap :=
  match a with
  | some x => some x
  | none => b

/-- A fixed-latency operation: its check, its latency and its result. -/
def fixedSpec (k : Sock) (opc : BitVec 6) (e : Bool) (lat : Nat) (check : TCtx → Option Trap)
    (f : TCtx → Val × Flags) : TrigSpec where
  sock := k
  opc := opc
  e := e
  check := check
  fire := fun c t =>
    let r := f c
    t.fly ((fixedIdx k).getD 0) lat r.1 r.2 opc

end Sys2Proof.Machine
end

