-- ==== Sys2Proof/Machine/Vector.lean ====
section
/-! DEFINITION. The vector integer operations of VA (21 R471), and what the vector sockets share: the format of an
operation and lane selection. -/
namespace Sys2Proof.Machine

/-- The first tag that is not NONE. -/
def firstTag : List Tag → Tag
  | [] => .raw
  | t :: ts => if t = .raw then firstTag ts else t

/-- The format trap of data operands: their common tag must satisfy `ok` (19 R410, 21 R471). -/
def formatCheck (k : Sock) (ok : Tag → Bool) (tags : List Tag) : Option Trap :=
  let f := firstTag tags
  if !ok f then formatTrap k f
  else
    match tags.find? fun t => t != .raw && t != f with
    | some t => formatTrap k t
    | none => none

/-- An element of `w` bits overlaps a selected byte (05 R113). -/
def elemPicked (sel : BitVec 128) (w i : Nat) : Bool :=
  (List.range (w / 8)).any fun k => sel.getLsbD (i * (w / 8) + k)

/-- A row computed element by element: unselected elements are zero and raise nothing. -/
def mapRow (sel : BitVec 128) (w : Nat) (tag : Tag) (f : Nat → Nat × Flags) : Val × Flags :=
  let rs := (List.range (1024 / w)).map fun i => if elemPicked sel w i then f i else (0, 0)
  (Val.ofRow (packRow w (rs.map (·.1))) tag, rs.foldl (fun a r => a ||| r.2) 0)

/-- The data operands of a VA or VF operation: T, then O0[e], then O1[e]. -/
def TCtx.tags (c : TCtx) (useO0 useO1 : Bool) : List Tag :=
  [c.t.tag] ++ (if useO0 then [c.o0.tag] else []) ++ (if useO1 then [c.o1.tag] else [])

/-! ### VA -/

/-- A VA operation on the elements O0[e](i), O1[e](i) and T(i), given F's width and signedness. -/
def vaSpec (opc : BitVec 6) (e : Bool) (lat : Nat) (useO0 useO1 : Bool) (f : Nat → Bool → Nat → Nat → Nat → Nat) :
    TrigSpec :=
  fixedSpec .va opc e lat (fun c => formatCheck .va Tag.isInt (c.tags useO0 useO1)) fun c =>
    let tag := firstTag (c.tags useO0 useO1)
    let w := tag.width.getD 8
    mapRow c.sel w tag fun i => (f w tag.isSigned (elem c.o0.row w i) (elem c.o1.row w i) (elem c.t.row w i), 0)

/-- An exact result wrapped, its operands read under the tag's signedness. -/
def vaWrap (op : Int → Int → Int → Int) (w : Nat) (s : Bool) (a b t : Nat) : Nat :=
  wrapN w (op (intOf w s a) (intOf w s b) (intOf w s t))

/-- An exact result clamped to the tag's range (06 R127). -/
def clampInt (w : Nat) (s : Bool) (x : Int) : Nat := wrapN w (max (intLo w s) (min (intHi w s) x))

def vaClamp (op : Int → Int → Int) (w : Nat) (s : Bool) (a _ t : Nat) : Nat :=
  clampInt w s (op (intOf w s a) (intOf w s t))

def vaddSpec (e : Bool) : TrigSpec := vaSpec 0x00 e 1 true false (vaWrap fun a _ t => a + t)
def vaddSSpec (e : Bool) : TrigSpec := vaSpec 0x01 e 1 true false (vaClamp fun a t => a + t)
def vsubSpec (e : Bool) : TrigSpec := vaSpec 0x02 e 1 true false (vaWrap fun a _ t => a - t)
def vsubSSpec (e : Bool) : TrigSpec := vaSpec 0x03 e 1 true false (vaClamp fun a t => a - t)
def vmulSpec (e : Bool) : TrigSpec := vaSpec 0x04 e 3 true false (vaWrap fun a _ t => a * t)
def vmadSpec (e : Bool) : TrigSpec := vaSpec 0x05 e 3 true true (vaWrap fun a b t => a * b + t)
def vshlSpec (e : Bool) : TrigSpec := vaSpec 0x09 e 1 true false fun w _ a _ t => (a <<< (t % w)) % 2 ^ w
def vshrSpec (e : Bool) : TrigSpec := vaSpec 0x0A e 1 true false fun w _ a _ t => a >>> (t % w)
def vshrASpec (e : Bool) : TrigSpec :=
  vaSpec 0x0B e 1 true false fun w _ a _ t => wrapN w (signedN w a / (2 ^ (t % w) : Nat))
def vminSpec (e : Bool) : TrigSpec := vaSpec 0x0C e 1 true false (vaWrap fun a _ t => min a t)
def vmaxSpec (e : Bool) : TrigSpec := vaSpec 0x0D e 1 true false (vaWrap fun a _ t => max a t)
def vabsSpec (e : Bool) : TrigSpec := vaSpec 0x0E e 1 false false (vaWrap fun _ _ t => (t.natAbs : Int))

/-- A bitwise operation on whole rows: any tag; the lanes of a guard go by T's tag, and the result carries T's tag and
sidecar, or O0[e]'s when T is tagged NONE (21 R480, 05 R106, log 58). -/
def vbitSpec (opc : BitVec 6) (e : Bool) (f : BitVec 1024 → BitVec 1024 → BitVec 1024) : TrigSpec :=
  fixedSpec .va opc e 1 (fun _ => none) fun c =>
    let k := if c.t.tag = .raw then c.o0 else c.t
    let w := (k.tag.width).getD 16
    let row := f c.o0.row c.t.row
    let r := mapRow c.sel w k.tag fun i => (elem row w i, 0)
    ({ r.1 with side := k.keptSide }, 0)

def vandSpec (e : Bool) : TrigSpec := vbitSpec 0x06 e fun a b => a &&& b
def vorSpec (e : Bool) : TrigSpec := vbitSpec 0x07 e fun a b => a ||| b
def vxorSpec (e : Bool) : TrigSpec := vbitSpec 0x08 e fun a b => a ^^^ b

/-! ### Compares (21 R481) -/

/-- The PRED row of element outcomes of width `w`. -/
def predRow (w : Nat) (outs : List Bool) : Val :=
  let bit := fun i => (outs[i]?).getD false
  if w = 8 then
    let lo := packN 1 ((List.range 64).map fun i => if bit (2 * i) && bit (2 * i + 1) then 1 else 0)
    let hi := packN 1 ((List.range 128).map fun j => if bit j then 1 else 0)
    Val.ofRow (BitVec.ofNat 1024 (lo + hi <<< 128)) .pred
  else Val.ofRow (BitVec.ofNat 1024 (packN 1 (outs.map fun b => if b then 1 else 0))) .pred

def vcmpSpec (opc : BitVec 6) (e : Bool) (p : Nat → Nat → Nat → Bool) : TrigSpec :=
  fixedSpec .va opc e 1 (fun c => formatCheck .va Tag.isInt (c.tags true false)) fun c =>
    let w := (firstTag (c.tags true false)).width.getD 8
    (predRow w ((List.range (1024 / w)).map fun i =>
      elemPicked c.sel w i && p w (elem c.o0.row w i) (elem c.t.row w i)), 0)

def vcmpEqSpec (e : Bool) : TrigSpec := vcmpSpec 0x10 e fun _ a b => a == b
def vcmpNeSpec (e : Bool) : TrigSpec := vcmpSpec 0x11 e fun _ a b => a != b
def vcmpLtSpec (e : Bool) : TrigSpec := vcmpSpec 0x12 e fun w a b => decide (signedN w a < signedN w b)
def vcmpLeSpec (e : Bool) : TrigSpec := vcmpSpec 0x13 e fun w a b => decide (signedN w a ≤ signedN w b)
def vcmpLtuSpec (e : Bool) : TrigSpec := vcmpSpec 0x14 e fun _ a b => decide (a < b)
def vcmpLeuSpec (e : Bool) : TrigSpec := vcmpSpec 0x15 e fun _ a b => decide (a ≤ b)

/-- VSEL (21 R493): the mask T[63:0] chooses lanes of O0[e] or O1[e]; a lane guard still selects by T's tag. -/
def vselSpec (e : Bool) : TrigSpec :=
  fixedSpec .va 0x18 e 1 (fun _ => none) fun c =>
    let k := if c.o0.tag = .raw then c.o1 else c.o0
    let w := (k.tag.width).getD 16
    let m := laneBytes k.tag c.t.lo
    let r := mapRow c.sel w k.tag fun i => (if m.getLsbD (i * (w / 8)) then elem c.o0.row w i else elem c.o1.row w i, 0)
    ({ r.1.filled with side := k.keptSide }, 0)

end Sys2Proof.Machine
end

