-- ==== Sys2Proof/Machine/Float.lean ====
section
/-! DEFINITION. The floating-point operations of VF0 and VF1 (19 R410 to R423). -/
namespace Sys2Proof.Machine

def vfSock (u : Bool) : Sock := if u then .vf1 else .vf0

/-- RMODE as it stood before the bundle (06 R135). -/
def TCtx.mode (c : TCtx) : RMode := RMode.of (c.old.fpc.setWidth 2)

/-- A mode field: 0 is RMODE, 1 to 4 a mode of its own (19 R417). -/
def TCtx.modeOf (c : TCtx) (m : Nat) : RMode := if m = 0 then c.mode else RMode.of (BitVec.ofNat 2 (m - 1))

/-- A VF operation on the elements O0[e](i), O1[e](i) and T(i). -/
def vfSpec (u : Bool) (opc : BitVec 6) (e : Bool) (lat : Nat) (useO0 useO1 : Bool)
    (f : Fmt → RMode → Nat → Nat → Nat → FRes) : TrigSpec :=
  fixedSpec (vfSock u) opc e lat (fun c => formatCheck (vfSock u) Tag.isFp (c.tags useO0 useO1)) fun c =>
    let tag := firstTag (c.tags useO0 useO1)
    let fm := tag.fmt.getD .f16
    mapRow c.sel fm.width tag fun i =>
      let r := f fm c.mode (elem c.o0.row fm.width i) (elem c.o1.row fm.width i) (elem c.t.row fm.width i)
      (r.bits, r.fl)

/-- FADD, FSUB and FMUL (19 R415). -/
def faddSpec (u e : Bool) : TrigSpec := vfSpec u 0x00 e 4 true false fun f m a _ t => f.add m a t
def fsubSpec (u e : Bool) : TrigSpec := vfSpec u 0x01 e 4 true false fun f m a _ t => f.sub m a t
def fmulSpec (u e : Bool) : TrigSpec := vfSpec u 0x02 e 4 true false fun f m a _ t => f.mul m a t
/-- FFMA, FFMA.N and FFMS (19 R420). -/
def ffmaSpec (u e : Bool) : TrigSpec := vfSpec u 0x03 e 5 true true fun f m a b t => f.fma m false false a b t
def ffmaNSpec (u e : Bool) : TrigSpec := vfSpec u 0x04 e 5 true true fun f m a b t => f.fma m true false a b t
def ffmsSpec (u e : Bool) : TrigSpec := vfSpec u 0x05 e 5 true true fun f m a b t => f.fma m false true a b t

/-- a below b, with −0 below +0; neither is a NaN. -/
def fpBelow (a b : Fp) : Bool :=
  match Fp.cmp a b with
  | .lt => true
  | .eq => a.sign && !b.sign
  | .gt => false

/-- FMIN (`max` false) and FMAX (19 R422). -/
def fpPick (mx : Bool) (f : Fmt) (a b : Nat) : FRes :=
  let x := f.decode a
  let y := f.decode b
  let fl := if x.isSig || y.isSig then flNV else 0
  if x.isNan && y.isNan then ⟨f.nan, fl⟩
  else if x.isNan then ⟨b, fl⟩
  else if y.isNan then ⟨a, fl⟩
  else if mx then ⟨if fpBelow x y then b else a, 0⟩
  else ⟨if fpBelow y x then b else a, 0⟩

def fminSpec (u e : Bool) : TrigSpec := vfSpec u 0x06 e 2 true false fun f _ a _ t => fpPick false f a t
def fmaxSpec (u e : Bool) : TrigSpec := vfSpec u 0x07 e 2 true false fun f _ a _ t => fpPick true f a t

/-- An element with its sign bit set to `s`. -/
def Fmt.withSign (f : Fmt) (s : Bool) (x : Nat) : Nat :=
  x % 2 ^ (f.width - 1) + (if s then 2 ^ (f.width - 1) else 0)

/-- FABS, FABS.NEG and FABS.SGN (19 R414). -/
def fabsSpec (u e : Bool) : TrigSpec := vfSpec u 0x08 e 2 false false fun f _ _ _ t => ⟨f.withSign false t, 0⟩
def fabsNegSpec (u e : Bool) : TrigSpec := vfSpec u 0x09 e 2 false false fun f _ _ _ t => ⟨f.withSign true t, 0⟩
def fabsSgnSpec (u e : Bool) : TrigSpec :=
  vfSpec u 0x0A e 2 true false fun f _ a _ t => ⟨f.withSign (t.testBit (f.width - 1)) a, 0⟩

/-! ### Compares (19 R416) -/

/-- A compare: the outcome for ordered operands, for unordered ones, and whether a quiet NaN raises NV. -/
def fcmpSpec (u : Bool) (opc : BitVec 6) (e : Bool) (ord : Ordering → Bool) (unord quietNV : Bool) : TrigSpec :=
  fixedSpec (vfSock u) opc e 2 (fun c => formatCheck (vfSock u) Tag.isFp (c.tags true false)) fun c =>
    let fm := (firstTag (c.tags true false)).fmt.getD .f16
    let w := fm.width
    let rs := (List.range (1024 / w)).map fun i =>
      if elemPicked c.sel w i then
        let a := fm.decode (elem c.o0.row w i)
        let b := fm.decode (elem c.t.row w i)
        let nan := a.isNan || b.isNan
        (if nan then unord else ord (Fp.cmp a b), if a.isSig || b.isSig || (nan && quietNV) then flNV else 0)
      else (false, (0 : Flags))
    (predRow w (rs.map (·.1)), rs.foldl (fun a r => a ||| r.2) 0)

def fcmpEqSpec (u e : Bool) : TrigSpec := fcmpSpec u 0x10 e (· == .eq) false false
def fcmpNeSpec (u e : Bool) : TrigSpec := fcmpSpec u 0x11 e (· != .eq) true false
def fcmpLtSpec (u e : Bool) : TrigSpec := fcmpSpec u 0x12 e (· == .lt) false true
def fcmpLeSpec (u e : Bool) : TrigSpec := fcmpSpec u 0x13 e (· != .gt) false true
def fcmpUnSpec (u e : Bool) : TrigSpec := fcmpSpec u 0x14 e (fun _ => false) true false
def fcmpOrdSpec (u e : Bool) : TrigSpec := fcmpSpec u 0x15 e (fun _ => true) false false

/-! ### Conversions (19 R417, R418, R423) -/

/-- Where result element `i` of width `wt` takes its value from, for a source of width `ws` (19 R418). -/
def partSource (ws wt part i : Nat) : Option Nat :=
  let n := 1024 / max ws wt
  if ws < wt then some (part * n + i)
  else if wt < ws then (if part * n ≤ i ∧ i < part * n + n then some (i - part * n) else none)
  else some i

/-- The ratio of the wider to the narrower width. -/
def widthRatio (a b : Nat) : Nat := max a b / min a b

/-- A row of width `wt` converted from a source row of width `ws`, each element by `f`. -/
def convertRow (sel : BitVec 128) (ws wt part : Nat) (tag : Tag) (f : Nat → Nat × Flags) : Val × Flags :=
  let rs := (List.range (1024 / wt)).map fun i =>
    match partSource ws wt part i with
    | some j => if elemPicked sel ws j then f j else (0, 0)
    | none => (0, 0)
  (Val.ofRow (packRow wt (rs.map (·.1))) tag, rs.foldl (fun a r => a ||| r.2) 0)

/-- One value from a format to another under a mode (06 R133, 19 R418). -/
def convertElem (mode : RMode) (src tgt : Tag) (x : Nat) : FRes :=
  match src.fmt, tgt.fmt with
  | some f, some g =>
    if f = g then (if (f.decode x).isNan then g.ofFp mode (f.decode x) else ⟨x, 0⟩) else g.ofFp mode (f.decode x)
  | some f, none => fpToInt mode (tgt.width.getD 8) tgt.isSigned (f.decode x)
  | none, some g => g.ofInt mode (intOf (src.width.getD 8) src.isSigned x)
  | none, none => ⟨x, 0⟩

/-- FCVT's control word checks (19 R417). -/
def fcvtCheck (u : Bool) (c : TCtx) : Option Trap :=
  let k := c.o0.lo
  let tgt := Tag.ofCode (k.setWidth 6)
  let ws := c.t.tag.width.getD 8
  let wt := tgt.width.getD 8
  if !(c.t.tag.isFp || c.t.tag.isInt) then formatTrap (vfSock u) c.t.tag
  else
    require (vfSock u) (decide (k.toNat < 4096) && decide (bitsN k 6 3 ≤ 4) && (tgt.isFp || tgt.isInt) &&
      !(tgt.isInt && c.t.tag.isInt) && decide (bitsN k 9 3 < widthRatio ws wt))

def fcvtSpec (u e : Bool) : TrigSpec :=
  fixedSpec (vfSock u) 0x18 e 3 (fcvtCheck u) fun c =>
    let k := c.o0.lo
    let tgt := Tag.ofCode (k.setWidth 6)
    let ws := c.t.tag.width.getD 8
    convertRow c.sel ws (tgt.width.getD 8) (bitsN k 9 3) tgt fun j =>
      let r := convertElem (c.modeOf (bitsN k 6 3)) c.t.tag tgt (elem c.t.row ws j)
      (r.bits, r.fl)

/-- One element rounded to an integral value; NX only where EXACT is set (19 R423). -/
def roundIntegral (mode : RMode) (exact : Bool) (f : Fmt) (x : Nat) : FRes :=
  match f.decode x with
  | .nan sg => ⟨f.nan, if sg then flNV else 0⟩
  | .inf _ => ⟨x, 0⟩
  | .fin s m e =>
    if m = 0 then ⟨x, 0⟩
    else
      let (y, ch) := roundToInt mode s m e
      ⟨(f.round .rne s y.natAbs 0).bits, if exact && ch then flNX else 0⟩

def frndSpec (u e : Bool) : TrigSpec :=
  fixedSpec (vfSock u) 0x19 e 3
    (fun c =>
      let k := c.o0.lo
      if !c.t.tag.isFp then formatTrap (vfSock u) c.t.tag
      else require (vfSock u) (decide (k &&& ~~~0x3C0 = 0) && decide (bitsN k 6 3 ≤ 4)))
    fun c =>
      let k := c.o0.lo
      let fm := c.t.tag.fmt.getD .f16
      mapRow c.sel fm.width c.t.tag fun i =>
        let r := roundIntegral (c.modeOf (bitsN k 6 3)) (k.getLsbD 9) fm (elem c.t.row fm.width i)
        (r.bits, r.fl)

end Sys2Proof.Machine
end

