-- ==== Sys2Proof/Machine/Cross.lean ====
section
/-! DEFINITION. The cross-lane and block-format operations of VX (21 R472, R482 to R492). -/
namespace Sys2Proof.Machine

def vxSpec (opc : BitVec 6) (e : Bool) (lat : Nat) (check : TCtx → Option Trap) (f : TCtx → Val × Flags) : TrigSpec :=
  fixedSpec .vx opc e lat check f

/-! ### Permutation (21 R487, R482) -/

/-- VPERM: T selects elements of O0[e] and O1[e]. -/
def vpermSpec (e : Bool) : TrigSpec :=
  vxSpec 0x00 e 2
    (fun c =>
      let w := c.t.tag.width
      let f := firstTag [c.o0.tag, c.o1.tag]
      if !c.t.tag.isInt then formatTrap .vx c.t.tag
      else if c.o0.tag ≠ .raw ∧ c.o0.tag.width ≠ w then formatTrap .vx c.o0.tag
      else if c.o1.tag ≠ .raw ∧ (c.o1.tag.width ≠ w ∨ c.o1.tag ≠ f) then formatTrap .vx c.o1.tag
      else none)
    fun c =>
      let w := c.t.tag.width.getD 8
      let n := 1024 / w
      let k := if c.o0.tag = .raw then c.o1 else c.o0
      let r := mapRow c.sel w k.tag fun i =>
        let j := elem c.t.row w i % (2 * n)
        (if j < n then elem c.o0.row w j else elem c.o1.row w (j - n), 0)
      ({ r.1.filled with side := k.keptSide }, 0)

/-- VBCST: every element is O0[e](T[6:0] mod n). A lane guard selects result elements by T's tag. -/
def vbcstSpec (e : Bool) : TrigSpec :=
  vxSpec 0x01 e 2 (fun _ => none) fun c =>
    let w := c.o0.tag.width.getD 16
    let x := elem c.o0.row w (bitsN c.t.lo 0 7 % (1024 / w))
    let r := mapRow c.sel w c.o0.tag fun _ => (x, 0)
    ({ r.1.filled with side := c.o0.keptSide }, 0)

/-- VCMPX: the elements of T that the mask selects, packed down. -/
def vcmpxSpec (e : Bool) : TrigSpec :=
  vxSpec 0x06 e 4 (fun _ => none) fun c =>
    let w := c.t.tag.width.getD 16
    let m := laneBytes c.t.tag c.o0.lo
    let xs := (List.range (1024 / w)).filterMap fun i =>
      if m.getLsbD (i * (w / 8)) then some (elem c.t.row w i) else none
    ((⟨(packRow w xs).setWidth 2048, c.t.tag, c.t.keptSide⟩ : Val).filled, 0)

/-! ### Reductions (21 R490 to R492) -/

def isArith (t : Tag) : Bool := t.isInt || t.isFp

/-- The segment length that LSEG gives. -/
def segLen (lseg n : Nat) : Nat := if lseg = 0 then n else 2 ^ lseg

def redCheck (c : TCtx) : Option Trap :=
  if !isArith c.t.tag then formatTrap .vx c.t.tag
  else
    let n := 1024 / c.t.tag.width.getD 8
    require .vx (decide (c.o0.lo.toNat < 8) && decide (segLen (bitsN c.o0.lo 0 3) n ≤ n))

/-- T's elements, those a lane guard leaves out replaced by an identity. -/
def redElems (c : TCtx) (ident : Nat) : List Nat :=
  let w := c.t.tag.width.getD 8
  (List.range (1024 / w)).map fun i => if elemPicked c.sel w i then elem c.t.row w i else ident

/-- A list cut into segments of `g`. -/
def segments (g : Nat) (xs : List Nat) : List (List Nat) :=
  (List.range (xs.length / g)).map fun s => (xs.drop (s * g)).take g

/-- The sum of two elements: FP under a mode, integers wrapping. -/
def addElem (t : Tag) (mode : RMode) (a b : Nat) : Nat × Flags :=
  match t.fmt with
  | some f => let r := f.add mode a b; (r.bits, r.fl)
  | none => ((a + b) % 2 ^ t.width.getD 8, 0)

/-- The lesser or greater of two elements: 19 R422 for FP, the tag's signedness for integers. -/
def pickElem (mx : Bool) (t : Tag) (a b : Nat) : Nat × Flags :=
  match t.fmt with
  | some f => let r := fpPick mx f a b; (r.bits, r.fl)
  | none =>
    let w := t.width.getD 8
    let le := decide (intOf w t.isSigned a ≤ intOf w t.isSigned b)
    (if le != mx then a else b, 0)

def addIdent (t : Tag) : Nat :=
  match t.fmt with
  | some f => 2 ^ (f.width - 1)
  | none => 0

def pickIdent (mx : Bool) (t : Tag) : Nat :=
  match t.fmt with
  | some f => f.infBits mx
  | none =>
    let w := t.width.getD 8
    wrapN w (if mx then intLo w t.isSigned else intHi w t.isSigned)

/-- VRED: each segment merged by the tree of 06 R145. -/
def vredSpec (opc : BitVec 6) (e : Bool) (ident : Tag → Nat) (op : Tag → Nat → Nat → Nat × Flags) : TrigSpec :=
  vxSpec opc e 6 redCheck fun c =>
    let t := c.t.tag
    let n := 1024 / t.width.getD 8
    let g := segLen (bitsN c.o0.lo 0 3) n
    let rs := (segments g (redElems c (ident t))).map (mergeTree (op t) 0 8)
    (Val.ofRow (packRow (t.width.getD 8) (rs.map (·.1))) t, rs.foldl (fun a r => a ||| r.2) 0)

def vredAddSpec (e : Bool) : TrigSpec := vredSpec 0x02 e addIdent fun t => addElem t .rne
def vredMinSpec (e : Bool) : TrigSpec := vredSpec 0x03 e (pickIdent false) (pickElem false)
def vredMaxSpec (e : Bool) : TrigSpec := vredSpec 0x04 e (pickIdent true) (pickElem true)

/-- Inclusive sums of one segment, low to high. -/
def scanFrom (op : Nat → Nat → Nat × Flags) (acc : Nat) : List Nat → List Nat × Flags
  | [] => ([], 0)
  | x :: xs =>
    let (y, f) := op acc x
    let (ys, g) := scanFrom op y xs
    (y :: ys, f ||| g)

def scanSeg (first : Nat → Nat × Flags) (op : Nat → Nat → Nat × Flags) : List Nat → List Nat × Flags
  | [] => ([], 0)
  | x :: xs =>
    let (y, f) := first x
    let (ys, g) := scanFrom op y xs
    (y :: ys, f ||| g)

/-- The first element of a segment: taken exactly, but a NaN is delivered in its canonical form, and a signalling one sets
NV (21 R492, 06 R132). -/
def scanFirst (t : Tag) (x : Nat) : Nat × Flags :=
  match t.fmt with
  | some f =>
    let a := f.decode x
    if a.isNan then (f.nan, if a.isSig then flNV else 0) else (x, 0)
  | none => (x, 0)

/-- VSCAN.ADD. -/
def vscanAddSpec (e : Bool) : TrigSpec :=
  vxSpec 0x05 e 8 redCheck fun c =>
    let t := c.t.tag
    let n := 1024 / t.width.getD 8
    let g := segLen (bitsN c.o0.lo 0 3) n
    let rs := (segments g (redElems c (addIdent t))).map (scanSeg (scanFirst t) (addElem t c.mode))
    (Val.ofRow (packRow (t.width.getD 8) (rs.flatMap (·.1))) t, rs.foldl (fun a r => a ||| r.2) 0)

/-! ### Block formats (21 R488, R489, R484) -/

def vqntCheck (sr : Bool) (c : TCtx) : Option Trap :=
  let k := c.o0.lo
  let m := bitsN k 4 4
  let blk := bitsN k 0 2
  let mode := bitsN k 9 3
  if !(c.t.tag.isFp && c.t.tag != .fp64) then formatTrap .vx c.t.tag
  else if c.o1.tag ≠ .raw ∧ c.o1.tag ≠ Tag.ofBfm m ∨ c.o1.tag ≠ .raw ∧ c.o1.tag.bfm = none then
    formatTrap .vx c.o1.tag
  else
    require .vx (decide (k &&& ~~~0xEF3 = 0) && decide (2 ≤ m) && decide (m ≤ 8) && decide (mode ≤ (if sr then 0 else 4)) &&
      (c.t.tag == .fp32 || blk % 2 == 0))

/-- Element bytes 32j to 32j + 31 of a row replaced. -/
def putBlock (bytes : List Nat) (j : Nat) (xs : List Nat) : List Nat :=
  bytes.take (32 * j) ++ xs ++ bytes.drop (32 * j + 32)

/-- The row, sidecar and flags after block `c` of T is quantised into block BLK + c. -/
def quantInto (m blk : Nat) (r : QRound) (f : Fmt) (t : BitVec 1024) (st : List Nat × List Nat × Flags) (cb : Nat) :
    List Nat × List Nat × Flags :=
  let (bytes, scales, fl) := st
  let j := blk + cb
  let b := quantBlock m r (32 * j) ((List.range 32).map fun k => f.decode (elem t f.width (32 * cb + k)))
  (putBlock bytes j (b.q.map (wrapN 8)), scales.take j ++ [b.scale.toNat] ++ scales.drop (j + 1), fl ||| b.fl)

def vqntRow (r : QRound) (c : TCtx) : Val × Flags :=
  let k := c.o0.lo
  let m := bitsN k 4 4
  let f := c.t.tag.fmt.getD .f32
  let base : Val := if c.o1.tag = .raw then .zero else c.o1
  let (bytes, scales, fl) := (List.range (if f = .f32 then 1 else 2)).foldl
    (quantInto m (bitsN k 0 2) r f c.t.row) (elems base.row 8, elems (base.side.setWidth 96) 24, 0)
  (⟨(packRow 8 bytes).setWidth 2048, Tag.ofBfm m, BitVec.ofNat 192 (packN 24 scales)⟩, fl)

def vqntSpec (e : Bool) : TrigSpec :=
  vxSpec 0x07 e 6 (vqntCheck false) fun c => vqntRow (.mode (c.modeOf (bitsN c.o0.lo 9 3))) c

def vqntSrSpec (e : Bool) : TrigSpec :=
  vxSpec 0x08 e 6 (vqntCheck true) fun c => vqntRow (.seed (c.o0.data.extractLsb' 64 64)) c

/-- One element dequantised (06 R140). -/
def dequant (mode : RMode) (f : Fmt) (m : Nat) (s : BitVec 24) (x : Nat) : FRes :=
  match blockElem m s x with
  | none => ⟨f.nan, flBV⟩
  | some (.fin sg mm ee) => if mm = 0 then ⟨0, 0⟩ else f.round mode sg mm ee
  | some y => f.ofFp mode y

def vdqnSpec (e : Bool) : TrigSpec :=
  vxSpec 0x09 e 6
    (fun c =>
      let k := c.o0.lo
      let tgt := Tag.ofCode (k.setWidth 6)
      if c.t.tag.bfm.isNone then formatTrap .vx c.t.tag
      else
        require .vx (decide (k.toNat < 4096) && decide (bitsN k 6 3 ≤ 4) && tgt.isFp &&
          decide (bitsN k 9 3 < widthRatio 8 (tgt.width.getD 8))))
    fun c =>
      let k := c.o0.lo
      let tgt := Tag.ofCode (k.setWidth 6)
      let f := tgt.fmt.getD .f64
      convertRow c.sel 8 f.width (bitsN k 9 3) tgt fun j =>
        let r := dequant (c.modeOf (bitsN k 6 3)) f (c.t.tag.bfm.getD 8) (c.t.scale (j / 32)) (elem c.t.row 8 j)
        (r.bits, r.fl)

/-- VCVT (21 R483). -/
def vcvtSpec (e : Bool) : TrigSpec :=
  vxSpec 0x0A e 3
    (fun c =>
      let k := c.o0.lo
      let tgt := Tag.ofCode (k.setWidth 6)
      if !c.t.tag.isInt then formatTrap .vx c.t.tag
      else
        require .vx (decide (k.toNat < 1024) && tgt.isInt &&
          decide (bitsN k 7 3 < widthRatio (c.t.tag.width.getD 8) (tgt.width.getD 8))))
    fun c =>
      let k := c.o0.lo
      let tgt := Tag.ofCode (k.setWidth 6)
      let ws := c.t.tag.width.getD 8
      let wt := tgt.width.getD 8
      convertRow c.sel ws wt (bitsN k 7 3) tgt fun j =>
        let x := intOf ws c.t.tag.isSigned (elem c.t.row ws j)
        (if k.getLsbD 6 then clampInt wt tgt.isSigned x else wrapN wt x, 0)

end Sys2Proof.Machine
end

