-- ==== Sys2Proof/Machine/Access.lean ====
section
/-! DEFINITION. The triggers of AU: what each checks at its bundle, when it holds its bundle, and the request it leaves
(chapters 05, 09 to 11, 18 to 21). What becomes of a request is in Translate, Requests and Tickets. -/
namespace Sys2Proof.Machine

/-- One access not yet translated. -/
def newLane (idx : Nat) (addr : W64) (len : Nat) (data : BitVec 1120) : Lane := ⟨idx, addr, len, .issue, data⟩

/-- A request entered in AU, or one of SY's. -/
def Tile.addReq (t : Tile) (kind : ReqKind) (ops : Opnds) (lanes : List Lane) : Tile :=
  { t with reqs := t.reqs ++ [⟨t.nextId, t.nb, kind, ops, lanes, none⟩] }

/-- Length of a pending transfer's slot (05 R119). -/
def Spill.size (s : Spill) : Nat := s.regs.length * (if s.vfile then 144 else 8)

/-- An access overlaps the slot of a pending spill transfer (05 R122). -/
def spillClash (c : TCtx) (a : W64) (n : Nat) : Bool :=
  match ownOffset c.env.tid a with
  | some o => c.old.spill.any fun s => overlaps o n s.off s.size
  | none => false

/-- An AU operation of one access at T, with its alignment. -/
def auSpec (opc : BitVec 6) (e : Bool) (align : Nat) (kind : ReqKind) (place : Bool) (rtag : Tag) (len : Nat)
    (data : TCtx → BitVec 1120) : TrigSpec where
  sock := .au
  opc := opc
  e := e
  place := place
  check := fun c => require .au (c.t.lo.toNat % align == 0)
  lock := fun c => spillClash c c.t.lo len
  fire := fun c t =>
    let ops := c.ops .au opc
    (if place then t.takePlace 0 rtag ops else t).addReq kind ops [newLane 0 c.t.lo len (data c)]

/-! ### Loads and stores (19 R431, 20 R467) -/

/-- A scalar load of `n` bytes. -/
def ldSpec (opc : BitVec 6) (e : Bool) (n : Nat) (signed : Bool) : TrigSpec :=
  auSpec opc e n (.load n signed) true (if signed then .i64 else .ui64) n fun _ => 0

def ldBSpec (e : Bool) : TrigSpec := ldSpec 0x00 e 1 true
def ldHSpec (e : Bool) : TrigSpec := ldSpec 0x01 e 2 true
def ldWSpec (e : Bool) : TrigSpec := ldSpec 0x02 e 4 true
def ldDSpec (e : Bool) : TrigSpec := ldSpec 0x03 e 8 true
def ldBzSpec (e : Bool) : TrigSpec := ldSpec 0x04 e 1 false
def ldHzSpec (e : Bool) : TrigSpec := ldSpec 0x05 e 2 false
def ldWzSpec (e : Bool) : TrigSpec := ldSpec 0x06 e 4 false

/-- A scalar store of the low `n` bytes of O0[e]. -/
def stSpec (opc : BitVec 6) (e : Bool) (n : Nat) (kind : ReqKind) : TrigSpec :=
  auSpec opc e n kind false .raw n fun c => (c.o0.lo.toNat % 2 ^ (8 * n)) |> BitVec.ofNat 1120

def stBSpec (e : Bool) : TrigSpec := stSpec 0x08 e 1 .store
def stHSpec (e : Bool) : TrigSpec := stSpec 0x09 e 2 .store
def stWSpec (e : Bool) : TrigSpec := stSpec 0x0A e 4 .store
def stDSpec (e : Bool) : TrigSpec := stSpec 0x0B e 8 .store
def stDRelSpec (e : Bool) : TrigSpec := stSpec 0x0C e 8 .storeRel

/-- Size and alignment of a row in memory: 140 bytes at 256 for a BFM row (06 R139, 21 R485). -/
def rowSize (t : Tag) : Nat := if t.bfm.isSome then 140 else 128
def rowAlign (t : Tag) : Nat := if t.bfm.isSome then 256 else 128

/-- A tag code that is not reserved. -/
def tagCodeOk (c : Nat) : Bool := decide (c < 64) && ((Tag.ofCode (BitVec.ofNat 6 c)).code.toNat == c)

/-- VLD (21 R485). -/
def vldSpec (e : Bool) : TrigSpec where
  sock := .au
  opc := 0x10
  e := e
  place := true
  check := fun c =>
    let tag := Tag.ofCode (c.o0.lo.setWidth 6)
    require .au (tagCodeOk c.o0.lo.toNat && c.t.lo.toNat % rowAlign tag == 0)
  lock := fun c => spillClash c c.t.lo (rowSize (Tag.ofCode (c.o0.lo.setWidth 6)))
  fire := fun c t =>
    let tag := Tag.ofCode (c.o0.lo.setWidth 6)
    let ops := c.ops .au 0x10
    (t.takePlace 0 tag ops).addReq (.vload (rowSize tag) tag) ops [newLane 0 c.t.lo (rowSize tag) 0]

/-- The bytes VST stores: the data and, for a BFM row, its four scales. -/
def rowImage (x : Val) : BitVec 1120 := (x.side.setWidth 96 ++ x.row : BitVec 1120)

/-- VST (21 R494). -/
def vstSpec (e : Bool) : TrigSpec where
  sock := .au
  opc := 0x11
  e := e
  check := fun c => require .au (c.t.lo.toNat % rowAlign c.o1.tag == 0)
  lock := fun c => spillClash c c.t.lo (rowSize c.o1.tag)
  fire := fun c t =>
    let n := rowSize c.o1.tag
    t.addReq .store (c.ops .au 0x11) [newLane 0 c.t.lo n (BitVec.ofNat 1120 ((rowImage c.o1).toNat % 2 ^ (8 * n)))]

/-! ### GLD and SCT (19 R424, 20 R456) -/

/-- The lane width that a control word's TAG gives. -/
def gatherWidth (k : W64) : Option Nat :=
  match Tag.ofCode (k.setWidth 6) with
  | .i32 | .ui32 | .fp32 => some 32
  | .i64 | .ui64 | .fp64 => some 64
  | _ => none

/-- Lane `i`'s address. -/
def laneAddr (base k : W64) (ix : Val) (i : Nat) : W64 :=
  let x := BitVec.ofNat 32 (elem ix.row 32 i)
  base + ((if ix.tag = .i32 then x.signExtend 64 else x.setWidth 64) <<< bitsN k 8 4)

/-- The active lanes with their addresses. -/
def activeLanes (base k : W64) (ix : Val) : List (Nat × W64) :=
  (List.range (1024 / (gatherWidth k).getD 64)).filterMap fun i =>
    if k.getLsbD (32 + i) then some (i, laneAddr base k ix i) else none

def gatherCheck (c : TCtx) : Option Trap :=
  let k := c.o0.lo
  if !(c.o1.tag == .i32 || c.o1.tag == .ui32) then formatTrap .au c.o1.tag
  else
    match gatherWidth k with
    | none => invalid .au
    | some w =>
      require .au (decide (bitsN k 12 20 = 0) && decide (bitsN k 6 2 = 0) && decide (bitsN k 8 4 ≤ 6) &&
        decide (bitsN k 32 32 < 2 ^ (1024 / w)) &&
        (activeLanes c.t.lo k c.o1).all fun (_, a) => a.toNat % (w / 8) == 0)

def gatherLock (c : TCtx) : Bool :=
  (activeLanes c.t.lo c.o0.lo c.o1).any fun (_, a) => spillClash c a ((gatherWidth c.o0.lo).getD 64 / 8)

def gldSpec (e : Bool) : TrigSpec where
  sock := .au
  opc := 0x12
  e := e
  place := true
  check := gatherCheck
  lock := gatherLock
  fire := fun c t =>
    let k := c.o0.lo
    let tag := Tag.ofCode (k.setWidth 6)
    let ops := c.ops .au 0x12
    (t.takePlace 0 tag ops).addReq (.gload tag) ops
      ((activeLanes c.t.lo k c.o1).map fun (i, a) => newLane i a ((gatherWidth k).getD 64 / 8) 0)

def sctSpec (e : Bool) : TrigSpec where
  sock := .au
  opc := 0x13
  e := e
  check := gatherCheck
  lock := gatherLock
  fire := fun c t =>
    let k := c.o0.lo
    let w := (gatherWidth k).getD 64
    let d := vget .zero c.opnd (opndIdx .au 1 (!c.e))
    let lanes := (activeLanes c.t.lo k c.o1).map fun (i, a) => newLane i a (w / 8) (BitVec.ofNat 1120 (elem d.row w i))
    if lanes.isEmpty then t else t.addReq .store (c.ops .au 0x13) lanes

/-! ### Atomics (18 R390 to R392) -/

/-- An AMO: signedness of MIN and MAX in O1[e]. -/
def amoSpec (opc : BitVec 6) (e : Bool) (op : AmoOp) (ord : AmoOrd) : TrigSpec where
  sock := .au
  opc := opc
  e := e
  place := true
  check := fun c =>
    require .au (c.t.lo.toNat % 8 == 0 && (!(op == .min || op == .max) || decide (c.o1.lo.toNat < 2)))
  lock := fun c => spillClash c c.t.lo 8
  fire := fun c t =>
    let ops := c.ops .au opc
    (t.takePlace 0 .raw ops).addReq (.amo op ord) ops [newLane 0 c.t.lo 8 0]

def amoAddSpec (e : Bool) : TrigSpec := amoSpec 0x20 e .add .relaxed
def amoMinSpec (e : Bool) : TrigSpec := amoSpec 0x21 e .min .relaxed
def amoMaxSpec (e : Bool) : TrigSpec := amoSpec 0x22 e .max .relaxed
def amoAndSpec (e : Bool) : TrigSpec := amoSpec 0x23 e .and .relaxed
def amoOrSpec (e : Bool) : TrigSpec := amoSpec 0x24 e .or .relaxed
def amoXorSpec (e : Bool) : TrigSpec := amoSpec 0x25 e .xor .relaxed
def amoXchgSpec (e : Bool) : TrigSpec := amoSpec 0x26 e .xchg .relaxed
def amoCasSpec (e : Bool) : TrigSpec := amoSpec 0x27 e .cas .relaxed
def amoAddAcqSpec (e : Bool) : TrigSpec := amoSpec 0x28 e .add .acq
def amoMinAcqSpec (e : Bool) : TrigSpec := amoSpec 0x29 e .min .acq
def amoMaxAcqSpec (e : Bool) : TrigSpec := amoSpec 0x2A e .max .acq
def amoAndAcqSpec (e : Bool) : TrigSpec := amoSpec 0x2B e .and .acq
def amoOrAcqSpec (e : Bool) : TrigSpec := amoSpec 0x2C e .or .acq
def amoXorAcqSpec (e : Bool) : TrigSpec := amoSpec 0x2D e .xor .acq
def amoXchgAcqSpec (e : Bool) : TrigSpec := amoSpec 0x2E e .xchg .acq
def amoCasAcqSpec (e : Bool) : TrigSpec := amoSpec 0x2F e .cas .acq
def amoAddRelSpec (e : Bool) : TrigSpec := amoSpec 0x30 e .add .rel
def amoMinRelSpec (e : Bool) : TrigSpec := amoSpec 0x31 e .min .rel
def amoMaxRelSpec (e : Bool) : TrigSpec := amoSpec 0x32 e .max .rel
def amoAndRelSpec (e : Bool) : TrigSpec := amoSpec 0x33 e .and .rel
def amoOrRelSpec (e : Bool) : TrigSpec := amoSpec 0x34 e .or .rel
def amoXorRelSpec (e : Bool) : TrigSpec := amoSpec 0x35 e .xor .rel
def amoXchgRelSpec (e : Bool) : TrigSpec := amoSpec 0x36 e .xchg .rel
def amoCasRelSpec (e : Bool) : TrigSpec := amoSpec 0x37 e .cas .rel

/-! ### Tickets (11 R243) -/

def ldtSpec (e : Bool) : TrigSpec :=
  { auSpec 0x18 e 8 (.ldt false) true .raw 8 (fun _ => 0) with lock := fun _ => false }
def ldtVSpec (e : Bool) : TrigSpec :=
  { auSpec 0x19 e 128 (.ldt true) true .raw 128 (fun _ => 0) with lock := fun _ => false }

/-- A request that names a ticket and makes no access of its own. -/
def ticketSpec (opc : BitVec 6) (e : Bool) (check : TCtx → Option Trap) (kind : TCtx → ReqKind) : TrigSpec where
  sock := .au
  opc := opc
  e := e
  place := true
  check := check
  fire := fun c t =>
    let ops := c.ops .au opc
    (t.takePlace 0 .raw ops).addReq (kind c) ops []

/-- RDM's O0[e]: NONE or an integer or FP tag code. -/
def rdmTagOk (x : W64) : Bool :=
  let t := Tag.ofCode (x.setWidth 6)
  tagCodeOk x.toNat && (t == .raw || t.isInt || t.isFp)

def rdmSpec (e : Bool) : TrigSpec := ticketSpec 0x1A e (fun c => require .au (rdmTagOk c.o0.lo)) fun _ => .rdm

/-- RDM.S. A range beyond the task's scratchpad faults on the result, and no request leaves the tile (11 R250). -/
def rdmSSpec (e : Bool) : TrigSpec :=
  ticketSpec 0x1B e (fun c => require .au (c.o0.lo.toNat % 128 == 0 && decide (c.o0.lo.toNat < 0x40000)))
    fun c => .rdmS c.o0.lo.toNat

def tkqSpec (e : Bool) : TrigSpec := ticketSpec 0x1C e (fun _ => none) fun _ => .tkq
def tkxSpec (e : Bool) : TrigSpec := ticketSpec 0x1D e (fun _ => none) fun _ => .tkx

/-! ### PREF and LOC (20 R449, 19 R434) -/

def prefSpec (e : Bool) : TrigSpec :=
  { auSpec 0x38 e 1 .pref false .raw 1 (fun _ => 0) with lock := fun _ => false }
def locSpec (e : Bool) : TrigSpec :=
  { auSpec 0x3B e 1 .loc true .raw 1 (fun _ => 0) with lock := fun _ => false }

/-! ### Spill and fill (05 R116 to R124) -/

/-- A descriptor's fields: offset, file, count, first. -/
def spillOff (d : W64) : Nat := bitsN d 32 18
def spillV (d : W64) : Bool := d.getLsbD 16
def spillCount (d : W64) : Nat := bitsN d 8 6 + 1
def spillFirst (d : W64) : Nat := bitsN d 0 6

/-- The conditions of 05 R117. -/
def spillOk (d : W64) : Bool :=
  decide (d &&& ~~~0x0003FFFF00013F3F = 0) &&
    (if spillV d then
      decide (spillFirst d + spillCount d ≤ 32) && spillOff d % 16 == 0 &&
        decide (spillOff d + 144 * spillCount d ≤ 0x40000)
    else
      decide (spillFirst d + spillCount d ≤ 64) && spillOff d % 8 == 0 &&
        decide (spillOff d + 8 * spillCount d ≤ 0x40000))

/-- The physical registers of a descriptor, resolved before the bundle (05 R118). -/
def spillRegs (old : Tile) (d : W64) : List (Option Nat) :=
  (List.range (spillCount d)).map fun i =>
    if spillV d then some (spillFirst d + i) else old.gReach (BitVec.ofNat 6 (spillFirst d + i))

/-- A register's value as a record; a g register in its low 64 bits. -/
def Tile.regRecord (t : Tile) (vfile : Bool) (k : Nat) : BitVec 1152 :=
  if vfile then (vget .zero t.v k).record else (vget 0 t.g k).setWidth 1152

/-- A transfer entered at the tail of the engine's queue; a failed fill of its registers ends (05 R123). Of a register whose fill
is still pending a spill stores the filled value (log 88). -/
def spillFire (fill : Bool) (c : TCtx) (t : Tile) : Tile :=
  let d := c.t.lo
  let vf := spillV d
  let regs := spillRegs c.old d
  let vals := regs.map fun r =>
    match r with
    | some k => if fill || t.token true vf k then none else some (t.regRecord vf k)
    | none => none
  { t with
    spill := t.spill ++ [⟨t.nextId, fill, vf, spillOff d, regs, vals, 0, false⟩]
    failed := t.failed.filter fun (f, k, _) => !(f == vf && regs.contains (some k)) }

def spillSpec (opc : BitVec 6) (e : Bool) (fill : Bool) : TrigSpec where
  sock := .au
  opc := opc
  e := e
  check := fun c => require .au (spillOk c.t.lo)
  lock := fun c => decide (4 ≤ c.old.spill.length)
  fire := spillFire fill

def spbSpec (e : Bool) : TrigSpec := spillSpec 0x39 e false
def flaSpec (e : Bool) : TrigSpec := spillSpec 0x3A e true

/-- A physical g register stands at a dead position now (05 R103). -/
def Tile.deadNow (t : Tile) (k : Nat) : Bool := decide (32 ≤ k) && decide (t.ld ≤ Tile.gPos t.rrb k)

/-- A register takes a filled value. A reserved tag code is stored as NONE (19 R421); a register that has come to a dead
position stays zero (05 R103). -/
def Tile.fillReg (t : Tile) (vfile : Bool) (k : Nat) (x : BitVec 1152) : Tile :=
  if vfile then { t with v := vput t.v k (VReg.ofRecord x) }
  else if t.deadNow k then t
  else { t with g := vput t.g k (x.setWidth 64) }

/-- The head transfer ends and frees its place (05 R120). -/
def Tile.spillDone (t : Tile) : Tile :=
  match t.spill with
  | s :: rest => if s.regs.length ≤ s.pos then { t with spill := rest } else t
  | [] => t

/-- The engine has read or written the register: a fault state that an earlier fill left on it is over (05 R123). -/
def Tile.unfail (t : Tile) (vfile : Bool) (r : Option Nat) : Tile :=
  match r with
  | some k => { t with failed := t.failed.filter fun (f, j, _) => !(f == vfile && j == k) }
  | none => t

/-- One register of a transfer moved. -/
def Tile.spillMove (t : Tile) (s : Spill) (rest : List Spill) : Tile :=
  let n := if s.vfile then 144 else 8
  let off := s.off + n * s.pos
  let next := { s with pos := s.pos + 1, half := false }
  let r := (s.regs[s.pos]?).getD none
  if s.fill then
    if t.spmBad off n then
      { t with
        spill := rest
        failed := t.failed ++ s.left.filterMap fun x => x.map fun k => (s.vfile, k, off) }
    else
      let u := { t.unfail s.vfile r with spill := next :: rest }
      match r with
      | some k => u.fillReg s.vfile k (BitVec.ofNat 1152 (t.spm.value off n))
      | none => u
  else
    let x : BitVec 1152 :=
      match r with
      | some k => ((s.vals[s.pos]?).getD none).getD (t.regRecord s.vfile k)
      | none => 0
    { (t.unfail s.vfile r).spmStore off n x with spill := next :: rest }

/-- One cycle of the spill engine (05 R120): a transfer that has ended leaves; the head moves one g register, or half a
v register. -/
def Tile.spillCycle (t : Tile) : Tile :=
  let t := t.spillDone
  match t.spill with
  | [] => t
  | s :: rest => if s.vfile && !s.half then { t with spill := { s with half := true } :: rest } else t.spillMove s rest

end Sys2Proof.Machine
end

