-- ==== Sys2Proof/Machine/Alu.lean ====
section
/-! DEFINITION. The scalar integer operations: IA0 and IA1 (18 R388, 20 R438) and IM (19 R411, 20 R436). -/
namespace Sys2Proof.Machine

/-! ### IA -/

/-- The unit an IA trigger names. -/
def iaSock (u : Bool) : Sock := if u then .ia1 else .ia0

/-- An IA operation on O0[e], O1[e] and T: one bundle, no tag, no flag (18 R388). -/
def iaSpec (u : Bool) (opc : BitVec 6) (e : Bool) (f : W64 → W64 → W64 → W64) : TrigSpec :=
  fixedSpec (iaSock u) opc e 1 (fun _ => none) fun c => (.ofScalar (f c.o0.lo c.o1.lo c.t.lo), 0)

def addSpec (u e : Bool) : TrigSpec := iaSpec u 0x00 e fun a _ t => a + t
def subSpec (u e : Bool) : TrigSpec := iaSpec u 0x01 e fun a _ t => a - t
def andSpec (u e : Bool) : TrigSpec := iaSpec u 0x02 e fun a _ t => a &&& t
def andnSpec (u e : Bool) : TrigSpec := iaSpec u 0x03 e fun a _ t => a &&& ~~~t
def orSpec (u e : Bool) : TrigSpec := iaSpec u 0x04 e fun a _ t => a ||| t
def xorSpec (u e : Bool) : TrigSpec := iaSpec u 0x05 e fun a _ t => a ^^^ t

/-- The shift or rotate count T[5:0] (06 R129). -/
def shiftCount (t : W64) : Nat := bitsN t 0 6

def shlSpec (u e : Bool) : TrigSpec := iaSpec u 0x06 e fun a _ t => a <<< shiftCount t
def shrSpec (u e : Bool) : TrigSpec := iaSpec u 0x07 e fun a _ t => a >>> shiftCount t
def sarSpec (u e : Bool) : TrigSpec := iaSpec u 0x08 e fun a _ t => a.sshiftRight (shiftCount t)
/-- ROL (20 R454). -/
def rolSpec (u e : Bool) : TrigSpec :=
  iaSpec u 0x09 e fun a _ t => (a <<< shiftCount t) ||| (a >>> (64 - shiftCount t))
/-- MIN to MAX.U (20 R438). -/
def minSpec (u e : Bool) : TrigSpec := iaSpec u 0x0A e fun a _ t => if a.sle t then a else t
def minUSpec (u e : Bool) : TrigSpec := iaSpec u 0x0B e fun a _ t => if a.ule t then a else t
def maxSpec (u e : Bool) : TrigSpec := iaSpec u 0x0C e fun a _ t => if t.sle a then a else t
def maxUSpec (u e : Bool) : TrigSpec := iaSpec u 0x0D e fun a _ t => if t.ule a then a else t
/-- The CMP conditions (18 R403). -/
def cmpEqSpec (u e : Bool) : TrigSpec := iaSpec u 0x10 e fun a _ t => boolW (a == t)
def cmpNeSpec (u e : Bool) : TrigSpec := iaSpec u 0x11 e fun a _ t => boolW (a != t)
def cmpLtSpec (u e : Bool) : TrigSpec := iaSpec u 0x12 e fun a _ t => boolW (a.slt t)
def cmpLeSpec (u e : Bool) : TrigSpec := iaSpec u 0x13 e fun a _ t => boolW (a.sle t)
def cmpLtuSpec (u e : Bool) : TrigSpec := iaSpec u 0x14 e fun a _ t => boolW (a.ult t)
def cmpLeuSpec (u e : Bool) : TrigSpec := iaSpec u 0x15 e fun a _ t => boolW (a.ule t)
/-- SEL (20 R459). -/
def selSpec (u e : Bool) : TrigSpec := iaSpec u 0x18 e fun a b t => if t.getLsbD 0 then a else b

/-- Leading zeros counted from bit 63 (18 R402). -/
def leadingZeros (x : W64) : Nat := if x = 0 then 64 else 63 - Nat.log2 x.toNat

def clzSpec (u e : Bool) : TrigSpec := iaSpec u 0x19 e fun _ _ t => BitVec.ofNat 64 (leadingZeros t)

/-- The number of 1 bits (20 R448). -/
def onesCount (x : W64) : Nat := (List.range 64).foldl (fun n i => if x.getLsbD i then n + 1 else n) 0

def popcSpec (u e : Bool) : TrigSpec := iaSpec u 0x1A e fun _ _ t => BitVec.ofNat 64 (onesCount t)

/-- The effective length of a field that T describes (18 R398). -/
def fieldLen (t : W64) : Nat := min (bitsN t 8 7) (64 - bitsN t 0 6)

/-- The low `n` bits of `x` sign-extended to 64 bits. -/
def signExtendLow (n : Nat) (x : W64) : W64 :=
  if n = 0 then 0 else (x <<< (64 - min n 64)).sshiftRight (64 - min n 64)

/-- BEXT (18 R398). -/
def bitExtract (a t : W64) : W64 :=
  let n := fieldLen t
  let f := BitVec.ofNat 64 ((a.toNat >>> bitsN t 0 6) % 2 ^ n)
  if t.getLsbD 15 then signExtendLow n f else f

/-- BINS (18 R399). -/
def bitInsert (a b t : W64) : W64 :=
  let m := BitVec.ofNat 64 ((2 ^ fieldLen t - 1) <<< bitsN t 0 6)
  (a &&& ~~~m) ||| ((b <<< bitsN t 0 6) &&& m)

def bextSpec (u e : Bool) : TrigSpec := iaSpec u 0x1B e fun a _ t => bitExtract a t
def binsSpec (u e : Bool) : TrigSpec := iaSpec u 0x1C e fun a b t => bitInsert a b t
/-- SEXT (20 R461). -/
def sextSpec (u e : Bool) : TrigSpec := iaSpec u 0x1D e fun a _ t => signExtendLow (bitsN a 0 7) t
/-- PAND, POR and PXOR (20 R446). -/
def pandSpec (u e : Bool) : TrigSpec := iaSpec u 0x20 e fun a _ t => boolW (a != 0 && t != 0)
def porSpec (u e : Bool) : TrigSpec := iaSpec u 0x21 e fun a _ t => boolW (a != 0 || t != 0)
def pxorSpec (u e : Bool) : TrigSpec := iaSpec u 0x22 e fun a _ t => boolW ((a != 0) != (t != 0))

/-! ### IM -/

/-- An IM operation on O0[e], O1[e] and T (20 R436). -/
def imSpec (opc : BitVec 6) (e : Bool) (lat : Nat) (f : W64 → W64 → W64 → W64) : TrigSpec :=
  fixedSpec .im opc e lat (fun _ => none) fun c => (.ofScalar (f c.o0.lo c.o1.lo c.t.lo), 0)

/-- The upper half of the 128-bit product (20 R443). -/
def mulHigh (signed : Bool) (a b : W64) : W64 :=
  if signed then (a.signExtend 128 * b.signExtend 128).extractLsb' 64 64
  else (a.setWidth 128 * b.setWidth 128).extractLsb' 64 64

/-- DIV and DIV.U: towards zero; all ones for a zero divisor (19 R411). -/
def divide (signed : Bool) (a b : W64) : W64 :=
  if b = 0 then BitVec.allOnes 64 else if signed then a.sdiv b else a / b

/-- REM and REM.U: the dividend for a zero divisor (20 R452). -/
def remainder (signed : Bool) (a b : W64) : W64 :=
  if b = 0 then a else if signed then a.srem b else a % b

def mulSpec (e : Bool) : TrigSpec := imSpec 0 e 3 fun a _ t => a * t
def mulhSpec (e : Bool) : TrigSpec := imSpec 1 e 3 fun a _ t => mulHigh true a t
def mulhUSpec (e : Bool) : TrigSpec := imSpec 2 e 3 fun a _ t => mulHigh false a t
/-- MAD (20 R437). -/
def madSpec (e : Bool) : TrigSpec := imSpec 3 e 4 fun a b t => a * b + t
def divSpec (e : Bool) : TrigSpec := imSpec 4 e 18 fun a _ t => divide true a t
def divUSpec (e : Bool) : TrigSpec := imSpec 5 e 18 fun a _ t => divide false a t
def remSpec (e : Bool) : TrigSpec := imSpec 6 e 18 fun a _ t => remainder true a t
def remUSpec (e : Bool) : TrigSpec := imSpec 7 e 18 fun a _ t => remainder false a t

end Sys2Proof.Machine
end

