-- ==== Sys2Proof/Machine/Window.lean ====
section
/-! DEFINITION. The tile window of the on-chip physical map (09 R193, R194): its blocks read and written in doubles, and
the result records and run state of 15 R351 to R353. -/
namespace Sys2Proof.Machine

/-! ### Parts of records -/

/-- Double `k` of a value. -/
def chunk {w : Nat} (x : BitVec w) (k : Nat) : W64 := x.extractLsb' (64 * k) 64

/-- Double `k` of a value replaced. -/
def setChunk {w : Nat} (x : BitVec w) (k : Nat) (d : W64) : BitVec w :=
  (x &&& ~~~(BitVec.ofNat w ((2 ^ 64 - 1) <<< (64 * k)))) ||| BitVec.ofNat w (d.toNat <<< (64 * k))

/-- What an operand entry holds in the map. -/
inductive EntryKind where
  | scalar | row | mx | absent
  deriving DecidableEq, Repr

/-- The kind of operand entry of socket number `s`, port `p` (02 R30). -/
def entryKind (s p : Nat) : EntryKind :=
  if s = 14 then .mx
  else if s = 4 ∧ p = 1 then .row
  else if s = 0 then (if p = 0 then .scalar else .absent)
  else if s < 15 ∧ p < 2 then (if s = 8 ∨ s = 9 ∨ s = 10 ∨ s = 11 ∨ s = 13 then .row else .scalar)
  else .absent

/-- A row record as a number: 288 bytes. -/
def Val.rowBits (x : Val) : BitVec 2304 := BitVec.ofNat 2304 (ofBytes x.rowRecord)
def Val.ofRowBits (x : BitVec 2304) : Val := Val.ofRowRecord (bytesOf 288 x)

/-- Double `k` of an operand entry. -/
def entryDouble (kd : EntryKind) (x : Val) (k : Nat) : W64 :=
  match kd with
  | .scalar => if k = 0 then x.lo else 0
  | .row => if k < 18 then chunk x.vreg.record k else 0
  | .mx => if k < 36 then chunk x.rowBits k else 0
  | .absent => 0

def entrySetDouble (kd : EntryKind) (x : Val) (k : Nat) (d : W64) : Val :=
  match kd with
  | .scalar => if k = 0 then .ofScalar d else x
  | .row => if k < 18 then (VReg.ofRecord (setChunk x.vreg.record k d)).val else x
  | .mx => if k < 36 then Val.ofRowBits (setChunk x.rowBits k d) else x
  | .absent => x

/-! ### The write log (10 R213) -/

/-- The byte a history gives: its last store's. -/
def histByte (h : List LogStore) (n : Nat) : Option Byte :=
  h.foldl (fun r s => if s.mask.getLsbD n then some (s.data.extractLsb' (8 * n) 8) else r) none

def histMask (h : List LogStore) : BitVec 8 := h.foldl (fun m s => m ||| s.mask) 0

def histData (h : List LogStore) : W64 :=
  BitVec.ofNat 64 (ofBytes ((List.range 8).map fun n => (histByte h n).getD 0))

/-- A tag word: V, MASK, PA. -/
def logTag (mask : BitVec 8) (dbl : Nat) : W64 := BitVec.ofNat 64 (2 ^ 63 + mask.toNat <<< 55 + dbl <<< 3)

def Tile.logAt (t : Tile) (k : Nat) : Option LogEnt := t.log.find? (·.idx == k)

/-! ### Result records (15 R351, R352) -/

/-- What a record shows. -/
structure Rec where
  v : Bool
  val : Val
  fl : Flags
  off : Nat
  code : BitVec 8
  rt : Bool
  hp : Bool
  fault : Bool
  ready : Bool
  unread : Bool
  opc : BitVec 6
  faddr : W64
  retrig : Option Opnds
  deriving DecidableEq, Repr

def Rec.blank : Rec := ⟨false, .zero, 0, 0, 0, false, false, false, false, false, 0, 0, none⟩

def Rec.state (r : Rec) : W64 :=
  if r.v then
    (1#1 ++ r.fl ++ BitVec.ofNat 16 r.off ++ r.code ++ 0#5 ++ BitVec.ofBool r.rt ++ BitVec.ofBool r.hp ++
      BitVec.ofBool r.fault ++ BitVec.ofBool r.ready ++ BitVec.ofBool r.unread ++ 0#8 ++ r.opc ++ 0#2 ++ r.val.tag.code
      : BitVec 64)
  else 0

def Port.shown (p : Port) : Rec :=
  { Rec.blank with
    v := p.full, val := p.val, fl := p.fl, unread := p.unread, opc := p.opc, code := p.rep.code, fault := p.flt
    faddr := p.rep.addr }
def Flight.shown (f : Flight) : Rec :=
  { Rec.blank with
    v := true, val := f.val, fl := f.fl, off := f.due, unread := f.unread, opc := f.opc, code := f.rep.code
    fault := f.flt, faddr := f.rep.addr }
def Place.shown (p : Place) : Rec :=
  ⟨true, p.val, p.fl, 0, p.rep.code, p.rt, p.hp, p.flt, p.ready, false, p.ops.opc, p.rep.addr,
    if p.rt then some p.ops else none⟩

/-- The shadows of a fixed-latency socket while INH is 1: what trap entry captured; of MX, which it only freezes, the results in
flight by their offsets (12 R279, 15 R341, log 107). -/
def Tile.shadowsOf (t : Tile) (i : Nat) : List Flight :=
  let f := t.fixedAt i
  if i = 8 then f.pipe.map fun x => { x with due := x.due - t.mxNow } else f.shadows

/-- Record `k` of a fixed-latency socket: its live port, and while INH is 1 what trap entry captured. -/
def Tile.fixedRec (t : Tile) (i k : Nat) : Rec :=
  let f := t.fixedAt i
  if k = 0 then f.port.shown
  else if !t.inh then .blank
  else if k = 1 then (f.shPort.getD .empty).shown
  else match (t.shadowsOf i)[k - 2]? with
    | some x => x.shown
    | none => .blank

/-- A record's home: a fixed-latency socket's or a queue's, with the record number. -/
inductive RecAt where
  | fixed (i k : Nat) | place (q k : Nat)
  deriving DecidableEq, Repr

/-- The areas of the result block: base, limit, record size, and which results they hold. -/
def recAreas : List (Nat × Nat × Nat × Bool × Nat) :=
  [(0x0000, 0x0400, 256, true, 0), (0x0400, 0x0800, 256, true, 1), (0x0800, 0x0C00, 256, true, 2),
   (0x0C00, 0x2000, 256, true, 3), (0x2000, 0x4000, 256, false, 0), (0x4000, 0x4400, 256, false, 1),
   (0x4400, 0x4C00, 256, false, 2), (0x4C00, 0x5400, 256, false, 3), (0x5400, 0x5C00, 256, true, 4),
   (0x5C00, 0x6400, 256, true, 5), (0x6400, 0x6C00, 256, true, 6), (0x6C00, 0x7800, 256, true, 7),
   (0x7800, 0x7C00, 256, false, 4), (0x7C00, 0x8000, 256, false, 5), (0x8000, 0x8800, 256, false, 6),
   (0x9000, 0xB000, 512, true, 8)]

/-- Which record an offset in the result block lies in, and the double within it. -/
def recAt (o : Nat) : Option (RecAt × Nat) :=
  (recAreas.find? fun (b, l, _, _, _) => decide (b ≤ o) && decide (o < l)).map fun (b, _, n, fx, i) =>
    (if fx then .fixed i ((o - b) / n) else .place i ((o - b) / n), (o - b) % n / 8)

def Tile.recOf (t : Tile) : RecAt → Rec
  | .fixed i k => t.fixedRec i k
  | .place q k => match (t.queue q)[k]? with
    | some p => p.shown
    | none => .blank

def RecAt.isMx : RecAt → Bool
  | .fixed 8 _ => true
  | _ => false

/-- Double `k` of a record. -/
def Rec.double (r : Rec) (mx : Bool) (k : Nat) : W64 :=
  let nd := if mx then 32 else 16
  let ns := if mx then 4 else 2
  if k < nd then chunk r.val.data k
  else if k < nd + ns then
    (if k = nd + 1 && !mx then (chunk r.val.side 1) &&& 0xFFFFFFFF
     else if k < nd + 3 then chunk r.val.side (k - nd) else 0)
  else if k = nd + ns then r.state
  else if k = nd + ns + 1 then r.faddr
  else
    match r.retrig with
    | none => 0
    | some o =>
      if mx then 0
      else match k with
        | 20 => o.t.lo | 21 => o.e00 | 22 => o.e01 | 23 => o.e10 | 24 => o.e11
        | 25 => BitVec.ofNat 64 ((if o.e then 64 else 0) + o.opc.toNat)
        | _ => 0

/-- A value with double `k` of its record replaced; STATE's TAG field too. -/
def Val.setRecDouble (x : Val) (mx : Bool) (k : Nat) (d : W64) : Val :=
  let nd := if mx then 32 else 16
  let ns := if mx then 4 else 2
  if k < nd then { x with data := setChunk x.data k d }
  else if k < nd + ns then
    (if k = nd + 1 && !mx then
      { x with side := setChunk x.side 1 ((chunk x.side 1 &&& 0xFFFFFFFF00000000) ||| (d &&& 0xFFFFFFFF)) }
     else if k < nd + 3 then { x with side := setChunk x.side (k - nd) d } else x)
  else if k = nd + ns then { x with tag := Tag.ofCode (d.setWidth 6) }
  else x

/-- Whether double `k` is STATE, or FADDR. -/
def isState (mx : Bool) (k : Nat) : Bool := k == (if mx then 36 else 18)
def isFaddr (mx : Bool) (k : Nat) : Bool := k == (if mx then 37 else 19)

/-- CODE and FADDR written. -/
def FaultRep.put (r : FaultRep) (mx : Bool) (k : Nat) (d : W64) : FaultRep :=
  if isState mx k then { r with code := d.extractLsb' 32 8 } else if isFaddr mx k then { r with addr := d } else r

/-- A write of a port record (15 R352): ignored while no result stands there. -/
def Port.put (p : Port) (mx : Bool) (k : Nat) (d : W64) : Port :=
  if !p.full then p
  else
    { p with
      val := p.val.setRecDouble mx k d
      fl := if isState mx k then d.extractLsb' 56 7 else p.fl
      flt := if isState mx k then d.getLsbD 24 else p.flt
      rep := p.rep.put mx k d
      unread := if isState mx k then d.getLsbD 22 else p.unread }

def Flight.put (f : Flight) (mx : Bool) (k : Nat) (d : W64) : Flight :=
  { f with
    val := f.val.setRecDouble mx k d
    fl := if isState mx k then d.extractLsb' 56 7 else f.fl
    unread := if isState mx k then d.getLsbD 22 else f.unread
    flt := if isState mx k then d.getLsbD 24 else f.flt
    rep := f.rep.put mx k d
    due := if isState mx k then bitsN d 40 16 else f.due }

def Place.put (p : Place) (k : Nat) (d : W64) : Place :=
  if !p.ready then p
  else
    { p with
      val := p.val.setRecDouble false k d
      fl := if isState false k then d.extractLsb' 56 7 else p.fl
      flt := if isState false k then d.getLsbD 24 else p.flt
      rep := p.rep.put false k d }

/-- A list with element `k` changed. -/
def modAt {α : Type} (f : α → α) : Nat → List α → List α
  | _, [] => []
  | 0, x :: xs => f x :: xs
  | n + 1, x :: xs => x :: modAt f n xs

def Tile.recPut (t : Tile) (a : RecAt) (k : Nat) (d : W64) : Tile :=
  match a with
  | .place q n => t.setQueue q (modAt (fun p => p.put k d) n (t.queue q))
  | .fixed i 0 => let f := t.fixedAt i; t.setFixed i { f with port := f.port.put (i == 8) k d }
  | .fixed i (n + 1) =>
    if !t.inh then t
    else
      let f := t.fixedAt i
      let mx := i == 8
      if n = 0 then t.setFixed i { f with shPort := f.shPort.map fun p => p.put mx k d }
      else
        let xs := modAt (fun x => x.put mx k d) (n - 1) (t.shadowsOf i)
        t.setFixed i (if mx then { f with pipe := xs.map fun x => { x with due := x.due + t.mxNow } } else { f with shadows := xs })

/-! ### Inbox block (13 R307) -/

/-- The messages in the inbox, the one that `inbox` reads are taking first. -/
def Tile.inboxAll (t : Tile) : List Msg :=
  (match t.taking with
    | some (m, _) => [m]
    | none => []) ++ t.inbox

def CBuf.counts (b : CBuf) : W64 :=
  BitVec.ofNat 64 (b.free <<< 24 + b.filled <<< 16 + b.taken <<< 8 + b.inflight)

def Tile.inboxDouble (t : Tile) (o : Nat) : W64 :=
  if o < 0x2000 then
    match (t.inboxAll)[o / 128]? with
    | some m => (m.all[o % 128 / 8]?).getD 0
    | none => 0
  else if o = 0x2000 then BitVec.ofNat 64 ((min t.disc 0xFFFF) <<< 48 + t.inboxAll.length)
  else if 0x3000 ≤ o ∧ o < 0x3040 then
    let b := vget .empty t.cbufs ((o - 0x3000) / 16)
    if o % 16 = 0 then b.counts else b.desc
  else 0

/-! ### Control and run state (15 R353) -/

/-- STATE of RUN, given the lock conditions that hold. -/
def Tile.runState (t : Tile) (lock : BitVec 6) : Nat :=
  match t.run with
  | .idle => 0
  | .running => if t.stopReq then 4 else if lock = 0 then 1 else 2
  | .parked => 3 | .stopping => 4 | .draining => 5 | .quarantined => 6

/-- Cycles left of a running SLNS interval or of a consumed WAIT bound. -/
def Tile.slrem (t : Tile) : Nat :=
  if t.slns ≠ 0 ∨ t.slnsH ≠ 0 then max t.slns t.slnsH
  else match t.waits.find? fun w => w.bound.isSome with
    | some w => w.bound.getD 0
    | none => 0

def Tile.loopD (t : Tile) : Nat := (List.range 4).foldl (fun n i => if lcActive t.lc i then n + 1 else n) 0

def Tile.controlDouble (t : Tile) (lock : BitVec 6) (o : Nat) : W64 :=
  let n : Nat :=
    match o with
    | 0x1000 => t.runState lock + (if t.inh then 256 else 0) + lock.toNat <<< 16
    | 0x1008 => t.loopD
    | 0x1010 => t.barCount.toNat + (if t.arr then 2 ^ 32 else 0) + (if t.rel then 2 ^ 33 else 0)
    | 0x1018 => t.img
    | 0x1020 => match t.twb with
      | some b => 2 ^ 63 + b % 2 ^ 63
      | none => 0
    | 0x1028 => t.slrem
    | 0x1030 => (if t.sf.cm then 1 else 0) + t.sf.gen.toNat <<< 32
    | 0x1038 => t.spill.length
    | 0x1060 => t.mx.rp % 2 ^ 18 + (t.mx.wp % 2 ^ 18) <<< 32 + t.mx.cursor <<< 56
    | 0x1068 => t.mx.queue.length
    | 0x1070 => t.cyc
    | _ =>
      if 0x1040 ≤ o ∧ o < 0x1060 then (chunk t.dirty ((o - 0x1040) / 8)).toNat
      else if 0x1100 ≤ o ∧ o < 0x1130 then (t.strmAt ((o - 0x1100) / 8)).bind.toNat
      else if 0x1140 ≤ o ∧ o < 0x1170 then
        let s := t.strmAt ((o - 0x1140) / 8)
        s.rows.length + s.asm.length <<< 16
      else 0
  BitVec.ofNat 64 n

/-! ### The window -/

/-- An offset of the tile window lies in a block (09 R193). -/
def winDefined (o : Nat) : Bool :=
  decide (o < 0x68000) || (decide (0x70000 ≤ o) && decide (o < 0x70200)) ||
    (decide (0x71000 ≤ o) && decide (o < 0x72200)) || (decide (0x74000 ≤ o) && decide (o < 0x74048)) ||
    (decide (0x75000 ≤ o) && decide (o < 0x750E0)) || (decide (0x80000 ≤ o) && decide (o < 0x90000)) ||
    (decide (0x90000 ≤ o) && decide (o < 0xA0000) && (recAt (o - 0x90000)).isSome) ||
    (decide (0xA0000 ≤ o) && decide (o < 0xB0020)) || (decide (0xB1000 ≤ o) && decide (o < 0xB2000))

/-- The double at an aligned offset of a block past the instruction memory. -/
def Tile.winRead (env : Env) (t : Tile) (lock : BitVec 6) (o : Nat) : W64 :=
  if o < 0x50000 then 0
  else if o < 0x58000 then
    match t.logAt ((o - 0x50000) / 8) with
    | some x => histData x.hist
    | none => 0
  else if o < 0x60000 then
    match t.logAt ((o - 0x58000) / 8) with
    | some x => logTag (histMask x.hist) x.dbl
    | none => 0
  else if o < 0x68000 then
    let d := (o - 0x60000) / 8
    vget 0 (vget (Vector.replicate 32 0) t.mx.acc (d / 32)) (d % 32)
  else if o < 0x70200 then vget 0 t.g ((o - 0x70000) / 8)
  else if o < 0x72200 then
    chunk (vget .zero t.v ((o - 0x71000) / 144)).record ((o - 0x71000) % 144 / 8)
  else if o < 0x74048 then
    if o = 0x74000 then t.p.setWidth 64 else vget 0 t.q ((o - 0x74008) / 8)
  else if o < 0x750E0 then
    match SReg.ofNum (BitVec.ofNat 9 ((o - 0x75000) / 8)) with
    | some r => t.sregRead env r
    | none => 0
  else if o < 0x90000 then
    let i := (o - 0x80000) / 0x200
    entryDouble (entryKind (i / 8) (i / 2 % 4)) (vget .zero t.opnd i) (o % 0x200 / 8)
  else if o < 0xA0000 then
    match recAt (o - 0x90000) with
    | some (a, k) => (t.recOf a).double a.isMx k
    | none => 0
  else if o < 0xB0000 then t.inboxDouble (o - 0xA0000)
  else if o < 0xB0020 then vget 0 t.grants ((o - 0xB0000) / 8)
  else t.controlDouble lock (o - 0xB0000)

/-- A grant entry as stored (09 R198): LIMITK 257 to 510 stores 256. -/
def grantMask (x : W64) : W64 :=
  let k := bitsN x 0 9
  (x &&& 0xFFFFFF0000000000) ||| BitVec.ofNat 64 (if 256 < k ∧ k ≠ 511 then 256 else k)

/-- A double written at an aligned offset of a block past the instruction memory (09 R194); read-only blocks and fields
ignore it. Of the grant entries a granted write reaches entry 0; entries 1 to 3 are the service cores' (09 R199). -/
def Tile.winWrite (t : Tile) (o : Nat) (x : W64) : Tile :=
  if o < 0x60000 then t
  else if o < 0x68000 then
    let d := (o - 0x60000) / 8
    let row := vput (vget (Vector.replicate 32 0) t.mx.acc (d / 32)) (d % 32) x
    { t with mx := { t.mx with acc := vput t.mx.acc (d / 32) row } }
  else if o < 0x70200 then
    let k := (o - 0x70000) / 8
    if k = 0 ∨ (32 ≤ k ∧ t.ld ≤ Tile.gPos t.rrb k) then t else { t with g := vput t.g k x }
  else if o < 0x72200 then
    let k := (o - 0x71000) / 144
    { t with v := vput t.v k (VReg.ofRecord (setChunk (vget .zero t.v k).record ((o - 0x71000) % 144 / 8) x)) }
  else if o < 0x74048 then
    if o = 0x74000 then { t with p := (x.setWidth 16 &&& 0xFFFC) ||| 1 }
    else { t with q := vput t.q ((o - 0x74008) / 8) x }
  else if o < 0x750E0 then
    match SReg.ofNum (BitVec.ofNat 9 ((o - 0x75000) / 8)) with
    | some .rrc => (t.sregWrite x .rrc).gZeroDead
    | some r => t.sregWrite x r
    | none => t
  else if o < 0x90000 then
    let i := (o - 0x80000) / 0x200
    let y := entrySetDouble (entryKind (i / 8) (i / 2 % 4)) (vget .zero t.opnd i) (o % 0x200 / 8) x
    { t with opnd := vput t.opnd i y }
  else if o < 0xA0000 then
    match recAt (o - 0x90000) with
    | some (a, k) => t.recPut a k x
    | none => t
  else if o = 0xB0000 then { t with grants := vput t.grants 0 (grantMask x) }
  else if o = 0xB1020 then { t with twb := if x.getLsbD 63 then some (bitsN x 0 63) else none }
  else t

/-- The register that a write at an offset reaches, with its file. -/
def winReg (o : Nat) : Option (Bool × Nat) :=
  if 0x70000 ≤ o ∧ o < 0x70200 then some (false, (o - 0x70000) / 8)
  else if 0x71000 ≤ o ∧ o < 0x72200 then some (true, (o - 0x71000) / 144)
  else none

end Sys2Proof.Machine
end

