-- ==== Sys2Proof/Machine/Sync.lean ====
section
/-! DEFINITION. The triggers of SY: phases, barriers, fences, waits, time, ENQ and JOIN, MODE, SRD and SWR (chapters 08,
10, 16, 18 to 21). -/
namespace Sys2Proof.Machine

/-- Members of the tile's gang (08 R170). -/
def Tile.gangSize (t : Tile) : Nat := 2 ^ bitsN t.gshape 0 4

/-- A result of SY that is valid at once: its place taken and filled. -/
def Tile.syResult (t : Tile) (c : TCtx) (opc : BitVec 6) (x : W64) : Tile :=
  (t.takePlace 1 .raw (c.ops .sy opc)).arrive 1 t.nextId (.ofScalar x) 0

/-! ### Phases, barriers and fences (10 R220, R221) -/

/-- What a barrier operation in a handler may not do (18 R396, 20 R447). -/
def barrierCheck (c : TCtx) : Option Trap :=
  require .sy (!(c.old.inh && (c.old.arr || decide (1 < c.old.gangSize))))

def syncSpec (opc : BitVec 6) (e : Bool) (k : SyncKind) (check : TCtx → Option Trap) : TrigSpec where
  sock := .sy
  opc := opc
  e := e
  check := check
  fire := fun _ t =>
    { t with sync := t.sync ++ [⟨k, t.nextId, t.nb, t.inh, false, (t.deferred.map (·.count)).getD 0⟩] }

def phaseTSpec (e : Bool) : TrigSpec := syncSpec 0x00 e .phaseT fun _ => none
def phaseGSpec (e : Bool) : TrigSpec := syncSpec 0x01 e .phaseG barrierCheck
def barSpec (e : Bool) : TrigSpec := syncSpec 0x02 e .bar barrierCheck
def fenceSpec (e : Bool) : TrigSpec := syncSpec 0x03 e .fence fun _ => none

/-- A synchronising operation holds the bundle after it; one of the interrupted code does not hold the handler. -/
def Tile.syncHolds (t : Tile) : Bool := t.sync.any fun s => s.hp || !t.inh

/-! ### Waits and time (16 R368, R369, 21 R477, R478, R495) -/

/-- Nanoseconds as cycles at a clock: ceil(T·f / 10^9). -/
def nsCycles (mhz ns : Nat) : Nat := (ns * mhz + 999) / 1000

def slnsSpec (e : Bool) : TrigSpec where
  sock := .sy
  opc := 0x05
  e := e
  fire := fun c t =>
    let n := nsCycles c.env.mhz c.t.lo.toNat
    if t.inh then { t with slnsH := n } else { t with slns := n }

/-- An SLNS interval holds the waiting bundle. -/
def Tile.slnsHolds (t : Tile) : Bool := t.slnsH != 0 || (!t.inh && t.slns != 0)

def twnsSpec (e : Bool) : TrigSpec where
  sock := .sy
  opc := 0x06
  e := e
  fire := fun c t => { t with twb := if c.t.lo = 0 then none else some c.t.lo.toNat }

/-- TSTMP is performed in the next cycle. -/
def tstmpSpec (e : Bool) : TrigSpec where
  sock := .sy
  opc := 0x07
  e := e
  place := true
  fire := fun c t => t.takePlace 1 .raw (c.ops .sy 0x07)

/-- The TSTMPs of the last cycle's bundle take the reference count. -/
def Tile.stamp (t : Tile) (ns : Nat) : Tile :=
  t.setQueue 1 ((t.queue 1).map fun p =>
    if p.ops.opc = 0x07 && !p.ready && !p.rt then { p with ready := true, val := .ofScalar (BitVec.ofNat 64 ns) } else p)

def cycleSpec (e : Bool) : TrigSpec where
  sock := .sy
  opc := 0x08
  e := e
  place := true
  fire := fun c t => t.syResult c 0x08 (BitVec.ofNat 64 t.cyc)

def waitCheck (c : TCtx) : Option Trap :=
  let t := c.t.lo
  require .sy (decide (t &&& ~~~0x1F1F = 0) && decide (t &&& 0x1F0F ≠ 0))

/-- WAIT reads all four entries as tickets and consumes a pending bound. -/
def waitSpec (e : Bool) : TrigSpec where
  sock := .sy
  opc := 0x04
  e := e
  place := true
  check := waitCheck
  fire := fun c t =>
    let o := c.ops .sy 0x04
    let u := t.takePlace 1 .raw o
    { u with
      waits := u.waits ++ [⟨t.nextId, c.t.lo, [o.e00, o.e01, o.e10, o.e11], u.twb.map (nsCycles c.env.mhz)⟩]
      twb := none }

/-! ### ENQ and JOIN (08 R180, R181, R183) -/

def enqSpec (e : Bool) : TrigSpec where
  sock := .sy
  opc := 0x09
  e := e
  place := true
  check := fun c =>
    let off := c.o0.lo.toNat
    if c.t.lo.toNat ≥ 256 ∨ off % 32 ≠ 0 ∨ c.limit < off + 32 then invalid .sy
    else if c.old.spmBad off 32 then errorTrap .sy off
    else none
  lock := fun c => c.old.storeOpen c.env.tid c.o0.lo.toNat 32 c.old.nb
  fire := fun c t =>
    let off := c.o0.lo.toNat
    let ops := c.ops .sy 0x09
    let rec_ := BitVec.ofNat 1120 (c.old.spm.value off 32)
    (t.takePlace 1 .raw ops).addReq (.enq c.t.lo.toNat off) ops [⟨0, 0, 32, .hit 0, rec_⟩]

def joinSpec (e : Bool) : TrigSpec where
  sock := .sy
  opc := 0x0A
  e := e
  place := true
  check := fun c => require .sy (c.t.lo.toNat % 64 == 0)
  fire := fun c t =>
    let ops := c.ops .sy 0x0A
    (t.takePlace 1 .raw ops).addReq .join ops [⟨0, c.t.lo, 64, .issue, 0⟩]

/-! ### MODE, SRD and SWR (20 R440, R465, R466) -/

def modeSpec (e : Bool) : TrigSpec where
  sock := .sy
  opc := 0x0B
  e := e
  place := true
  check := fun c => require .sy (decide (c.t.lo.toNat < 2 ^ 15) && decide (c.o0.lo &&& ~~~0x4F0E = 0))
  fire := fun c t => t.syResult c 0x0B c.old.flm
  late := fun c t => { t with flm := merge64 c.o0.lo t.flm c.t.lo &&& 0x4F0E }

/-- The offsets SRD accepts: blocks from 0x05_0000 to 0x0B_1FFF. -/
def srdOk (x : W64) : Bool :=
  decide (x.toNat < 2 ^ 24) && x.toNat % 8 == 0 && decide (0x50000 ≤ x.toNat) && winDefined x.toNat

def srdSpec (e : Bool) : TrigSpec where
  sock := .sy
  opc := 0x0C
  e := e
  place := true
  check := fun c => require .sy (srdOk c.t.lo)
  late := fun c t => t.syResult c 0x0C (t.winRead c.env 0 c.t.lo.toNat)

def swrSpec (e : Bool) : TrigSpec where
  sock := .sy
  opc := 0x0D
  e := e
  check := fun c =>
    let o := c.t.lo.toNat
    firstTrap
      (require .sy (srdOk c.t.lo && decide (0x60000 ≤ o) && !(decide (0xB0000 ≤ o) && decide (o < 0xB0020))))
      ((winReg o).bind fun (f, k) => c.old.fillTrap f k)
  lock := fun c =>
    match winReg c.t.lo.toNat with
    | some (f, k) => c.old.writeWaits f k
    | none => false
  late := fun c t => t.winWrite c.t.lo.toNat c.o0.lo

end Sys2Proof.Machine
end

