-- ==== Sys2Proof/Machine/Channel.lean ====
section
/-! DEFINITION. The triggers of CH: sends, receives, stream bindings and collectives (13 R281, R282, R299 to R309). -/
namespace Sys2Proof.Machine

/-- The checks of a direct scratchpad read at a trigger, after the socket's own: alignment, and of the bytes read, if any, range and
memory error (13 R282). -/
def directCheck (k : Sock) (c : TCtx) (off n align : Nat) : Option Trap :=
  if off % align ≠ 0 then invalid k
  else if n = 0 then none
  else if c.limit < off + n then accessTrap k off
  else if c.old.spmBad off n then errorTrap k off
  else none

/-- A direct read waits for earlier AU stores to the bytes it reads (13 R282). -/
def directLock (c : TCtx) (off n : Nat) : Bool := n != 0 && c.old.storeOpen c.env.tid off n c.old.nb

/-! ### SEND and SEND.P (13 R304, 20 R460) -/

def sendNw (w : W64) : Nat := bitsN w 56 4
def sendDev (w : W64) : Nat := bitsN w 36 20

/-- The operand checks of a send word. -/
def sendOk (peer : Bool) (w : W64) : Bool :=
  decide (bitsN w 60 2 = 0) && decide (bitsN w 32 4 = 0) && decide (bitsN w 14 2 = 0) && decide (sendNw w ≤ 8) &&
    (!w.getLsbD 62 || w.getLsbD 63) && (peer || decide (sendDev w = 0))

/-- The doubles of a scratchpad range. -/
def Tile.doubles (t : Tile) (off n : Nat) : List W64 := (List.range n).map fun k => t.spm.double (off + 8 * k)

/-- A send queued; a SEND.P to the tile's own device is a deferred fault instead. -/
def sendFire (peer : Bool) (c : TCtx) (t : Tile) : Tile :=
  let w := c.t.lo
  if peer && decide (sendDev w = c.env.devid.toNat) then t.defer 0x10 w 0
  else { t with sends := t.sends ++ [⟨t.nextId, peer, w, c.old.doubles c.o0.lo.toNat (sendNw w), false⟩] }

def sendWith (opc : BitVec 6) (e peer : Bool) : TrigSpec where
  sock := .ch
  opc := opc
  e := e
  check := fun c =>
    firstTrap (require .ch (sendOk peer c.t.lo)) (directCheck .ch c c.o0.lo.toNat (8 * sendNw c.t.lo) 8)
  lock := fun c => decide (8 ≤ c.old.sends.length) || directLock c c.o0.lo.toNat (8 * sendNw c.t.lo)
  fire := sendFire peer

def sendSpec (e : Bool) : TrigSpec := sendWith 0x00 e false
def sendPSpec (e : Bool) : TrigSpec := sendWith 0x01 e true

/-! ### RECV (13 R306, 20 R451) -/

/-- A message written at an offset, header first. -/
def Tile.writeMsg (t : Tile) (off : Nat) (m : Msg) : Tile := t.spmWrite off (m.all.flatMap (bytesOf 8))

/-- RECVs take whole messages, oldest first, while there are both. -/
def Tile.recvFeed : Nat → Tile → Tile
  | 0, t => t
  | n + 1, t =>
    match t.recvs, t.inbox with
    | r :: rs, m :: ms =>
      Tile.recvFeed n (({ t with recvs := rs, inbox := ms }.writeMsg r.off m).arrive 2 r.id (.ofScalar m.hdr) 0)
    | _, _ => t

def recvSpec (e : Bool) : TrigSpec where
  sock := .ch
  opc := 0x02
  e := e
  place := true
  check := fun c => require .ch (c.t.lo.toNat % 8 == 0 && decide (c.t.lo.toNat + 72 ≤ c.limit))
  fire := fun c t =>
    let u := t.takePlace 2 .raw (c.ops .ch 0x02)
    let v := { u with recvs := u.recvs ++ [(⟨t.nextId, c.t.lo.toNat⟩ : Recv)] }
    Tile.recvFeed (v.recvs.length) v

/-! ### STRM (13 R308, 20 R469) -/

/-- The fields of a binding word that are checked; a TAG of a reserved code is not refused, and its rows are NONE's (log 102). -/
def strmOk (c : TCtx) : Bool :=
  let w := c.t.lo
  decide (w &&& 0x40000003_FFFFC0F8 = 0) && decide (bitsN w 0 3 < 6) &&
    !(w.getLsbD 63 && (c.old.strmAt (bitsN w 0 3)).bound)

def strmSpec (e : Bool) : TrigSpec where
  sock := .ch
  opc := 0x03
  e := e
  check := fun c => require .ch (strmOk c)
  fire := fun c t =>
    let w := c.t.lo
    { t with strm := vput t.strm (bitsN w 0 3) (if w.getLsbD 63 then { Strm.empty with bind := w } else .empty) }

/-! ### COLL (13 R299 to R301, 18 R404) -/

/-- The fields of a COLL card. -/
def collKind (d : Vector W64 8) : Nat := bitsN (vget 0 d 0) 60 4
def collRop (d : Vector W64 8) : Nat := bitsN (vget 0 d 0) 57 3
def collFmt (d : Vector W64 8) : Tag := Tag.ofCode ((vget 0 d 0).extractLsb' 51 6)
def collPeer (d : Vector W64 8) : Bool := (vget 0 d 0).getLsbD 50
def collDevs (d : Vector W64 8) : Nat := bitsN (vget 0 d 0) 41 9 + 1
def collN (d : Vector W64 8) : Nat := bitsN (vget 0 d 0) 0 32
def collL (d : Vector W64 8) : Nat := bitsN (vget 0 d 1) 52 12 + 1
def collRoot (d : Vector W64 8) : Nat := bitsN (vget 0 d 1) 0 17
def collSrc (d : Vector W64 8) : Nat := bitsN (vget 0 d 2) 0 18
def collList (d : Vector W64 8) : Nat := bitsN (vget 0 d 4) 0 18

/-- Participants, for a gang of `n` members. -/
def collParts (d : Vector W64 8) (n : Nat) : Nat := if collPeer d then collDevs d * n else n

/-- Bytes of one block of N elements. -/
def collBlock (d : Vector W64 8) : Nat := collN d * ((collFmt d).width.getD 8 / 8)

/-- Bytes a participant supplies and bytes it may receive. -/
def collSrcLen (d : Vector W64 8) (n : Nat) : Nat :=
  if collKind d < 2 then collL d / collParts d n * collBlock d else collBlock d
def collDstLen (d : Vector W64 8) (n : Nat) : Nat :=
  if collKind d = 2 then collParts d n * collBlock d else collBlock d

/-- The card's bits that must be zero. -/
def collZero (d : Vector W64 8) : Bool :=
  decide (bitsN (vget 0 d 0) 32 9 = 0) && decide (bitsN (vget 0 d 1) 17 35 = 0) &&
    decide (bitsN (vget 0 d 2) 18 46 = 0) && decide (bitsN (vget 0 d 3) 18 46 = 0) &&
    decide (bitsN (vget 0 d 4) 18 46 = 0) && [5, 6, 7].all (fun k => decide (vget 0 d k = 0)) &&
    (collPeer d || collDevs d == 1)

/-- The field checks of R301. -/
def collFields (d : Vector W64 8) (n : Nat) : Bool :=
  let f := collFmt d
  let p := collParts d n
  collZero d && decide (collKind d < 4) && decide (1 ≤ collN d) && (f.isInt || f.isFp) && decide (collRoot d < p) &&
    (if collKind d < 2 then
      decide (1 ≤ collRop d) && decide (collRop d ≤ 6) && (decide (collRop d < 4) || f.isInt) && collL d % p == 0
    else collRop d == 0 && collL d == 1)

/-- A card of eight doubles at an offset. -/
def Tile.card (t : Tile) (off : Nat) : Vector W64 8 := vofList 8 0 (t.doubles off 8)

/-- The device list's bytes. -/
def collListLen (d : Vector W64 8) : Nat := if collPeer d then 4 * collDevs d else 0

def collCheck (c : TCtx) : Option Trap :=
  let off := c.t.lo.toNat
  let d := c.old.card off
  let n := c.old.gangSize
  let src := collSrc d
  let dst := collDst d
  let sl := collSrcLen d n
  let dl := collDstLen d n
  firstTrap (directCheck .ch c off 64 64)
    (if !collFields d n then invalid .ch
    else if c.limit < src + sl then accessTrap .ch src
    else if c.limit < dst + dl then accessTrap .ch dst
    else if collPeer d && decide (c.limit < collList d + collListLen d) then accessTrap .ch (collList d)
    else if dst ≠ src ∧ overlaps src sl dst dl then invalid .ch
    else if collPeer d && c.old.spmBad (collList d) (collListLen d) then errorTrap .ch (collList d)
    else none)

/-- Offset `a` lies in the DST of the collective. -/
def CollSub.covers (x : CollSub) (a : Nat) : Bool := decide (collDst x.card ≤ a) && decide (a < collDst x.card + x.old.length)

/-- A scratchpad with the bytes under a DST in their place, but for those that another open collective leaves undefined. -/
def CollSub.restore (x : CollSub) (others : List CollSub) (m : Mem) : Mem :=
  x.old.zipIdx.foldl (fun m (b, k) =>
    let a := collDst x.card + k
    if others.any fun y => y.covers a then m else m.set a b) m

/-- The scratchpad without what its open collectives leave undefined. -/
def Tile.bare (t : Tile) : Mem := t.colls.foldl (fun m x => x.restore [] m) t.spm

/-- SRC as a trigger finds it, the tile's earlier stores to it that are on their way performed (13 R302). -/
def Tile.collEarly (t : Tile) (tid off n : Nat) : List Byte :=
  let put := fun (m : Mem) (l : Lane) =>
    match ownOffset tid l.addr with
    | some o => if l.open_ then m.write o (bytesOf l.len l.data) else m
    | none => m
  (((t.reqs.filter fun r => r.kind.isStore).flatMap (·.lanes)).foldl put t.spm).read off n

/-- COLL (18 R404). From here to READY the bytes of DST are undefined: free values stand there. The device list is read with
the card (log 18). -/
def collSpec (e : Bool) : TrigSpec where
  sock := .ch
  opc := 0x04
  e := e
  place := true
  check := collCheck
  lock := fun c =>
    let d := c.old.card c.t.lo.toNat
    directLock c c.t.lo.toNat 64 || collPeer d && directLock c (collList d) (collListLen d)
  fire := fun c t =>
    let d := c.old.card c.t.lo.toNat
    let devs := BitVec.ofNat 16384 (c.old.spm.value (collList d) (collListLen d))
    let u := t.takePlace 2 .raw (c.ops .ch 0x04)
    let n := collDstLen d c.old.gangSize
    let undef := (List.range n).map fun k => Config.collByte c.env.tid t.nextId (collDst d + k)
    let x : CollSub :=
      { id := t.nextId, card := d, devs := devs, ticket := none, seqNo := 0, old := u.bare.read (collDst d) n
        early := u.collEarly c.env.tid (collSrc d) (collSrcLen d c.old.gangSize) }
    { u with spm := u.spm.write (collDst d) undef, colls := u.colls ++ [x] }

end Sys2Proof.Machine
end

