-- ==== Sys2Proof/Machine/Control.lean ====
section
/-! DEFINITION. The CU operations (07 R147 to R160) and the loop step (07 R157). -/
namespace Sys2Proof.Machine

/-- The depth D: how many levels are active (07 R153). -/
def loopDepth (lc : Vector W64 4) : Nat := (List.range 4).foldl (fun n i => if lcActive lc i then n + 1 else n) 0

def Tile.leAt (t : Tile) (n : Nat) : Nat := (vget 0 t.le n).toNat
def Tile.lsAt (t : Tile) (n : Nat) : Nat := (vget 0 t.ls n).toNat

/-- A CU operation whose whole effect is where the flow goes. -/
def cuSpec (opc : BitVec 6) (e : Bool) (flow : TCtx → Flow) : TrigSpec where
  sock := .cu
  opc := opc
  e := e
  flow := flow

/-- h + sign_extend(T[30:0], 31) (07 R150). -/
def relTarget (c : TCtx) : Int := (c.h : Int) + signedN 31 c.t.lo.toNat

def brSpec (e : Bool) : TrigSpec := cuSpec 0 e fun c => .to (relTarget c)
def jmpSpec (e : Bool) : TrigSpec := cuSpec 1 e fun c => .to (c.t.lo.toNat : Int)
def retSpec (e : Bool) : TrigSpec := cuSpec 3 e fun c => .to (c.t.lo.toNat : Int)
def endSpec (e : Bool) : TrigSpec := cuSpec 5 e fun _ => .stop
/-- TRAP (21 R475). -/
def trapSpec (e : Bool) : TrigSpec := cuSpec 6 e fun c => .soft (c.t.lo.setWidth 16)

/-- CALL: the link value lands for the first bundle at the target (07 R151). -/
def callSpec (e : Bool) : TrigSpec where
  sock := .cu
  opc := 2
  e := e
  fire := fun c t => t.fly 0 1 (.ofScalar (BitVec.ofNat 64 (c.old.successor c.h c.len))) 0 2
  flow := fun c => .to (relTarget c)

/-- TRET is an invalid operand while INH is 0 (21 R476). -/
def tretSpec (e : Bool) : TrigSpec where
  sock := .cu
  opc := 7
  e := e
  check := fun c => require .cu c.old.inh
  flow := fun _ => .tret

/-- The checks of LOOP, in order (07 R156). -/
def loopCheck (c : TCtx) : Option Trap :=
  let t := c.old
  let d := loopDepth t.lc
  let count := c.t.lo.toNat
  let off := c.o0.lo.toInt
  let le : Int := (c.h : Int) + off
  if d = 4 then some { code := 0x0A }
  else if 2 ^ 32 ≤ count ∨ off ≤ 0 ∨ off % 4 ≠ 0 ∨ 2 ^ 30 ≤ off then invalid .cu
  else if 0 < d ∧ (t.leAt (d - 1) : Int) < le then invalid .cu
  else if (List.range 4).any fun n => lcActive t.lc n && decide (t.leAt n = c.h) then invalid .cu
  else none

/-- The body's last bundle that LOOP names. -/
def loopEnd (c : TCtx) : Nat := ((c.h : Int) + c.o0.lo.toInt).toNat

/-- LOOP. A count of 0 transfers past the bundle at the end address, whose header must be read; an end address beyond the
code segment is itself the target, and a word there that is no header gives a length by the same bits (log 63). -/
def loopSpec (e : Bool) : TrigSpec where
  sock := .cu
  opc := 4
  e := e
  check := loopCheck
  needPage := fun c =>
    if c.t.lo = 0 ∧ loopEnd c < c.env.codeLen ∧ (c.old.frameOf (loopEnd c / 4096)).isNone then some (loopEnd c / 4096)
    else none
  flow := fun c =>
    let le := loopEnd c
    if c.t.lo = 0 then
      .to (if c.env.codeLen ≤ le then le else c.old.successor le (headerLen ((c.old.codeWord le).getD 0)) : Nat)
    else .push c.t.lo.toNat le

/-- LOOP's push: level D of the tile before the bundle. LE and LS hold 30 bits: a loop end beyond them is stored modulo 2^30
(log 110). -/
def Tile.loopPush (old t : Tile) (count le ls : Nat) : Tile :=
  let d := loopDepth old.lc
  { t with
    lc := lcWrite t.lc d (BitVec.ofNat 64 (count + 2 ^ 63))
    le := vput t.le d (BitVec.ofNat 64 (le % 2 ^ 30))
    ls := vput t.ls d (BitVec.ofNat 64 (ls % 2 ^ 30)) }

/-- The loop step of a bundle that took a transfer: the lowest active level that ends here is popped, and those above
it, their counts kept (07 R157). -/
def Tile.loopPop (t : Tile) (h : Nat) : Tile :=
  match (List.range 4).find? fun n => lcActive t.lc n && decide (t.leAt n = h) with
  | some n => { t with lc := deactivate t.lc n }
  | none => t

/-- The loop-backs from level `n` down: a level that goes on, or levels that expire. -/
def loopDown (h : Nat) : Nat → Tile → Tile × Option Nat
  | 0, t => (t, none)
  | n + 1, t =>
    if lcActive t.lc n && decide (t.leAt n = h) then
      let k := bitsN (vget 0 t.lc n) 0 32
      if 1 < k then ({ t with lc := vput t.lc n (BitVec.ofNat 64 (k - 1 + 2 ^ 63)) }, some (t.lsAt n))
      else loopDown h n { t with lc := vput t.lc n 0 }
    else (t, none)

/-- The loop step of a bundle that took no transfer: the tile, and the address a loop-back goes to. -/
def Tile.loopStep (t : Tile) (h : Nat) : Tile × Option Nat :=
  match [3, 2, 1, 0].find? fun n => lcActive t.lc n && decide (t.leAt n = h) with
  | none => (t, none)
  | some n => loopDown h (n + 1) { t with lc := deactivate t.lc (n + 1) }

end Sys2Proof.Machine
end

