-- ==== Sys2Proof/Machine/Matrix.lean ====
section
/-! DEFINITION. The matrix socket (chapter 12): the six operations as triggered, and what MX does at the start of each
bundle: a load becomes ready, MMAs complete, and the head of the queue starts. -/
namespace Sys2Proof.Machine

/-! ### Operand files and the arithmetic of MMA (06 R143, 12 R260) -/

def Mx.fileA (m : Mx) (f : Bool) : MxFile := if f then m.a1 else m.a0
def Mx.fileB (m : Mx) (f : Bool) : MxFile := if f then m.b1 else m.b0

/-- Byte `k` of group `g` of an operand row. -/
def groupByte (x : Val) (g k : Nat) : Nat := elem x.data 8 (64 * g + k)

/-- Row (or column) `i`, block `b` of a file: the mantissas and the scale. -/
def MxFile.block (f : MxFile) (i b : Nat) : List Int × BitVec 24 :=
  let r := vget .zero f.rows (i / 4)
  let g := i % 4
  ((List.range 32).map fun k => signedN f.width (groupByte r g (32 * b + k)), r.scale (2 * g + b))

/-- The exact sum of products of one block. -/
def dot : List Int → List Int → Int
  | a :: as, b :: bs => a * b + dot as bs
  | _, _ => 0

/-- One accumulator element after one block (06 R143). -/
def mmaStep (ma mb : Nat) (sa sb : BitVec 24) (p : Int) (acc : W64) : W64 × Flags :=
  if scaleE sa = 255 ∨ scaleE sb = 255 then (BitVec.ofNat 64 Fmt.f64.nan, flBV)
  else if scaleE sa = 0 ∨ scaleE sb = 0 then (acc, 0)
  else
    let e : Int := (scaleE sa : Int) + (scaleE sb : Int) - 254 - 32 - ((ma - 1 : Nat) : Int) - ((mb - 1 : Nat) : Int)
    let t := Fmt.f64.round .rne (decide (p < 0)) (p.natAbs * (65536 + scaleF sa) * (65536 + scaleF sb)) e
    let r := Fmt.f64.add .rne acc.toNat t.bits
    (BitVec.ofNat 64 r.bits, t.fl ||| r.fl)

/-- Row `i` of an accumulator after block `b` of an MMA. -/
def mmaRow (a b : MxFile) (i blk : Nat) (row : Vector W64 32) : Vector W64 32 × Flags :=
  let (qa, sa) := a.block i blk
  (List.range 32).foldl
    (fun (r, fl) j =>
      let (qb, sb) := b.block j blk
      let (x, f) := mmaStep a.width b.width sa sb (dot qa qb) (vget 0 r j)
      (vput r j x, fl ||| f))
    (row, 0)

/-- The accumulators after an MMA: blocks 0 and 1, K ascending (12 R269). -/
def Mx.multiply (m : Mx) (r : MxRun) : Mx × Flags :=
  (List.range 32).foldl
    (fun (m, fl) i =>
      let k := 32 * r.acc + i
      let (r0, f0) := mmaRow r.a r.b i 0 (vget (Vector.replicate 32 0) m.acc k)
      let (r1, f1) := mmaRow r.a r.b i 1 r0
      ({ m with acc := vput m.acc k r1 }, fl ||| f0 ||| f1))
    (m, 0)

/-! ### Triggers (12 R263, R266) -/

/-- The pointer writes of a trigger (12 R263): from the next bundle on, the written values. -/
def mxPointers (t : W64) (m : Mx) : Mx :=
  { m with
    rp := if t.getLsbD 32 then 8 * bitsN t 34 15 else m.rp
    wp := if t.getLsbD 33 then 8 * bitsN t 49 15 else m.wp }

/-- An operation entered at the tail of the queue (12 R273). -/
def Tile.mxEnter (t : Tile) (op : MxOp) : Tile :=
  { t with mx := { t.mx with queue := t.mx.queue ++ [⟨t.nextId, t.nb, op⟩] } }

/-- The checks every MX trigger makes: none runs in a handler (15 R341), must-be-zero bits, the queue's eight places. -/
def mxCheck (mask : W64) (own : TCtx → Option Trap) (c : TCtx) : Option Trap :=
  let lo := c.t.lo &&& 0xFFFFFFFF
  if c.old.inh then invalid .mx
  else if lo &&& ~~~mask ≠ 0 then invalid .mx
  else
    firstTrap (own c) (if 8 ≤ c.old.mx.queue.length then some { code := 0x09, sock := Sock.mx.num } else none)

def mxSpec (opc : BitVec 6) (e : Bool) (mask : W64) (own : TCtx → Option Trap) (op : TCtx → MxOp) : TrigSpec where
  sock := .mx
  opc := opc
  e := e
  check := mxCheck mask own
  fire := fun c t => { t with mx := mxPointers c.t.lo t.mx }.mxEnter (op c)

/-- A width field from 2 to 8. -/
def widthOk (m : Nat) : Bool := decide (2 ≤ m) && decide (m ≤ 8)

/-- Entry `i` of an index vector (12 R267): none for a zero row, else the record's offset. -/
def indexEntry (x : BitVec 512) (i : Nat) : Option Nat :=
  let v := elem x 16 i
  if v.testBit 15 then none else some (8 * v)

def mldaSpec (e : Bool) : TrigSpec :=
  mxSpec 0 e 0xF1
    (fun c =>
      let ix := c.o0.data.setWidth 512
      firstTrap (require .mx (widthOk (bitsN c.t.lo 4 4)))
        ((List.range 32).foldl
          (fun r i => firstTrap r (match indexEntry ix i with
            | some o => if c.limit < o + 72 then accessTrap .mx o else none
            | none => none)) none))
    (fun c => .mlda (c.t.lo.getLsbD 0) (bitsN c.t.lo 4 4) (c.o0.data.setWidth 512))

/-- The eight operand entries in the order O0.e0, O0.e1, O1.e0, …, O3.e1. -/
def TCtx.mxEntries (c : TCtx) : List Val :=
  (List.range 8).map fun i => vget .zero c.opnd (opndIdx .mx (i / 2) (i % 2 == 1))

/-- The checks of MLDB's own fields (12 R266, R268). -/
def mldbCheck (t : W64) (limit : Nat) (entries : List Val) : Option Trap :=
  let m := bitsN t 4 4
  let off := 8 * bitsN t 16 15
  if !widthOk m then invalid .mx
  else if t.getLsbD 1 then
    firstTrap (require .mx (off == 0))
      (entries.foldl (fun r x => firstTrap r (if x.tag = Tag.ofBfm m then none else formatTrap .mx x.tag)) none)
  else if limit < off + 2304 then accessTrap .mx off
  else none

def mldbSpec (e : Bool) : TrigSpec :=
  mxSpec 1 e 0x7FFF00F3
    (fun c => mldbCheck c.t.lo c.limit c.mxEntries)
    (fun c => .mldb (c.t.lo.getLsbD 0) (bitsN c.t.lo 4 4) (c.t.lo.getLsbD 1) (8 * bitsN c.t.lo 16 15)
      (if c.t.lo.getLsbD 1 then c.mxEntries else []) none false)

/-- MMA's fields: [3] BF, [2] AF, [1:0] ACC. -/
def mmaOp (t : W64) : MxOp := .mma (t.getLsbD 2) (t.getLsbD 3) (bitsN t 0 2)

def mmaSpec (e : Bool) : TrigSpec := mxSpec 2 e 0xF (fun _ => none) (fun c => mmaOp c.t.lo)

/-- MZRO with ACCMASK 0 enters no place and acts only through the pointers (12 R270). -/
def mzroSpec (e : Bool) : TrigSpec where
  sock := .mx
  opc := 3
  e := e
  check := fun c =>
    if c.old.inh then invalid .mx
    else if c.t.lo &&& 0xFFFFFFF0 ≠ 0 then invalid .mx
    else if c.t.lo &&& 0xF ≠ 0 ∧ 8 ≤ c.old.mx.queue.length then some { code := 0x09, sock := Sock.mx.num }
    else none
  fire := fun c t =>
    let u := { t with mx := mxPointers c.t.lo t.mx }
    if c.t.lo &&& 0xF = 0 then u else u.mxEnter (.mzro (c.t.lo.setWidth 4))

def mrdSpec (e : Bool) : TrigSpec :=
  mxSpec 4 e 0x1DF3
    (fun c =>
      let fmt := bitsN c.t.lo 10 2
      require .mx (fmt != 3 && (!c.t.lo.getLsbD 12 || fmt == 0)))
    (fun c => .mrd (c.t.lo.getLsbD 12) (bitsN c.t.lo 10 2) (bitsN c.t.lo 4 5) (bitsN c.t.lo 0 2)
      (c.old.fpc.setWidth 2))

def mqrdSpec (e : Bool) : TrigSpec :=
  mxSpec 5 e 0x1F1F3
    (fun c => require .mx (widthOk (bitsN c.t.lo 12 4) && (!c.t.lo.getLsbD 16 || !c.t.lo.getLsbD 0)))
    (fun c => .mqrd (c.t.lo.getLsbD 16) (bitsN c.t.lo 12 4) (bitsN c.t.lo 4 5) (bitsN c.t.lo 0 2)
      (c.old.fpc.setWidth 2))

/-! ### Loads (12 R267, R268, R275, R278) -/

/-- A group of an operand row under construction: 64 element bytes and two scales. -/
structure Group where
  bytes : List Nat
  s0 : Nat
  s1 : Nat
  bad : Bool
  deriving DecidableEq, Repr

def Group.zero : Group := ⟨List.replicate 64 0, 0, 0, false⟩

/-- Four groups as an operand row. -/
def rowOf (gs : List Group) (t : Tag) : Val :=
  ⟨BitVec.ofNat 2048 (packN 8 (gs.flatMap (·.bytes))), t,
    BitVec.ofNat 192 (packN 24 (gs.flatMap fun g => [g.s0, g.s1]))⟩

/-- A group whose blocks are invalid: scale 255, mantissas zero (06 R138). -/
def Group.invalid (bad : Bool) : Group := ⟨List.replicate 64 0, 0xFF0000, 0xFF0000, bad⟩

/-- A 72-byte record of `m`-bit mantissas read from the scratchpad, each byte sign-filled (06 R137): a block that an
uncorrectable error touches is invalid (12 R278). -/
def Tile.readGroup (t : Tile) (m off : Nat) : Group :=
  let bad := fun b => t.spmBad (off + 32 * b) 32 || t.spmBad (off + 64) 8
  let scale := fun b => if bad b then 0xFF0000 else t.spm.value (off + 64 + 3 * b) 3
  let bytes := fun b =>
    if bad b then List.replicate 32 0 else (t.spm.read (off + 32 * b) 32).map fun x => bfmByte m x.toNat
  ⟨bytes 0 ++ bytes 1, scale 0, scale 1, bad 0 || bad 1⟩

/-- The eight operand rows of 32 groups. -/
def rowsOf (gs : List Group) (t : Tag) : Vector Val 8 :=
  vofList 8 .zero ((List.range 8).map fun i => rowOf ((gs.drop (4 * i)).take 4) t)

/-- The doubles a bank must deliver at most: G of 12 R275. -/
def bankLoad (ix : BitVec 512) : Nat :=
  let ds := (List.range 32).flatMap fun i =>
    match indexEntry ix i with
    | some o => (List.range 9).map fun k => (o / 8 + k) % 16
    | none => []
  (List.range 16).foldl (fun g b => max g (ds.count b)) 0

/-- The rows a load writes, and whether an error marked a block. -/
def Tile.mxLoadRows (t : Tile) : MxOp → Vector Val 8 × Bool
  | .mlda _ w ix =>
    let gs := (List.range 32).map fun i =>
      match indexEntry ix i with
      | some o => t.readGroup w o
      | none => Group.zero
    (rowsOf gs (Tag.ofBfm w), gs.any (·.bad))
  | .mldb _ w true _ cap _ _ => (vofList 8 .zero (cap.map fun x => { x with tag := Tag.ofBfm w }), false)
  | .mldb _ w false off _ _ poison =>
    let gs := (List.range 32).map fun i => t.readGroup w (off + 72 * i)
    let gs := if poison then gs.map fun g => Group.invalid g.bad else gs
    (rowsOf gs (Tag.ofBfm w), gs.any (·.bad))
  | _ => (Vector.replicate 8 .zero, false)

/-- The bundle count from which a load started in bundle `b` is ready. -/
def mxLoadReady (b : Nat) : MxOp → Nat
  | .mlda _ _ ix => b + bankLoad ix + 2
  | .mldb _ _ true _ _ _ _ => b + 2
  | _ => b + 20

/-- A load that is ready: its file written, and for MLDA the gather latch with its cursor at 0 (12 R265, R267). -/
def Mx.loadDone (m : Mx) (l : MxLoad) : Mx :=
  let m := { m with load := none }
  match l.op with
  | .mlda f w _ =>
    let x : MxFile := ⟨l.rows, w⟩
    let m := if f then { m with a1 := x } else { m with a0 := x }
    { m with latch := x, latchTag := Tag.ofBfm w, cursor := 0 }
  | .mldb f w _ _ _ _ _ =>
    let x : MxFile := ⟨l.rows, w⟩
    if f then { m with b1 := x } else { m with b0 := x }
  | _ => m

/-! ### Reads of an accumulator (12 R271, R272) -/

def accRow (m : Mx) (acc row : Nat) : List Nat :=
  (vlist (vget (Vector.replicate 32 0) m.acc (32 * acc + row))).map (·.toNat)

/-- An accumulator row converted to a format. -/
def mrdVal (m : Mx) (hi : Bool) (fmt row acc : Nat) (mode : BitVec 2) : Val × Flags :=
  let xs := accRow m acc row
  if fmt = 0 then
    let ys := if hi then xs.drop 16 ++ xs.take 16 else xs
    (⟨BitVec.ofNat 2048 (packN 64 ys), .fp64, 0⟩, 0)
  else
    let f := if fmt = 1 then Fmt.f32 else Fmt.bf16
    let rs := xs.map fun x => f.ofFp (RMode.of mode) (Fmt.f64.decode x)
    (⟨BitVec.ofNat 2048 (packN f.width (rs.map (·.bits))), f.tag, 0⟩, rs.foldl (fun a r => a ||| r.fl) 0)

/-- A quantised block's 32 element bytes: mantissas sign-extended to a byte (06 R137). -/
def QBlock.bytes (b : QBlock) : List Nat := b.q.map (wrapN 8)

/-- An accumulator row, or two, quantised to one operand row. -/
def mqrdVal (m : Mx) (pair : Bool) (width row acc : Nat) (mode : BitVec 2) : Val × Flags :=
  let blk := fun a => quantBlock width (.mode (RMode.of mode)) 0 ((accRow m a row).map Fmt.f64.decode)
  let b0 := blk acc
  let b1 : QBlock := if pair then blk (acc + 1) else ⟨0, List.replicate 32 0, 0⟩
  (⟨BitVec.ofNat 2048 (packN 8 (b0.bytes ++ b1.bytes)), Tag.ofBfm width,
    BitVec.ofNat 192 (packN 24 [b0.scale.toNat, b1.scale.toNat])⟩, b0.fl ||| b1.fl)

/-! ### What MX does at the start of bundle b -/

/-- A load whose file is ready from this bundle on. -/
def Mx.loadDue (m : Mx) (b : Nat) : Option MxLoad :=
  match m.load with
  | some l => if l.ready ≤ b then some l else none
  | none => none

/-- A load becomes ready. -/
def Tile.mxReady (t : Tile) : Tile :=
  match t.mx.loadDue t.nb with
  | some l => { t with mx := t.mx.loadDone l }
  | none => t

/-- The bundle in which the file becomes ready takes the memory-error trap (12 R278). -/
def Tile.mxError (t : Tile) : Bool := (t.mx.loadDue t.nb).any (·.bad)

/-- The error marked as delivered: the file becomes ready when the trap returns. -/
def Tile.mxErrorTaken (t : Tile) : Tile :=
  { t with mx := { t.mx with load := t.mx.load.map fun l => { l with bad := false } } }

/-- MMAs complete, in trigger order, their flags ORed (06 R136, R144). Both blocks of one are applied as it completes (12 R259, log
101). -/
def Tile.mxComplete (t : Tile) : Tile :=
  let (m, fl) := (t.mx.runs.filter (·.done ≤ t.nb)).foldl
    (fun (m, fl) r =>
      let (m', f) := m.multiply r
      (m', fl ||| f)) (t.mx, (0 : Flags))
  { t with
    mx := { m with runs := m.runs.filter fun r => !decide (r.done ≤ t.nb) }
    fpc := orFlags t.fpc fl }

/-- A load into this file is still running. -/
def Mx.loading (m : Mx) (isA f : Bool) : Bool :=
  match m.load with
  | some l =>
    match l.op with
    | .mlda g _ _ => isA && g == f
    | .mldb g _ _ _ _ _ _ => !isA && g == f
    | _ => false
  | none => false

/-- An earlier MMA that reads this file still occupies the array in bundle b. -/
def Mx.reading (m : Mx) (b : Nat) (isA f : Bool) : Bool :=
  m.runs.any fun r => decide (b ≤ r.arrayTo) && (if isA then r.useA == f else r.useB == f)

/-- An earlier MMA on an accumulator is not complete. -/
def Mx.accBusy (m : Mx) (acc : Nat) : Bool := m.runs.any fun r => r.acc == acc

/-- The head of the queue is due to start in bundle b, after this bundle's completions (12 R274, R275). -/
def Mx.dueStart (m : Mx) (b : Nat) : Option MxQueued :=
  match m.queue with
  | [] => none
  | q :: _ =>
    let arrayFree := m.arrayTo.all (· < b)
    let ok :=
      match q.op with
      | .mlda f _ _ => m.load.isNone && !m.reading b true f
      | .mldb f _ _ _ _ _ _ => m.load.isNone && !m.reading b false f
      | .mma a f _ => arrayFree && !m.loading true a && !m.loading false f
      | .mzro mask => arrayFree && (List.range 4).all fun k => !(mask.getLsbD k && m.accBusy k)
      | .mrd _ _ _ acc _ => arrayFree && !m.accBusy acc
      | .mqrd pair _ _ acc _ => arrayFree && !m.accBusy acc && !(pair && m.accBusy (acc + 1))
    if decide (q.at_ < b) && m.lastStart.all (· < b) && ok then some q else none

/-- The scratchpad ranges an operation reads. -/
def MxOp.ranges : MxOp → List (Nat × Nat)
  | .mlda _ _ ix => (List.range 32).filterMap fun i => (indexEntry ix i).map fun o => (o, 72)
  | .mldb _ _ false off _ _ _ => [(off, 2304)]
  | _ => []

/-- The start is held: a follow-on's copy has not finished, or an AU store triggered before the operation's bundle and
not yet performed overlaps its range (12 R276). -/
def Tile.mxHeld (t : Tile) (tid : Nat) : Bool :=
  match t.mx.dueStart t.nb with
  | none => false
  | some q =>
    (match q.op with
      | .mldb _ _ _ _ _ copy _ => copy.isSome
      | _ => false) ||
    q.op.ranges.any fun (o, n) => t.storeOpen tid o n q.at_

/-- The head of the queue starts (12 R274, R275). A load reads all its doubles as it starts (12 R276, log 100). -/
def Tile.mxStart (t : Tile) : Tile :=
  match t.mx.dueStart t.nb with
  | none => t
  | some q =>
    let b := t.nb
    let m := { t.mx with queue := t.mx.queue.drop 1, lastStart := some b }
    match q.op with
    | .mma a f acc =>
      let fb := m.fileB f
      let m := { m with
        arrayTo := some (b + 8 * fb.width - 1)
        runs := m.runs ++ [⟨q.id, m.fileA a, fb, a, f, acc, b + 8 * fb.width - 1, b + 8 * fb.width + 4⟩] }
      { t with mx := m }
    | .mzro mask =>
      { t with mx := { m with
        arrayTo := some b
        acc := (List.range 128).foldl
          (fun v k => if mask.getLsbD (k / 32) then vput v k (Vector.replicate 32 0) else v) m.acc } }
    | .mrd hi fmt row acc mode =>
      let (x, fl) := mrdVal m hi fmt row acc mode
      let f := t.fixedAt 8
      { t.setFixed 8 { f with pipe := insertFlight (.fresh (b + 4) q.id x fl 4) f.pipe } with
        mx := { m with arrayTo := some b } }
    | .mqrd pair width row acc mode =>
      let (x, fl) := mqrdVal m pair width row acc mode
      let f := t.fixedAt 8
      { t.setFixed 8 { f with pipe := insertFlight (.fresh (b + 8) q.id x fl 5) f.pipe } with
        mx := { m with arrayTo := some (b + 1) } }
    | op =>
      let (rows, bad) := t.mxLoadRows op
      let ready := mxLoadReady b op
      { t with mx := { m with load := some ⟨op, ready - 1, ready, rows, bad⟩ } }

/-- A running load holds one bundle longer for a bundle that uses the row port (12 R275). -/
def Mx.extend (m : Mx) : Mx :=
  { m with load := m.load.map fun l => { l with busyTo := l.busyTo + 1, ready := l.ready + 1 } }

/-- The follow-ons of a CPYM entered as if triggered in its bundle (12 R280). -/
def Tile.mxFollow (t : Tile) (fb fm : W64) (copy : Nat) : Tile :=
  let u := t.mxEnter (.mldb (fb.getLsbD 0) (bitsN fb 4 4) false (8 * bitsN fb 16 15) [] (some copy) false)
  u.mxEnter (mmaOp fm)

/-- The copy `copy` has ended: its follow-on MLDB may start (12 R280). -/
def Mx.copyEnded (m : Mx) (copy : Nat) (fault : Bool) : Mx :=
  { m with queue := m.queue.map fun q =>
      match q.op with
      | .mldb f w e o c (some k) p => if k = copy then { q with op := .mldb f w e o c none (p || fault) } else q
      | _ => q }

end Sys2Proof.Machine
end

