-- ==== Sys2Proof/Machine/Copy.lean ====
section
/-! DEFINITION. The triggers of CP: copy jobs, nests and circular buffers (13 R281 to R288, R296 to R298). -/
namespace Sys2Proof.Machine

/-! ### The job card (13 R283 to R285) -/

def Card.ctl (c : Card) : W64 := vget 0 c.w 2
def Card.sb (c : Card) : W64 := vget 0 c.w 0
def Card.db (c : Card) : W64 := vget 0 c.w 1
def Card.srcOc (c : Card) : Bool := c.ctl.getLsbD 63
def Card.dstOc (c : Card) : Bool := c.ctl.getLsbD 62
def Card.clip (c : Card) : Bool := c.ctl.getLsbD 61
def Card.cb (c : Card) : Bool := c.ctl.getLsbD 60
/-- The element size in bytes. -/
def Card.esize (c : Card) : Nat := 2 ^ bitsN c.ctl 57 3
def Card.nestNo (c : Card) : Nat := bitsN c.ctl 54 3
def Card.rop (c : Card) : Nat := bitsN c.ctl 51 3
def Card.rcode (c : Card) : Nat := bitsN c.ctl 45 6
def Card.rfmt (c : Card) : Tag := Tag.ofCode (BitVec.ofNat 6 c.rcode)
def Card.buf (c : Card) : Nat := bitsN c.db 0 2

/-- A region word: its first byte relative to the base, and its length. -/
def regionOf (w : W64) : Int × Nat := (64 * signedN 36 (bitsN w 0 36), 64 * bitsN w 36 28)

def Card.reads (c : Card) : List (Int × Nat) := [3, 4].map fun k => regionOf (vget 0 c.w k)
def Card.writes (c : Card) : List (Int × Nat) := [5, 6].map fun k => regionOf (vget 0 c.w k)

/-! ### Footprints as physical byte ranges (13 R290) -/

/-- A physical byte range: which memory, first byte, length. Memory 0 is the on-chip map, 1 this device's HBM, 2 + d
that of device d, and 2^32 + h what an invalid handle h names. -/
structure PhysRange where
  mem : Nat
  lo : Int
  len : Nat
  deriving DecidableEq, Repr

def PhysRange.meets (a b : PhysRange) : Bool :=
  a.mem == b.mem && decide (0 < a.len) && decide (0 < b.len) && decide (a.lo < b.lo + b.len) &&
    decide (b.lo < a.lo + a.len)

/-- The handle table's fields (09 R200). -/
def handleAt (hs : List (Nat × (W64 × W64))) (h : Nat) : W64 × W64 := if h = 0 then (0, 0) else (look h hs).getD (0, 0)
def handleBase (x : W64 × W64) : Nat := bitsN x.1 16 24 * 65536
def handleSize (x : W64 × W64) : Nat := (min (bitsN x.2 0 25) (2 ^ 24)) * 65536
def handlePeer (x : W64 × W64) : Option Nat := if x.1.getLsbD 60 then some (bitsN x.1 40 20) else none

/-- Where a base stands. -/
def basePlace (hs : List (Nat × (W64 × W64))) (oc : Bool) (b : W64) : Nat × Int :=
  if oc then (0, (b.toNat : Int))
  else
    let h := bitsN b 48 16
    let x := handleAt hs h
    if !x.1.getLsbD 63 then (2 ^ 32 + h, (bitsN b 0 48 : Int))
    else
      ((match handlePeer x with
        | some d => 2 + d
        | none => 1), ((handleBase x + bitsN b 0 48 : Nat) : Int))

def rangesAt (p : Nat × Int) (rs : List (Int × Nat)) : List PhysRange := rs.map fun (o, n) => ⟨p.1, p.2 + o, n⟩

/-- The on-chip address of a scratchpad offset of a tile (09 R192, R193). -/
def spmAddr (tid off : Nat) : Nat := 0xE * 2 ^ 60 + tid <<< 24 + off

/-! ### Circular buffers' descriptors (13 R296) -/

def cbBase (d : W64) : Nat := bitsN d 32 18
def cbSlots (d : W64) : Nat := bitsN d 16 6 + 1
def cbSize (d : W64) : Nat := bitsN d 4 12 * 128
def CBuf.enabled (b : CBuf) : Bool := cbSize b.desc != 0
/-- The scratchpad offset of slot `k`. -/
def CBuf.slotOff (b : CBuf) (k : Nat) : Nat := cbBase b.desc + k * cbSize b.desc
def Tile.cbuf (t : Tile) (k : Nat) : CBuf := vget .empty t.cbufs k
def Tile.setCbuf (t : Tile) (k : Nat) (b : CBuf) : Tile := { t with cbufs := vput t.cbufs k b }

/-- Slots taken, counting TAKEs still without a slot (18 R405). -/
def Tile.cbTaken (t : Tile) (k : Nat) : Nat :=
  (t.cbuf k).taken + (t.takes.filter (·.buf == k)).length - (t.cbuf k).owed

/-- The declared footprints of a job of tile `tid`. -/
def Card.readPrint (c : Card) (hs : List (Nat × (W64 × W64))) : List PhysRange :=
  rangesAt (basePlace hs c.srcOc c.sb) c.reads

def Card.writePrint (c : Card) (hs : List (Nat × (W64 × W64))) (tid : Nat) (b : CBuf) : List PhysRange :=
  if c.cb then [⟨0, spmAddr tid (cbBase b.desc), cbSlots b.desc * cbSize b.desc⟩]
  else rangesAt (basePlace hs c.dstOc c.db) c.writes

def printsMeet (a b : List PhysRange) : Bool := a.any fun x => b.any x.meets

/-! ### CPY and CPYM (13 R286, 12 R280, 18 R408) -/

/-- The card's must-be-zero fields. -/
def Card.zeros (c : Card) : Bool :=
  decide (bitsN c.ctl 0 45 = 0) && (c.rop != 0 || c.rcode == 0) &&
    (!c.cb || (!c.dstOc && decide (bitsN c.db 2 62 = 0)))

/-- A reduction's format and size. -/
def Card.ropOk (c : Card) : Bool :=
  let f := c.rfmt
  c.rop == 0 ||
    (c.rop != 7 && (f.isInt || f.isFp) && 8 * c.esize % f.width.getD 8 == 0 && (decide (c.rop < 4) || f.isInt) &&
      decide ((c.writes.map (·.2)).foldl (· + ·) 0 ≤ 65536))

/-- The write regions of a CB job lie in its buffer (13 R285). -/
def Card.inBuffer (c : Card) (b : CBuf) : Bool :=
  c.writes.all fun (o, n) => n == 0 || (decide (0 ≤ o) && decide (o + n ≤ (cbSlots b.desc * cbSize b.desc : Nat)))

/-- The write regions as the trigger compares them with the read regions. -/
def Card.writeRanges (c : Card) (hs : List (Nat × (W64 × W64))) (tid : Nat) (b : CBuf) : List PhysRange :=
  if c.cb then rangesAt (0, (spmAddr tid (cbBase b.desc) : Int)) c.writes else rangesAt (basePlace hs c.dstOc c.db) c.writes

/-- The checks of R286 that CPY and CPYM share. -/
def cardOk (c : TCtx) (k : Card) : Bool :=
  let b := c.old.cbuf k.buf
  k.zeros && k.ropOk && (!k.cb || (b.enabled && k.inBuffer b)) &&
    !printsMeet (k.readPrint c.env.handles) (k.writeRanges c.env.handles c.env.tid b)

def TCtx.cardOf (c : TCtx) : Card :=
  let w := c.old.card c.t.lo.toNat
  ⟨w, vget 0 c.old.nests (bitsN (vget 0 w 2) 54 3)⟩

/-- FB and FM of a CPYM card. -/
def Card.fb (c : Card) : W64 := (vget 0 c.w 7) &&& 0xFFFFFFFF
def Card.fm (c : Card) : W64 := (vget 0 c.w 7) >>> 32

/-- The checks of the follow-ons: an FB or FM that fails any check of 12 R266 is an invalid operand (18 R408), and two places
must be free beside the one that an MX trigger of the bundle takes (12 R280). -/
def followCheck (c : TCtx) (k : Card) : Option Trap :=
  if k.fb &&& ~~~0x7FFF00F1 ≠ 0 ∨ k.fm &&& ~~~0xF ≠ 0 then invalid .cp
  else
    firstTrap ((mldbCheck k.fb c.limit []).bind fun _ => invalid .cp)
      (if 6 < c.old.mx.queue.length + c.entersMx then some { code := 0x09, sock := Sock.cp.num } else none)

def cpyWith (opc : BitVec 6) (e mx : Bool) : TrigSpec where
  sock := .cp
  opc := opc
  e := e
  place := true
  check := fun c =>
    let k := c.cardOf
    firstTrap (directCheck .cp c c.t.lo.toNat 64 64)
      (firstTrap (require .cp (cardOk c k && (mx || decide (vget 0 k.w 7 = 0))))
        (if mx then followCheck c k else none))
  lock := fun c => directLock c c.t.lo.toNat 64
  fire := fun c t =>
    let k := c.cardOf
    let u := t.takePlace 3 .raw (c.ops .cp opc)
    let v := { u with cpys := u.cpys ++ [⟨t.nextId, k, mx, none⟩] }
    if mx then v.mxFollow k.fb k.fm t.nextId else v

def cpySpec (e : Bool) : TrigSpec := cpyWith 0x00 e false
def cpymSpec (e : Bool) : TrigSpec := cpyWith 0x01 e true

/-! ### CPNEST (13 R287, 18 R407) -/

/-- Double `k` of level `l` of a nest record. -/
def nestDouble (n : BitVec 2048) (l k : Nat) : W64 := n.extractLsb' (256 * l + 64 * k) 64
def nestCount (n : BitVec 2048) (l : Nat) : Nat := bitsN (nestDouble n l 0) 0 32
def nestSrc (n : BitVec 2048) (l : Nat) : Int := (nestDouble n l 1).toInt
def nestDst (n : BitVec 2048) (l : Nat) : Int := (nestDouble n l 2).toInt
/-- The clip bounds lo and hi of a level (13 R288). -/
def nestLo (n : BitVec 2048) (l : Nat) : Int := max (signedN 32 (bitsN (nestDouble n l 3) 0 32)) 0
def nestHi (n : BitVec 2048) (l : Nat) : Int :=
  let hi := signedN 32 (bitsN (nestDouble n l 3) 32 32)
  if hi = 0 then (nestCount n l : Int) else min hi (nestCount n l : Int)

def nestOk (n : BitVec 2048) : Bool :=
  decide (n.extractLsb' 1536 512 = 0) && (List.range 6).all fun l =>
    decide (bitsN (nestDouble n l 0) 32 32 = 0) && decide ((nestSrc n l).natAbs < 2 ^ 47) &&
      decide ((nestDst n l).natAbs < 2 ^ 47)

def cpnestSpec (e : Bool) : TrigSpec where
  sock := .cp
  opc := 0x02
  e := e
  check := fun c =>
    let off := c.t.lo.toNat
    firstTrap (require .cp (decide (c.o0.lo.toNat < 8)))
      (firstTrap (directCheck .cp c off 256 256)
        (require .cp (nestOk (BitVec.ofNat 2048 (c.old.spm.value off 256)))))
  lock := fun c => directLock c c.t.lo.toNat 256
  fire := fun c t =>
    { t with nests := vput t.nests (bitsN c.o0.lo 0 3) (BitVec.ofNat 2048 (c.old.spm.value c.t.lo.toNat 256)) }

/-! ### CPBUF and CPADV (13 R296, R298, 18 R405, R406) -/

def cpbufOk (c : TCtx) : Bool :=
  let d := c.t.lo
  let k := bitsN d 0 2
  let b := c.old.cbuf k
  decide (d &&& 0xFFFC0000FFC0000C = 0) && cbBase d % 128 == 0 && decide (bitsN d 4 12 ≤ 2048) &&
    decide (cbBase d + cbSlots d * cbSize d ≤ c.limit) && b.inflight == 0 && b.filled == 0 && c.old.cbTaken k == 0

def cpbufSpec (e : Bool) : TrigSpec where
  sock := .cp
  opc := 0x03
  e := e
  check := fun c => require .cp (cpbufOk c)
  fire := fun c t =>
    t.setCbuf (bitsN c.t.lo 0 2) { CBuf.empty with desc := c.t.lo, free := cbSlots c.t.lo }

/-- TAKEs of a buffer receive its filled slots in ring order and in trigger order; a FREE owed returns its slot at
once. -/
def Tile.cbServe : Nat → Nat → Tile → Tile
  | 0, _, t => t
  | n + 1, k, t =>
    let b := t.cbuf k
    match t.takes.find? (·.buf == k) with
    | none => t
    | some x =>
      if b.filled = 0 then t
      else
        let paid := b.owed != 0
        let b' := { b with
          filled := b.filled - 1
          takeAt := (b.takeAt + 1) % cbSlots b.desc
          taken := if paid then b.taken else b.taken + 1
          free := if paid then b.free + 1 else b.free
          owed := b.owed - 1 }
        let u := { t.setCbuf k b' with takes := t.takes.filter fun y => !(y.id == x.id) }
        Tile.cbServe n k (u.arrive 3 x.id (.ofScalar (BitVec.ofNat 64 (b.slotOff b.takeAt))) 0)

/-- A FREE: the oldest taken slot, or that of a TAKE still waiting. -/
def CBuf.release (b : CBuf) : CBuf :=
  if b.taken = 0 then { b with owed := b.owed + 1 } else { b with taken := b.taken - 1, free := b.free + 1 }

def cpadvSpec (e : Bool) : TrigSpec where
  sock := .cp
  opc := 0x04
  e := e
  place := true
  delivers := fun c => c.t.lo.getLsbD 3
  check := fun c =>
    let k := bitsN c.t.lo 0 2
    require .cp (c.t.lo != 0 && decide (c.t.lo.toNat < 16) && (c.old.cbuf k).enabled &&
      (!c.t.lo.getLsbD 2 || c.old.cbTaken k != 0))
  fire := fun c t =>
    let k := bitsN c.t.lo 0 2
    let u := if c.t.lo.getLsbD 2 then t.setCbuf k (t.cbuf k).release else t
    if c.t.lo.getLsbD 3 then
      let v := u.takePlace 3 .raw (c.ops .cp 0x04)
      let w := { v with takes := v.takes ++ [(⟨t.nextId, k⟩ : Take)] }
      Tile.cbServe w.takes.length k w
    else u

end Sys2Proof.Machine
end

