-- ==== Sys2Proof/Machine/Geometry.lean ====
section
/-! DEFINITION. The exact geometric predicates of GP (14 R310 to R323). -/
namespace Sys2Proof.Machine

/-! ### The determinants (14 R314) -/

/-- An expression over translated differences: `d p j` is coordinate j of point p less that of the last point. -/
inductive GExpr where
  | d (p j : Nat)
  | add (a b : GExpr)
  | sub (a b : GExpr)
  | mul (a b : GExpr)
  deriving DecidableEq, Repr

def GExpr.eval {α : Type} (leaf : Nat → Nat → α) (add sub mul : α → α → α) : GExpr → α
  | .d p j => leaf p j
  | .add a b => add (a.eval leaf add sub mul) (b.eval leaf add sub mul)
  | .sub a b => sub (a.eval leaf add sub mul) (b.eval leaf add sub mul)
  | .mul a b => mul (a.eval leaf add sub mul) (b.eval leaf add sub mul)

/-- p.x · q.y − q.x · p.y of the differences. -/
def crossXY (p q : Nat) : GExpr := .sub (.mul (.d p 0) (.d q 1)) (.mul (.d q 0) (.d p 1))

def lift2 (p : Nat) : GExpr := .add (.mul (.d p 0) (.d p 0)) (.mul (.d p 1) (.d p 1))
def lift3 (p : Nat) : GExpr := .add (lift2 p) (.mul (.d p 2) (.d p 2))

def ori2Expr : GExpr := .sub (.mul (.d 0 0) (.d 1 1)) (.mul (.d 0 1) (.d 1 0))

def ori3Expr : GExpr :=
  let m := fun p q : Nat => GExpr.sub (.mul (.d p 1) (.d q 2)) (.mul (.d p 2) (.d q 1))
  .add (.add (.mul (.d 0 0) (m 1 2)) (.mul (.d 1 0) (.sub (.mul (.d 2 1) (.d 0 2)) (.mul (.d 2 2) (.d 0 1)))))
    (.mul (.d 2 0) (m 0 1))

def incirExpr : GExpr :=
  .add (.add (.mul (lift2 0) (crossXY 1 2)) (.mul (lift2 1) (crossXY 2 0))) (.mul (lift2 2) (crossXY 0 1))

def insphExpr : GExpr :=
  let ab := crossXY 0 1
  let bc := crossXY 1 2
  let cd := crossXY 2 3
  let da := crossXY 3 0
  let ac := crossXY 0 2
  let bd := crossXY 1 3
  let z := fun p : Nat => GExpr.d p 2
  let abc := GExpr.add (.sub (.mul (z 0) bc) (.mul (z 1) ac)) (.mul (z 2) ab)
  let bcd := GExpr.add (.sub (.mul (z 1) cd) (.mul (z 2) bd)) (.mul (z 3) bc)
  let cda := GExpr.add (.add (.mul (z 2) da) (.mul (z 3) ac)) (.mul (z 0) cd)
  let dab := GExpr.add (.add (.mul (z 3) ab) (.mul (z 0) bd)) (.mul (z 1) da)
  .add (.sub (.mul (lift3 3) abc) (.mul (lift3 2) dab)) (.sub (.mul (lift3 1) cda) (.mul (lift3 0) bcd))

/-- A predicate's figures: points, dimensions, expression, α and β (14 R310, R317). -/
structure Pred where
  points : Nat
  dims : Nat
  expr : GExpr
  alpha : Fp
  beta : Fp
  cycles : Nat
  deriving DecidableEq, Repr

def predOri2 : Pred := ⟨3, 2, ori2Expr, .fin false (3 * 2 ^ 49 + 1) (-102), .fin false 1 (-102), 90⟩
def predOri3 : Pred := ⟨4, 3, ori3Expr, .fin false (7 * 2 ^ 50 + 7) (-103), .fin false 1 (-100), 160⟩
def predIncir : Pred := ⟨4, 2, incirExpr, .fin false (10 * 2 ^ 49 + 6) (-102), .fin false 1 (-99), 220⟩
def predInsph : Pred := ⟨5, 3, insphExpr, .fin false (16 * 2 ^ 48 + 7) (-101), .fin false 1 (-97), 400⟩

/-- The predicate of an opcode; SEGX uses the layout of four points in the plane and ORI2 for each orientation. -/
def predOf (opc : Nat) : Pred :=
  match opc with
  | 0 => predOri2
  | 1 => predOri3
  | 2 => predIncir
  | 3 => predInsph
  | _ => { predOri2 with points := 4 }

/-! ### The stages (14 R315 to R317) -/

/-- A value of stage 0 or 1: the exact value an operation delivered, and whether some operation overflowed or gave a
tiny inexact result. -/
structure Approx where
  x : Fp
  bad : Bool
  deriving DecidableEq, Repr

def badFlags (fl : Flags) : Bool := fl &&& (flOF ||| flUF) != 0

/-- One binary64 operation rounded by round_rne (stage 0). -/
def Approx.op (f : Fp → Fp → Fp × Flags) (a b : Approx) : Approx :=
  let r := Fmt.f64.finish .rne (f a.x b.x)
  ⟨Fmt.f64.decode r.bits, a.bad || b.bad || badFlags r.fl || !(Fmt.f64.decode r.bits).finite⟩

/-- One double-double operation: hi and lo rounded from the exact result (stage 1). -/
def Approx.op2 (f : Fp → Fp → Fp × Flags) (a b : Approx) : Approx :=
  let v := f a.x b.x
  let hi := Fmt.f64.finish .rne v
  let hiV := Fmt.f64.decode hi.bits
  let lo := Fmt.f64.finish .rne (Fp.add .rne v.1 hiV.neg)
  ⟨(Fp.add .rne hiV (Fmt.f64.decode lo.bits)).1,
    a.bad || b.bad || badFlags hi.fl || badFlags lo.fl || !hiV.finite⟩

def Fp.abs : Fp → Fp
  | .fin _ m e => .fin false m e
  | .inf _ => .inf false
  | x => x

def fpSub (a b : Fp) : Fp × Flags := Fp.add .rne a b.neg
def fpAdd (a b : Fp) : Fp × Flags := Fp.add .rne a b

def Fp.gt (a b : Fp) : Bool := !a.isNan && !b.isNan && Fp.cmp a b == .gt

def fpSignInt (x : Fp) : Int :=
  match x with
  | .fin s m _ => if m = 0 then 0 else if s then -1 else 1
  | .inf s => if s then -1 else 1
  | .nan _ => 0

/-- The points of a lane: coordinates as exact binary64 data, `pts[k][j]`. -/
abbrev Pts := List (List Fp)

def Pts.at_ (ps : Pts) (k j : Nat) : Fp := ((ps[k]?).getD [])[j]?.getD (.fin false 0 0)

/-- An integer scaled from an exact datum: m · 2^(e + 1074), 2^-1074 being the least binary64 step. -/
def fpScaled (x : Fp) : Int :=
  match x with
  | .fin s m e => signedM s (m <<< (e + 1074).toNat)
  | _ => 0

/-- A determinant over the points named by `idx`, decided: its sign and the stage that decides it. -/
structure Decided where
  sign : Int
  stage : Nat
  deriving DecidableEq, Repr

def decideSign (pr : Pred) (ps : Pts) (idx : List Nat) : Decided :=
  let pt := fun k j => ps.at_ ((idx[k]?).getD 0) j
  let last := pr.points - 1
  let leaf0 := fun k j => Approx.op fpSub ⟨pt k j, false⟩ ⟨pt last j, false⟩
  let d0 := pr.expr.eval leaf0 (Approx.op fpAdd) (Approx.op fpSub) (Approx.op Fp.mul)
  let p0 := pr.expr.eval (fun k j => let a := leaf0 k j; ⟨a.x.abs, a.bad⟩) (Approx.op fpAdd) (Approx.op fpAdd)
    (Approx.op Fp.mul)
  let bound := fun c : Fp => Fmt.f64.decode (Fmt.f64.finish .rne (Fp.mul c p0.x)).bits
  if !d0.bad && !p0.bad && (p0.x.isZero || d0.x.abs.gt (bound pr.alpha)) then
    ⟨if p0.x.isZero then 0 else fpSignInt d0.x, 0⟩
  else
    let leaf1 := fun k j => Approx.op2 fpSub ⟨pt k j, false⟩ ⟨pt last j, false⟩
    let d1 := pr.expr.eval leaf1 (Approx.op2 fpAdd) (Approx.op2 fpSub) (Approx.op2 Fp.mul)
    if !d1.bad && d1.x.abs.gt (bound pr.beta) then ⟨fpSignInt d1.x, 1⟩
    else
      let leaf2 := fun k j => fpScaled (pt k j) - fpScaled (pt last j)
      ⟨(pr.expr.eval leaf2 (· + ·) (· - ·) (· * ·)).sign, 2⟩

/-! ### Symbolic perturbation (14 R320) -/

/-- A polynomial in δ: exponents rising, no zero coefficient. -/
abbrev Poly := List (Nat × Int)

def Poly.addTerm (e : Nat) (c : Int) : Poly → Poly
  | [] => if c = 0 then [] else [(e, c)]
  | (f, d) :: p =>
    if e < f then (if c = 0 then (f, d) :: p else (e, c) :: (f, d) :: p)
    else if e = f then (if c + d = 0 then p else (f, c + d) :: p)
    else (f, d) :: Poly.addTerm e c p

def Poly.add (p q : Poly) : Poly := q.foldl (fun r (e, c) => Poly.addTerm e c r) p
def Poly.neg (p : Poly) : Poly := p.map fun (e, c) => (e, -c)
def Poly.mul (p q : Poly) : Poly :=
  p.foldl (fun r (e, c) => q.foldl (fun r (f, d) => Poly.addTerm (e + f) (c * d) r) r) []

/-- The rank of point `k`: identifiers ascending, equal ones in point order. -/
def rankOf (ids : List Nat) (k : Nat) : Nat :=
  let me := (ids[k]?).getD 0
  (ids.zipIdx.filter fun (x, i) => decide (x < me) || (decide (x = me) && decide (i < k))).length

/-- The sign of the lowest-order nonzero coefficient of the perturbed determinant. Coordinates and perturbations are both
scaled by 2^1074, which multiplies the determinant by a positive power of two. -/
def sosSign (pr : Pred) (ps : Pts) (ids : List Nat) (idx : List Nat) : Int :=
  let pt : Nat → Nat → Poly := fun k j =>
    let i := (idx[k]?).getD 0
    Poly.addTerm (2 ^ ((rankOf ids i + 1) * pr.dims - (j + 1))) (2 ^ 1074 : Nat) (Poly.addTerm 0 (fpScaled (ps.at_ i j)) [])
  let leaf := fun k j => Poly.add (pt k j) (pt (pr.points - 1) j).neg
  match pr.expr.eval leaf Poly.add (fun a b => Poly.add a b.neg) Poly.mul with
  | [] => 0
  | (_, c) :: _ => c.sign

/-! ### Lanes (14 R318, R319, R321) -/

/-- What one lane delivers: its element, whether an orientation was exactly zero, its stage, whether it reached stage 1,
and its stage-2 cycles. -/
structure LaneRes where
  val : Int
  zero : Bool
  stage : Nat
  two : Nat
  deriving DecidableEq, Repr

def orient (pr : Pred) (sos : Bool) (ps : Pts) (ids idx : List Nat) : Int × Decided :=
  let d := decideSign pr ps idx
  (if d.sign = 0 && sos then sosSign pr ps ids idx else d.sign, d)

/-- The lexicographic order of two points of the plane, exactly. -/
def lexLe (a b : List Int) : Bool :=
  let x := fun l : List Int => l.head?.getD 0
  let y := fun l : List Int => (l[1]?).getD 0
  decide (x a < x b) || (decide (x a = x b) && decide (y a ≤ y b))

/-- The case code of SEGX (14 R319). -/
def segCode (os : List Int) (ps : Pts) : Int :=
  let o : Nat → Int := fun i => (os[i]?).getD 0
  let pt : Nat → List Int := fun k => [fpScaled (ps.at_ k 0), fpScaled (ps.at_ k 1)]
  let lo := fun a b => if lexLe (pt a) (pt b) then pt a else pt b
  let hi := fun a b => if lexLe (pt a) (pt b) then pt b else pt a
  if 0 < o 0 * o 1 ∨ 0 < o 2 * o 3 then 0
  else if os.all (· != 0) then 1
  else if !os.all (· == 0) then 2
  else if lexLe (lo 2 3) (hi 0 1) && lexLe (lo 0 1) (hi 2 3) then 3
  else 4

def laneResult (opc : Nat) (sos : Bool) (ps : Pts) (ids : List Nat) : LaneRes :=
  if opc = 4 then
    let rs := [[0, 1, 2], [0, 1, 3], [2, 3, 0], [2, 3, 1]].map (orient predOri2 sos ps ids)
    ⟨segCode (rs.map (·.1)) ps, rs.any fun r => r.2.sign == 0, rs.foldl (fun s r => max s r.2.stage) 0,
      90 * (rs.filter fun r => r.2.stage == 2).length⟩
  else
    let pr := predOf opc
    let r := orient pr sos ps ids (List.range pr.points)
    ⟨r.1, r.2.sign == 0, r.2.stage, if r.2.stage = 2 then pr.cycles else 0⟩

/-! ### The operation (14 R311 to R313, R321 to R323) -/

/-- The layout's length in bytes (14 R312). -/
def gpLength (opc : Nat) (f32 sos : Bool) : Nat :=
  let pr := predOf opc
  pr.points * pr.dims * 16 * (if f32 then 4 else 8) + (if sos then 128 * pr.points else 0)

/-- The points of lane `i` in the layout at `off`. -/
def Tile.gpPoints (t : Tile) (op : GpOp) (i : Nat) : Pts :=
  let pr := predOf op.opc.toNat
  let s := if op.f32 then 4 else 8
  (List.range pr.points).map fun k => (List.range pr.dims).map fun j =>
    let x := t.spm.value (op.off + (k * pr.dims + j) * 16 * s + i * s) s
    if op.f32 then Fmt.f32.decode x else Fmt.f64.decode x

def Tile.gpIds (t : Tile) (op : GpOp) (i : Nat) : List Nat :=
  let pr := predOf op.opc.toNat
  let s := if op.f32 then 4 else 8
  (List.range pr.points).map fun k => t.spm.value (op.off + pr.points * pr.dims * 16 * s + 128 * k + 8 * i) 8

/-- The lanes that are active and finite, computed; none where inactive or not finite. -/
def Tile.gpLanes (t : Tile) (op : GpOp) : List (Option LaneRes) :=
  (List.range 16).map fun i =>
    if op.mask.getLsbD i then
      let ps := t.gpPoints op i
      if ps.all (fun l => l.all Fp.finite) then
        some (laneResult op.opc.toNat op.sos ps (if op.sos then t.gpIds op i else []))
      else none
    else none

/-- Bits of a predicate over lanes. -/
def laneMask (l : List Bool) : Nat := packN 1 (l.map fun b => if b then 1 else 0)

/-- A predicate started in cycle `cyc`: its results, their fault, when they become valid, and its stage report. -/
def Tile.gpCompute (t : Tile) (op : GpOp) : GpRun × GpStat :=
  let ls := t.gpLanes op
  let nf := (List.range 16).map fun i => op.mask.getLsbD i && ((ls[i]?).getD none).isNone
  let zero := ls.map fun l => l.any (·.zero)
  let cycles := 12 + 24 * (ls.filter fun l => l.any fun r => 1 ≤ r.stage).length +
    ls.foldl (fun c l => c + (l.map (·.two)).getD 0) 0
  let res := Val.ofRow (packRow 64 (ls.map fun l => wrapN 64 ((l.map (·.val)).getD 0))) .i64
  let res2 := BitVec.ofNat 64 (laneMask zero + laneMask nf <<< 16)
  let flt : Option FaultRep :=
    if t.spmBad op.off (gpLength op.opc.toNat op.f32 op.sos) then some ⟨0x14, BitVec.ofNat 64 op.off, 0, 0⟩
    else if op.nfp = 0 ∧ laneMask nf ≠ 0 then some ⟨0x18, BitVec.ofNat 64 op.off, 0, BitVec.ofNat 16 (laneMask nf)⟩
    else none
  (⟨op, t.cyc + cycles, res, res2, flt⟩,
    ⟨ls.map fun l => match l with
      | some r => BitVec.ofNat 64 r.stage
      | none => BitVec.allOnes 64, cycles, op.opc⟩)

/-- GPST's report on the most recent predicate (14 R323). -/
def Tile.gpReport (t : Tile) (op : GpOp) : GpRun :=
  match t.gp.last with
  | none => ⟨op, t.cyc + 2, Val.ofRow (packRow 64 (List.replicate 16 (2 ^ 64 - 1))) .i64, 0, none⟩
  | some r =>
    ⟨op, t.cyc + 2, Val.ofRow (packRow 64 (r.stages.map (·.toNat))) .i64,
      BitVec.ofNat 64 (r.cycles + r.opc.toNat <<< 32), none⟩

/-- The running GP operation ends: both its results become valid (14 R322). -/
def Tile.gpFinish (t : Tile) : Tile :=
  match t.gp.run with
  | none => t
  | some r =>
    if r.doneAt ≤ t.cyc then
      let u := { t with gp := { t.gp with run := none } }
      match r.flt with
      | some f => (u.arriveFault 4 r.op.id f).arriveFault 5 r.op.id f
      | none =>
        let tag := if r.op.opc = 0x10 then Tag.raw else .pred
        (u.arrive 4 r.op.id r.res 0).arrive 5 r.op.id ⟨r.res2.setWidth 2048, tag, 0⟩ 0
    else t

/-- The next GP operation starts: a cycle after its trigger, when none runs and no earlier AU store to its layout is
open (14 R313, R322). It reads every double of its layout here (log 100). -/
def Tile.gpStart (t : Tile) (tid : Nat) : Tile :=
  match t.gp.run, t.gp.queue with
  | none, op :: rest =>
    let held := op.opc != 0x10 && t.storeOpen tid op.off (gpLength op.opc.toNat op.f32 op.sos) op.nb
    if op.cyc < t.cyc ∧ held = false then
      if op.opc = 0x10 then { t with gp := { t.gp with queue := rest, run := some (t.gpReport op) } }
      else
        let (r, st) := t.gpCompute op
        { t with gp := { queue := rest, run := some r, last := some st } }
    else t
  | _, _ => t

/-! ### Triggers -/

/-- The checks of a predicate's operands (14 R311). -/
def gpCheck (opc : Nat) (c : TCtx) : Option Trap :=
  let f32 := c.o1.lo.getLsbD 0
  let sos := c.o1.lo.getLsbD 1
  if c.t.lo.toNat % 64 ≠ 0 ∨ c.o0.lo.toNat ≥ 2 ^ 16 ∨ c.o1.lo.toNat ≥ 2 ^ 3 then invalid .gp
  else if c.limit < c.t.lo.toNat + gpLength opc f32 sos then accessTrap .gp c.t.lo.toNat
  else none

/-- The queued operation of a trigger's operands. -/
def gpOpOf (opc : BitVec 6) (o : Opnds) (id cyc nb : Nat) : GpOp :=
  ⟨id, opc, o.t.lo.toNat, o.o0.lo.setWidth 16, o.o1.lo.getLsbD 0, o.o1.lo.getLsbD 1, bitsN o.o1.lo 2 2, cyc, nb⟩

def Tile.gpEnter (t : Tile) (op : GpOp) : Tile := { t with gp := { t.gp with queue := t.gp.queue ++ [op] } }

def gpSpec (opc : BitVec 6) (e : Bool) (check : TCtx → Option Trap) : TrigSpec where
  sock := .gp
  opc := opc
  e := e
  place := true
  check := check
  fire := fun c t =>
    let o := c.ops .gp opc
    ((t.takePlace 4 .i64 o).takePlace 5 (if opc = 0x10 then .raw else .pred) o).gpEnter
      (gpOpOf opc o t.nextId t.cyc t.nb)

def ori2Spec (e : Bool) : TrigSpec := gpSpec 0 e (gpCheck 0)
def ori3Spec (e : Bool) : TrigSpec := gpSpec 1 e (gpCheck 1)
def incirSpec (e : Bool) : TrigSpec := gpSpec 2 e (gpCheck 2)
def insphSpec (e : Bool) : TrigSpec := gpSpec 3 e (gpCheck 3)
def segxSpec (e : Bool) : TrigSpec := gpSpec 4 e (gpCheck 4)
def gpstSpec (e : Bool) : TrigSpec := gpSpec 0x10 e (fun _ => none)

end Sys2Proof.Machine
end

