-- ==== Sys2Proof/Machine/Elementary.lean ====
section
/-! DEFINITION. The mathematical functions of SF's shipped bank, in fixed point far beyond any format's precision, and the
results that the bounds of 14 R326 allow (log 8). -/
namespace Sys2Proof.Machine.Elementary

/-! ### Fixed point: an integer stands for that many 2^-2600 -/

def bitsP : Nat := 2600
def one : Nat := 2 ^ bitsP
def mul (a b : Int) : Int := a * b / (one : Int)
def div (a b : Int) : Int := a * (one : Int) / b

/-- m · 2^e, scaled by 2^s. -/
def scale (s m : Nat) (e : Int) : Nat :=
  let k := e + s
  if 0 ≤ k then m <<< k.toNat else m >>> (-k).toNat

/-- The sum of a series from term `t` on: the term of number n + 1 follows from that of number n, and each counts with a
weight. -/
def series (next : Nat → Int → Int) (weigh : Nat → Int → Int) : Nat → Nat → Int → Int
  | 0, _, _ => 0
  | fuel + 1, n, t => if t = 0 then 0 else weigh n t + series next weigh fuel (n + 1) (next n t)

/-- 2 artanh(a / b) to `s` bits. -/
def artanh2 (s : Nat) (a b : Int) : Int :=
  2 * series (fun _ t => t * a * a / (b * b)) (fun n t => t / (2 * n + 1 : Nat)) (s + 8) 0 (a * (2 ^ s : Nat) / b)

/-- arctan(1 / k) to `s` bits. -/
def arccot (s k : Nat) : Int :=
  series (fun _ t => -t / (k * k : Nat)) (fun n t => t / (2 * n + 1 : Nat)) (s + 8) 0 ((2 ^ s / k : Nat) : Int)

/-- ln 2, and π to `s` bits. -/
def ln2 : Int := artanh2 bitsP 1 3
def piTo (s : Nat) : Int := 4 * (4 * arccot s 5 - arccot s 239)

/-- Beyond this, e^x is no number of a format. -/
def far : Int := (4000 * one : Nat)

/-- e^x; far out it is 0, or larger than every format's numbers. -/
def exp (x : Int) : Int :=
  if x < -far then 0
  else if far < x then (2 ^ 5000 * one : Nat)
  else
    let k := x / ln2
    let r := x - k * ln2
    let y := series (fun n t => mul t r / (n + 1 : Nat)) (fun _ t => t) 2000 0 one
    if 0 ≤ k then y <<< k.toNat else y / (2 ^ (-k).toNat : Nat)

/-- ln (m · 2^e). -/
def log (m : Nat) (e : Int) : Int :=
  let k := Nat.log2 m
  let y : Int := scale bitsP m (-(k : Int))
  (e + (k : Int)) * ln2 + artanh2 bitsP (y - one) (y + one)

/-- x mod 2π for x = m · 2^e, of magnitude below 2^1024. -/
def modTwoPi (m : Nat) (e : Int) : Int :=
  let s := bitsP + 1200
  ((scale s m e : Int) % (2 * piTo s)) / (2 ^ 1200 : Nat)

/-- sin and cos of an angle below 2π. -/
def sin (r : Int) : Int := series (fun n t => -(mul (mul t r) r) / ((2 * n + 2) * (2 * n + 3) : Nat)) (fun _ t => t) 2000 0 r
def cos (r : Int) : Int := series (fun n t => -(mul (mul t r) r) / ((2 * n + 1) * (2 * n + 2) : Nat)) (fun _ t => t) 2000 0 one

/-- The greatest value below 1: what a function that comes near 1 and never reaches it stays at. -/
def belowOne : Int := (one - 1 : Nat)

/-- erf z for z at least 0, given z and z^2. -/
def erfOf (z zz : Int) : Int :=
  if (900 * one : Nat) < zz then belowOne
  else
    let sum := series (fun n t => mul t (2 * zz) / (2 * n + 3 : Nat)) (fun _ t => t) 9000 0 z
    -- 2 / √π · sum / e^(z²)
    let rootPi : Int := isqrt ((piTo bitsP).toNat * one)
    div (2 * div sum (exp zz)) rootPi

def erf (x : Int) : Int := erfOf x (mul x x)

/-- 1 / (1 + e^-x) from the sign and magnitude of x. -/
def sigm (s : Bool) (x : Int) : Int :=
  let t := exp (-x)
  if s then div t (one + t) else min belowOne (div one (one + t))

/-- Φ(x), the same way. -/
def phi (s : Bool) (x : Int) : Int :=
  let half := mul x x / 2
  let y := erfOf (isqrt (half.toNat * one)) half
  (if s then one - y else one + y) / 2

def tanh (x : Int) : Int :=
  let t := exp (2 * x)
  div (t - one) (t + one)

/-- Function `slot` of the shipped bank at (-1)^s · m · 2^e (14 R326), within about 2^-2500 of its value: signed, in fixed
point. RCP and SQRT are rounded exactly elsewhere. -/
def value (slot : Nat) (s : Bool) (m : Nat) (e : Int) : Int :=
  let x : Int := scale bitsP m e
  let sx := if s then -x else x
  let odd := fun y : Int => if s then -y else y
  match slot with
  | 0 => exp sx
  | 1 => exp (mul (if far < x then odd (2 * far) else sx) ln2)
  | 2 => log m e
  | 3 => div (log m e) ln2
  | 5 => isqrt (one * one * one / x.toNat)
  | 7 => odd (sin (modTwoPi m e))
  | 8 => cos (modTwoPi m e)
  | 9 => odd (tanh x)
  | 10 => sigm s x
  | 11 => odd (mul x (phi s x))
  | 12 => odd (mul x (sigm s x))
  | 13 => odd (erf x)
  | _ => 0

end Sys2Proof.Machine.Elementary

namespace Sys2Proof.Machine

/-! ### The results a bound allows -/

/-- The magnitude delivered for m · 2^e. The numbers of a format are steps, and the result is the number above the highest
step whose threshold the value has reached. The threshold of the step from number `c` to the next lies, in eighths of an ulp
that `free` gives, within `b` ulp of both: the result keeps the bound of 14 R326, and it never falls while the value rises
(R327). It is no higher than the power of two next above the value where the number after that is out of the bound, and not
infinite where the value is a number of the format or below the greatest. -/
def Fmt.allowed (f : Fmt) (b : Nat) (free : Nat → Nat) (m : Nat) (e : Int) : Nat :=
  let top : Int := e + (Nat.log2 m : Int)
  if m = 0 then 0
  else if (f.emax : Int) < top then f.infBits false
  else
    let q : Int := max top f.emin - ((f.p : Int) - 1)
    let k := Elementary.scale 0 (8 * m) (e - q)
    let a := f.pack false (k / 8) q
    let threshold := fun c : Nat => ((free c % (16 * b - 9) : Nat) : Int) + 9 - 8 * b
    let reached := fun j : Int => decide (a + j < 0) || decide (threshold (a + j).toNat + 8 * j ≤ (k % 8 : Nat))
    let step : Int := ([1, 0, -1].find? reached).getD (-2)
    let cap :=
      if (a + 1) % 2 ^ (f.p - 1) = 0 ∧ 2 ^ f.p ≤ a + 1 ∧ a + 1 ≠ f.infBits false then a + 1
      else if a + 1 < f.infBits false ∨ k % 8 = 0 then f.infBits false - 1
      else f.infBits false
    min cap (a + step + 1).toNat

/-- The bound of 14 R326 in ulp. -/
def shippedBound (slot : Nat) (f : Fmt) : Nat := if f = .f64 ∧ (slot = 11 ∨ slot = 12) then 2 else 1

end Sys2Proof.Machine
end

