-- ==== Sys2Proof/Machine/Sha3.lean ====
section
/-! DEFINITION. SHA3-512, which the spec names and does not define: taken from FIPS 202 (log 10, PRESUMED). The round
constants and the rotations are computed by the rules that FIPS 202 gives them, not listed. -/
namespace Sys2Proof.Machine

/-- The 1600 bits as 25 words: word `x + 5 * y` holds the column of bits at (x, y). -/
abbrev Sponge := Vector W64 25

/-- The word at (x, y), both coordinates modulo five. -/
def Sponge.word (s : Sponge) (x y : Nat) : W64 := vget 0 s (x % 5 + 5 * (y % 5))

/-- A state given by its words. -/
def Sponge.make (f : Nat → Nat → W64) : Sponge := Vector.ofFn fun i => f (i.val % 5) (i.val / 5)

/-- The eight-bit register after `n` shifts (FIPS 202, algorithm 5). -/
def shiftRegister : Nat → Byte
  | 0 => 1
  | n + 1 =>
    let r := shiftRegister n
    if r.getLsbD 7 then (r <<< 1) ^^^ 0x71 else r <<< 1

/-- The constant of round `k`: register bits `7k` to `7k + 6` at the places that are one less than a power of two. -/
def roundConstant (k : Nat) : W64 :=
  (List.range 7).foldl (fun w j => if (shiftRegister ((7 * k + j) % 255)).getLsbD 0 then w ||| (1 <<< (2 ^ j - 1)) else w) 0

/-- The walk over the words other than (0, 0), with the rotation of each (FIPS 202, algorithm 2). -/
def rotationWalk : Nat → Nat × Nat → List ((Nat × Nat) × Nat)
  | 0, _ => []
  | n + 1, (x, y) => ((x, y), (24 - n) * (25 - n) / 2 % 64) :: rotationWalk n (y, (2 * x + 3 * y) % 5)

def rotationOf (x y : Nat) : Nat := (((rotationWalk 24 (1, 0)).find? fun p => p.1 = (x, y)).map (·.2)).getD 0

/-- Each word takes the parities of two neighbouring sheets. -/
def Sponge.mixSheets (s : Sponge) : Sponge :=
  let parity := fun x => (List.range 5).foldl (fun w y => w ^^^ s.word x y) 0
  .make fun x y => s.word x y ^^^ parity (x + 4) ^^^ (parity (x + 1)).rotateLeft 1

/-- Each word is rotated and moves from (x, y) to (y, 2x + 3y). -/
def Sponge.scatter (s : Sponge) : Sponge :=
  .make fun x y =>
    let from_ := (x + 3 * y) % 5
    (s.word from_ x).rotateLeft (rotationOf from_ x)

/-- The one step that is not linear, along a row. -/
def Sponge.mixRows (s : Sponge) : Sponge :=
  .make fun x y => s.word x y ^^^ (s.word (x + 2) y &&& ~~~s.word (x + 1) y)

/-- The permutation: 24 rounds, each ending with its constant in the word at (0, 0). -/
def Sponge.permute (s : Sponge) : Sponge :=
  (List.range 24).foldl (fun s k =>
    let t := s.mixSheets.scatter.mixRows
    vput t 0 (t.word 0 0 ^^^ roundConstant k)) s

/-- One block of 72 bytes taken in: nine words, in the order of the words. -/
def Sponge.takeIn (s : Sponge) (block : List Byte) : Sponge :=
  let w := ofBytes block
  Sponge.permute (.make fun x y => s.word x y ^^^ BitVec.ofNat 64 (w >>> (64 * (x + 5 * y))))

/-- The first `n` blocks of a padded message. -/
def Sponge.takeAll : Nat → Sponge → List Byte → Sponge
  | 0, s, _ => s
  | n + 1, s, msg => Sponge.takeAll n (s.takeIn (msg.take 72)) (msg.drop 72)

/-- The bytes after a message of `n` bytes: the domain bits 01, then the first and the last one of the padding. -/
def sha3Tail (n : Nat) : List Byte :=
  let room := 72 - n % 72
  (List.range room).map fun k => (if k = 0 then 0x06 else 0) ||| (if k + 1 = room then 0x80 else 0)

/-- The digest of a byte string; byte 0 of the digest is its low byte. -/
def sha3_512 (bs : List Byte) : BitVec 512 :=
  let s := Sponge.takeAll (bs.length / 72 + 1) (.make fun _ _ => 0) (bs ++ sha3Tail bs.length)
  BitVec.ofNat 512 (packN 64 ((List.range 8).map fun i => (vget 0 s i).toNat))

end Sys2Proof.Machine
end

