-- ==== Sys2Proof/Machine/Special.lean ====
section
/-! DEFINITION. The special functions of SF (14 R324 to R333, 20 R462). -/
namespace Sys2Proof.Machine

/-! ### Banks -/

/-- What a bank holds in a slot: a loaded image, a function of the shipped bank, or nothing. -/
inductive Slot where
  | image (ws : List W64) | shipped (n : Nat) | empty
  deriving DecidableEq, Repr

def SfBank.slot (b : SfBank) (n : Nat) : Slot :=
  match look n b.slots with
  | some ws => .image ws
  | none => if n < 14 then .shipped n else .empty

/-- A word of the table RAM; one that no package has set is the shipped bank's (log 86). -/
def SfBank.word (b : SfBank) (n : Nat) : Nat := ((look n b.table).getD (Config.shippedTable n)).toNat

/-! ### Microprograms (14 R329, R330) -/

/-- How a microprogram stops before its last step: DOMAIN's NaN, or a REDUCE that has no integer to round to (log 119). -/
inductive MicroStop where
  | domain | reduce
  deriving DecidableEq, Repr

/-- The working values of a microprogram: input, x, n, t, acc, the flags so far, and how it stopped. -/
structure Micro where
  x0 : Nat
  x : Nat
  n : Int
  t : Nat
  acc : Nat
  fl : Flags
  out : Option MicroStop
  deriving DecidableEq, Repr

def f64dec (x : Nat) : Fp := Fmt.f64.decode x

/-- clamp over binary64 data; comparisons with a NaN are false. -/
def fpClamp (x lo hi : Nat) : Nat :=
  if Fp.gt' lo x then lo else if Fp.gt' x hi then hi else x
where
  /-- a > b, false where either is a NaN. -/
  Fp.gt' (a b : Nat) : Bool :=
    !(f64dec a).isNan && !(f64dec b).isNan && Fp.cmp (f64dec a) (f64dec b) == .gt

def fpLess (a b : Nat) : Bool :=
  !(f64dec a).isNan && !(f64dec b).isNan && Fp.cmp (f64dec a) (f64dec b) == .lt

def fpLessEq (a b : Nat) : Bool :=
  !(f64dec a).isNan && !(f64dec b).isNan && Fp.cmp (f64dec a) (f64dec b) != .gt

/-- An integer as an exact datum. -/
def fpInt (n : Int) : Fp := .fin (decide (n < 0)) n.natAbs 0

/-- a − n · b, fused and rounded once. -/
def fusedSub (a : Nat) (n : Int) (b : Nat) : FRes :=
  Fmt.f64.finish .rne (Fp.fma .rne (fpInt n).neg (f64dec b) (f64dec a))

/-- A datum times 2^n. -/
def Fp.scale (n : Int) : Fp → Fp
  | .fin s m e => .fin s m (e + n)
  | x => x

/-- One step word applied (14 R330). -/
def microStep (b : SfBank) (w : W64) (s : Micro) : Micro :=
  let cnt := bitsN w 56 4
  let tab := fun i => b.word (bitsN w 43 10 + i)
  match s.out with
  | some _ => s
  | none =>
    match bitsN w 60 4 with
    | 1 =>
      match (Fp.mul (f64dec s.x) (f64dec (tab 0))).1 with
      | .fin sg m e =>
        let n := (roundToInt .rne sg m e).1
        let r1 := fusedSub s.x n (tab 1)
        let r2 := fusedSub r1.bits n (tab 2)
        { s with n := n, x := r2.bits, fl := s.fl ||| r1.fl ||| r2.fl }
      | _ => { s with out := some .reduce }
    | 2 => { s with t := tab ((s.n % (2 ^ cnt : Nat)).toNat), n := s.n / (2 ^ cnt : Nat) }
    | 3 =>
      (List.range cnt).foldl
        (fun s i =>
          let r := Fmt.f64.fma .rne false false s.acc s.x (tab i)
          { s with acc := r.bits, fl := s.fl ||| r.fl }) s
    | 4 =>
      let pr := Fp.mul (f64dec s.acc) (f64dec s.t)
      let r := Fmt.f64.finish .rne (pr.1.scale s.n, pr.2)
      { s with acc := r.bits, fl := s.fl ||| r.fl }
    | 5 => { s with acc := fpClamp s.acc (tab 0) (tab 1) }
    | 6 =>
      let k := (List.range cnt).foldl (fun k i => if fpLessEq (tab (3 * i)) s.x0 then i else k) 0
      { s with acc := fpClamp s.acc (tab (3 * k + 1)) (tab (3 * k + 2)) }
    | 7 =>
      if fpLess s.x0 (tab 0) || fpLess (tab 1) s.x0 then { s with out := some .domain, fl := s.fl ||| flNV } else s
    | _ => s

/-- The image accepts the format and its steps are all defined. -/
def imageOk (ws : List W64) (f : Fmt) : Bool :=
  let w0 := (ws[0]?).getD 0
  let bit := match f with
    | .f16 => 58 | .bf16 => 59 | .f32 => 60 | .f64 => 61
  let ns := bitsN w0 52 6
  w0.getLsbD 63 && w0.getLsbD bit && decide (1 ≤ ns) && decide (ns ≤ 32) &&
    (List.range ns).all fun i =>
      let st := bitsN ((ws[2 + i]?).getD 0) 60 4
      decide (1 ≤ st) && decide (st ≤ 7)

/-- A special-result code applied to an input; none runs the steps (14 R329). -/
def specialCode (f : Fmt) (code x : Nat) : Option FRes :=
  match code with
  | 1 => some ⟨0, 0⟩
  | 2 => some ⟨2 ^ (f.width - 1), 0⟩
  | 3 => some ⟨f.infBits false, 0⟩
  | 4 => some ⟨f.infBits true, 0⟩
  | 5 => some ⟨f.infBits false, flDZ⟩
  | 6 => some ⟨f.infBits true, flDZ⟩
  | 7 => some (f.ofInt .rne 1)
  | 8 => some ⟨x, 0⟩
  | 9 => none
  | _ => some ⟨f.nan, flNV⟩

/-- The special-result field for an infinity or a zero. -/
def specialField (ws : List W64) : Fp → Option Nat
  | .inf s => some (bitsN ((ws[1]?).getD 0) (if s then 48 else 32) 16)
  | .fin s m _ => if m = 0 then some (bitsN ((ws[1]?).getD 0) (if s then 16 else 0) 16) else none
  | .nan _ => none

def Fmt.num : Fmt → Nat
  | .f16 => 0 | .bf16 => 1 | .f32 => 2 | .f64 => 3

/-- A loaded slot run on one element. -/
def runImage (b : SfBank) (ws : List W64) (f : Fmt) (mode : RMode) (x : Nat) : FRes :=
  let steps :=
    let x0 := (Fmt.f64.ofFp .rne (f.decode x)).bits
    let one := (Fmt.f64.ofInt .rne 1).bits
    let r := ((ws.drop 2).take (bitsN ((ws[0]?).getD 0) 52 6)).foldl (fun s w => microStep b w s)
      ⟨x0, x0, 0, one, 0, 0, none⟩
    match r.out with
    | some .domain => FRes.mk f.nan r.fl
    | some .reduce => ⟨Config.reducedFn ws b.table f.num x % 2 ^ f.width, Config.reducedFlags ws b.table f.num x⟩
    | none =>
      let y := f.ofFp mode (f64dec r.acc)
      ⟨y.bits, r.fl ||| y.fl⟩
  match specialField ws (f.decode x) with
  | some c => (specialCode f c x).getD steps
  | none => steps

/-! ### The shipped bank (14 R326) -/

def Fmt.zero (f : Fmt) (s : Bool) : Nat := if s then 2 ^ (f.width - 1) else 0

/-- A shipped function's value on (-1)^s · m · 2^e, free within the bound of 14 R326, with its flags: NX where finite, OF and
NX where it overflows, UF where it is below the normal range. A value too small for any number keeps its sign: that of the
input for SIN, TANH, GELU, SILU and ERF, and positive for the others. -/
def freeFn (slot : Nat) (f : Fmt) (s : Bool) (m : Nat) (e : Int) : FRes :=
  let v := Elementary.value slot s m e
  let neg := decide (v < 0) || (v == 0 && s && [7, 9, 11, 12, 13].contains slot)
  let mag := f.allowed (shippedBound slot f) (Config.shippedStep slot f.num neg) v.natAbs (-(Elementary.bitsP : Int))
  ⟨f.zero neg + mag,
    if mag < f.infBits false then flNX ||| (if mag < 2 ^ (f.p - 1) then flUF else 0) else flOF ||| flNX⟩

def Fmt.one (f : Fmt) (s : Bool) : Nat := (f.ofInt .rne (if s then -1 else 1)).bits
/-- The exponent of a power of two, if the magnitude is one. -/
def pow2Exp (m : Nat) (e : Int) : Option Int :=
  if m = 2 ^ Nat.log2 m then some (e + (Nat.log2 m : Int)) else none

/-- A finite datum is this integer. -/
def fpAsInt (m : Nat) (e : Int) : Option Nat :=
  if 0 ≤ e then some (m <<< e.toNat) else if m % 2 ^ (-e).toNat = 0 then some (m >>> (-e).toNat) else none

/-- EXP2 of an integer is exact where representable. -/
def exp2Int (f : Fmt) (s : Bool) (n : Nat) : Option FRes :=
  if 2 ^ 11 < n then none
  else
    let r := f.round .rne false 1 (signedM s n)
    if r.fl = 0 then some r else none

/-- A finite result of RCP or SQRT in a format other than FP64 sets NX: 14 R326 lists no exact one beyond those of zeros
and infinities, and leaves only FP64 to R131. -/
def Fmt.inexact (f : Fmt) (r : FRes) : FRes :=
  if f ≠ .f64 ∧ r.bits % 2 ^ (f.width - 1) < f.infBits false then ⟨r.bits, r.fl ||| flNX⟩ else r

/-- A shipped function on an element that is not a NaN: its special and exact results, RCP and SQRT correctly rounded to
nearest, ties to even, whatever RMODE, in an overflow too (log 109), and otherwise its free value. -/
def shipped (slot : Nat) (f : Fmt) (x : Nat) : FRes :=
  let nv : FRes := ⟨f.nan, flNV⟩
  match slot, f.decode x with
  | 0, .inf s => ⟨if s then 0 else f.infBits false, 0⟩
  | 0, .fin s m e => if m = 0 then ⟨f.one false, 0⟩ else freeFn slot f s m e
  | 1, .inf s => ⟨if s then 0 else f.infBits false, 0⟩
  | 1, .fin s m e => match fpAsInt m e with
    | some n => (exp2Int f s n).getD (freeFn slot f s m e)
    | none => freeFn slot f s m e
  | 2, .inf s => if s then nv else ⟨f.infBits false, 0⟩
  | 2, .fin s m e =>
    if m = 0 then ⟨f.infBits true, flDZ⟩ else if s then nv
    else if pow2Exp m e = some 0 then ⟨0, 0⟩ else freeFn slot f s m e
  | 3, .inf s => if s then nv else ⟨f.infBits false, 0⟩
  | 3, .fin s m e =>
    if m = 0 then ⟨f.infBits true, flDZ⟩ else if s then nv
    else match pow2Exp m e with
      | some k => f.ofInt .rne k
      | none => freeFn slot f s m e
  | 4, .inf s => ⟨f.zero s, 0⟩
  | 4, .fin s m e => if m = 0 then ⟨f.infBits s, flDZ⟩ else f.inexact (f.roundQuot .rne s 1 m (-e))
  | 5, .inf s => if s then nv else ⟨0, 0⟩
  | 5, .fin s m e => if m = 0 then ⟨f.infBits s, flDZ⟩ else if s then nv else freeFn slot f s m e
  | 6, .inf s => if s then nv else ⟨f.infBits false, 0⟩
  | 6, .fin s m e =>
    if m = 0 then (if s then ⟨f.zero true, 0⟩ else f.inexact ⟨0, 0⟩) else if s then nv else f.inexact (f.roundSqrt .rne m e)
  | 7, .inf _ => nv
  | 7, .fin s m e => if m = 0 then ⟨f.zero s, 0⟩ else freeFn slot f s m e
  | 8, .inf _ => nv
  | 8, .fin s m e => if m = 0 then ⟨f.one false, 0⟩ else freeFn slot f s m e
  | 9, .inf s => ⟨f.one s, 0⟩
  | 9, .fin s m e => if m = 0 then ⟨f.zero s, 0⟩ else freeFn slot f s m e
  | 10, .inf s => ⟨if s then 0 else f.one false, 0⟩
  | 10, .fin s m e => freeFn slot f s m e
  | 11, .inf s => ⟨if s then f.zero true else f.infBits false, 0⟩
  | 11, .fin s m e => if m = 0 then ⟨f.zero s, 0⟩ else freeFn slot f s m e
  | 12, .inf s => ⟨if s then f.zero true else f.infBits false, 0⟩
  | 12, .fin s m e => if m = 0 then ⟨f.zero s, 0⟩ else freeFn slot f s m e
  | 13, .inf s => ⟨f.one s, 0⟩
  | 13, .fin s m e => if m = 0 then ⟨f.zero s, 0⟩ else freeFn slot f s m e
  | _, _ => ⟨f.nan, 0⟩

/-- A shipped slot on an element that is not a NaN. Its microprogram reads the table RAM, and what it makes of words that a
package has set is free (log 86). -/
def SfBank.builtIn (b : SfBank) (n : Nat) (f : Fmt) (x : Nat) : FRes :=
  if b.table.isEmpty then Sys2Proof.Machine.shipped n f x
  else ⟨Config.patchedFn n f.num b.table x % 2 ^ f.width, Config.patchedFlags n f.num b.table x⟩

/-- A slot of the active bank on one element: an empty slot gives its result whatever the input (14 R325, R329). -/
def sfElem (b : SfBank) (slot : Nat) (f : Fmt) (mode : RMode) (x : Nat) : FRes :=
  let empty : FRes := ⟨f.nan, flNV⟩
  let unlessNan := fun r : FRes =>
    match f.decode x with
    | .nan sig => ⟨f.nan, if sig then flNV else 0⟩
    | _ => r
  match b.slot slot with
  | .empty => empty
  | .shipped n => unlessNan (b.builtIn n f x)
  | .image ws => if imageOk ws f then unlessNan (runImage b ws f mode x) else empty

/-- A slot in NX-3 compatibility mode: the bits are that unit's; the flags of a NaN are those of R325 (14 R332). -/
def nx3Elem (slot : Nat) (f : Fmt) (x : Nat) : FRes :=
  if slot < 14 then
    ⟨(Config.nx3Fn slot f.num (BitVec.ofNat 64 x)).toNat % 2 ^ f.width,
      match f.decode x with
      | .nan sig => if sig then flNV else 0
      | _ => Config.nx3Flags slot f.num (BitVec.ofNat 64 x)⟩
  else ⟨f.nan, flNV⟩

/-- SFN on a row. -/
def sfnRow (b : SfBank) (cm : Bool) (op : SfOp) : Val × Flags :=
  match op.t.tag.fmt with
  | none => (.zero, 0)
  | some f =>
    let slot := bitsN op.o0 0 8
    let rs := (elems op.t.row f.width).zipIdx.map fun (x, i) =>
      if elemPicked op.sel f.width i then
        (if cm then nx3Elem slot f x else sfElem b slot f (RMode.of op.mode) x)
      else ⟨0, 0⟩
    (Val.ofRow (packRow f.width (rs.map (·.bits))) op.t.tag, rs.foldl (fun a r => a ||| r.fl) 0)

/-! ### SFROW (14 R328) -/

def mergeAdd (a b : Nat) : Nat × Flags :=
  let r := Fmt.f64.add .rne a b
  (r.bits, r.fl)

/-- A binary64 divided by a count, rounded once. -/
def divCount (x : Nat) (n : Nat) : FRes :=
  match f64dec x with
  | .fin s m e => if m = 0 then ⟨Fmt.f64.zero s, 0⟩ else Fmt.f64.roundQuot .rne s m n e
  | y => Fmt.f64.ofFp .rne y

/-- The larger of two data, −0 below +0. -/
def fpMax (a b : Nat) : Nat :=
  if fpLess a b then b
  else if fpLess b a then a
  else if (f64dec a).sign then b else a

/-- A fold whose step returns a binary64 and flags. -/
def foldFl (f : Nat → Nat → Nat × Flags) (z : Nat) (xs : List Nat) : Nat × Flags :=
  xs.foldl (fun (a, fl) x => let r := f a x; (r.1, fl ||| r.2)) (z, 0)

/-- Blocks of 64. -/
def blocks64 (xs : List Nat) : List (List Nat) :=
  (List.range ((xs.length + 63) / 64)).map fun b => (xs.drop (64 * b)).take 64

def orAll (l : List Flags) : Flags := l.foldl (fun a b => a ||| b) 0

def mergeAll (ps : List Nat) : Nat × Flags := mergeTree mergeAdd 0 13 ps

/-- The statistics of N elements: the FP64 row's elements 0 to 3, and the flags. -/
def sfRow (b : SfBank) (mode : RMode) (raw : List Fp) : List Nat × Flags :=
  if raw.any Fp.isNan then
    (List.replicate 4 Fmt.f64.nan, if raw.any Fp.isSig then flNV else 0)
  else
    let xs := raw.map fun x => (Fmt.f64.ofFp .rne x).bits
    let mx := xs.foldl fpMax (Fmt.f64.infBits true)
    let exps := foldFl fun a x =>
      let d := Fmt.f64.sub .rne x mx
      let y := sfElem b 0 .f64 mode d.bits
      let r := Fmt.f64.add .rne a y.bits
      (r.bits, d.fl ||| y.fl ||| r.fl)
    let ss := (blocks64 xs).map (exps 0)
    let us := (blocks64 xs).map (foldFl mergeAdd 0)
    let s := mergeAll (ss.map (·.1))
    let u := mergeAll (us.map (·.1))
    let mean := divCount u.1 xs.length
    let sq := foldFl fun a x =>
      let d := Fmt.f64.sub .rne x mean.bits
      let q := Fmt.f64.mul .rne d.bits d.bits
      let r := Fmt.f64.add .rne a q.bits
      (r.bits, d.fl ||| q.fl ||| r.fl)
    let ws := (blocks64 xs).map (sq 0)
    let w := mergeAll (ws.map (·.1))
    let var := divCount w.1 xs.length
    ([mx, s.1, mean.bits, var.bits],
      orAll (ss.map (·.2)) ||| orAll (us.map (·.2)) ||| orAll (ws.map (·.2)) ||| s.2 ||| u.2 ||| w.2 ||| mean.fl |||
        var.fl)

/-! ### SFLD (14 R331) -/

/-- The signed part of a package: header, slot entries, table words. -/
def pkgLen (hdr : W64) : Nat := 64 + 280 * bitsN hdr 0 16 + 8 * bitsN hdr 32 16

/-- The header's fields within their limits, every other byte zero. -/
def pkgOk (m : Mem) (off : Nat) : Bool :=
  let h := m.double off
  decide (bitsN h 0 16 ≤ 256) && decide (bitsN h 16 16 + bitsN h 32 16 ≤ 1024) && decide (bitsN h 56 8 = 0) &&
    (m.read (off + 8) 56).all (· == 0)

/-- The bank after a package's entries and table words. -/
def SfBank.load (b : SfBank) (m : Mem) (off : Nat) : SfBank :=
  let h := m.double off
  let ns := bitsN h 0 16
  let b := (List.range ns).foldl
    (fun b i =>
      let o := off + 64 + 280 * i
      { b with slots := put (m.value o 1) ((List.range 34).map fun k => m.double (o + 8 + 8 * k)) b.slots }) b
  (List.range (bitsN h 32 16)).foldl
    (fun b i => { b with table := put (bitsN h 16 16 + i) (m.double (off + 64 + 280 * ns + 8 * i)) b.table }) b

/-- The security processor accepts the package's signature. -/
def pkgVerified (m : Mem) (off : Nat) : Bool :=
  let h := m.double off
  let n := pkgLen h
  Config.verifies (bitsN h 48 8) (sha3_512 (m.read off n)) (m.read (off + n) 4627)

/-! ### The queue -/

/-- The scratchpad range an operation reads. -/
def SfOp.range (t : Tile) (op : SfOp) : Nat × Nat :=
  let off := op.t.lo.toNat
  match op.opc.toNat with
  | 1 =>
    let w := ((Tag.ofCode (op.o0.extractLsb' 16 6)).width).getD 8
    (off, bitsN op.o0 0 14 * (w / 8))
  | 2 => (off, pkgLen (t.spm.double off) + 4627)
  | _ => (0, 0)

/-- The operation at the head of SF's queue runs to its end; a package accepted is measured by the security processor.
Nothing happens while an earlier AU store to its range is open (14 R313, R328); a later one's bytes are not there yet
(log 100). -/
def Tile.sfStep (t : Tile) (tid : Nat) : Tile × Option (BitVec 512) :=
  match t.sf.queue with
  | [] => (t, none)
  | op :: rest =>
    let (off, n) := op.range t
    if t.storeOpen tid off n op.nb then (t, none)
    else
      let u := { t with sf := { t.sf with queue := rest } }
      if t.spmBad off n then (u.arriveFault 6 op.id ⟨0x14, BitVec.ofNat 64 off, 0, 0⟩, none)
      else
        match op.opc.toNat with
        | 0 =>
          let r := sfnRow t.sf.bank op.cm op
          (u.arrive 6 op.id r.1 r.2, none)
        | 1 =>
          let f := ((Tag.ofCode (op.o0.extractLsb' 16 6)).fmt).getD .f64
          let w := f.width / 8
          let xs := (List.range (bitsN op.o0 0 14)).map fun i => f.decode (t.spm.value (off + w * i) w)
          let r := sfRow t.sf.bank (RMode.of op.mode) xs
          (u.arrive 6 op.id (Val.ofRow (packRow 64 r.1) .fp64) r.2, none)
        | 2 =>
          let shadow := t.sf.bank.load t.spm off
          if pkgVerified t.spm off then
            let g := t.sf.gen + 1
            ({ u with sf := { u.sf with bank := shadow, shadow := t.sf.bank, gen := g } }.arrive 6 op.id
              (.ofScalar (g.setWidth 64 <<< 32)) 0, some (sha3_512 (t.spm.read off (pkgLen (t.spm.double off)))))
          else
            ({ u with sf := { u.sf with shadow := shadow } }.arrive 6 op.id
              (.ofScalar ((t.sf.gen.setWidth 64 <<< 32) ||| 1)) 0, none)
        | _ =>
          (u.arrive 6 op.id (.ofScalar ((t.sf.gen.setWidth 64 <<< 32) ||| boolW (op.o0.getLsbD 0))) 0, none)

/-! ### Triggers -/

def sfFire (opc : BitVec 6) (rtag : TCtx → Tag) (c : TCtx) (t : Tile) : Tile :=
  let op : SfOp := ⟨t.nextId, t.nb, opc, c.t, c.o0.lo, c.sel, c.old.fpc.setWidth 2, c.old.sf.cm⟩
  let u := t.takePlace 6 (rtag c) (c.ops .sf opc)
  { u with sf := { u.sf with queue := u.sf.queue ++ [op] } }

def sfnSpec (e : Bool) : TrigSpec where
  sock := .sf
  opc := 0
  e := e
  place := true
  check := fun c =>
    if !c.t.tag.isFp || (c.old.sf.cm && c.t.tag == .fp64) then formatTrap .sf c.t.tag
    else require .sf (c.o0.lo.toNat < 256)
  fire := sfFire 0 (·.t.tag)

def sfrowSpec (e : Bool) : TrigSpec where
  sock := .sf
  opc := 1
  e := e
  place := true
  check := fun c =>
    let k := c.o0.lo
    let n := bitsN k 0 14
    let tag := Tag.ofCode (k.extractLsb' 16 6)
    let off := c.t.lo.toNat
    match tag.fmt with
    | none => invalid .sf
    | some f =>
      if k &&& ~~~0x3F3FFF ≠ 0 ∨ n = 0 ∨ 8192 < n ∨ off % (f.width / 8) ≠ 0 then invalid .sf
      else if c.limit < off + n * (f.width / 8) then accessTrap .sf off
      else none
  fire := sfFire 1 (fun _ => .fp64)

def sfldSpec (e : Bool) : TrigSpec where
  sock := .sf
  opc := 2
  e := e
  place := true
  check := fun c =>
    let off := c.t.lo.toNat
    if off % 64 ≠ 0 then invalid .sf
    else if c.limit < off + 64 then accessTrap .sf off
    else if !pkgOk c.old.spm off then invalid .sf
    else if c.limit < off + pkgLen (c.old.spm.double off) + 4627 then accessTrap .sf off
    else none
  fire := sfFire 2 (fun _ => .raw)

/-- SFCM's mode changes at the end of its bundle; its result, the mode before, comes in turn (14 R332). -/
def sfcmSpec (e : Bool) : TrigSpec where
  sock := .sf
  opc := 3
  e := e
  place := true
  check := fun c => require .sf (c.t.lo.toNat < 4)
  fire := fun c t =>
    let op : SfOp := ⟨t.nextId, t.nb, 3, c.t, boolW t.sf.cm, c.sel, 0, t.sf.cm⟩
    let u := t.takePlace 6 .raw (c.ops .sf 3)
    { u with sf := { u.sf with
      queue := u.sf.queue ++ [op]
      cm := if c.t.lo.getLsbD 1 then u.sf.cm else c.t.lo.getLsbD 0 } }

end Sys2Proof.Machine
end

