-- ==== Sys2Proof/Machine/Specs.lean ====
section
/-! DEFINITION. The operation each trigger names. -/
namespace Sys2Proof.Machine

/-- The operation of a trigger; none of a plain transport or of an event. -/
def specOf : Instr → Option TrigSpec
  | .br _ e => some (brSpec e)
  | .jmp _ e => some (jmpSpec e)
  | .call _ e => some (callSpec e)
  | .ret _ e => some (retSpec e)
  | .loop _ e => some (loopSpec e)
  | .endTile _ e => some (endSpec e)
  | .trap _ e => some (trapSpec e)
  | .tret _ e => some (tretSpec e)
  | .add _ u e => some (addSpec u e)
  | .sub _ u e => some (subSpec u e)
  | .and _ u e => some (andSpec u e)
  | .andn _ u e => some (andnSpec u e)
  | .or _ u e => some (orSpec u e)
  | .xor _ u e => some (xorSpec u e)
  | .shl _ u e => some (shlSpec u e)
  | .shr _ u e => some (shrSpec u e)
  | .sar _ u e => some (sarSpec u e)
  | .rol _ u e => some (rolSpec u e)
  | .min _ u e => some (minSpec u e)
  | .minU _ u e => some (minUSpec u e)
  | .max _ u e => some (maxSpec u e)
  | .maxU _ u e => some (maxUSpec u e)
  | .cmpEq _ u e => some (cmpEqSpec u e)
  | .cmpNe _ u e => some (cmpNeSpec u e)
  | .cmpLt _ u e => some (cmpLtSpec u e)
  | .cmpLe _ u e => some (cmpLeSpec u e)
  | .cmpLtu _ u e => some (cmpLtuSpec u e)
  | .cmpLeu _ u e => some (cmpLeuSpec u e)
  | .sel _ u e => some (selSpec u e)
  | .clz _ u e => some (clzSpec u e)
  | .popc _ u e => some (popcSpec u e)
  | .bext _ u e => some (bextSpec u e)
  | .bins _ u e => some (binsSpec u e)
  | .sext _ u e => some (sextSpec u e)
  | .pand _ u e => some (pandSpec u e)
  | .por _ u e => some (porSpec u e)
  | .pxor _ u e => some (pxorSpec u e)
  | .mul _ e => some (mulSpec e)
  | .mulh _ e => some (mulhSpec e)
  | .mulhU _ e => some (mulhUSpec e)
  | .mad _ e => some (madSpec e)
  | .div _ e => some (divSpec e)
  | .divU _ e => some (divUSpec e)
  | .rem _ e => some (remSpec e)
  | .remU _ e => some (remUSpec e)
  | .ldB _ e => some (ldBSpec e)
  | .ldH _ e => some (ldHSpec e)
  | .ldW _ e => some (ldWSpec e)
  | .ldD _ e => some (ldDSpec e)
  | .ldBz _ e => some (ldBzSpec e)
  | .ldHz _ e => some (ldHzSpec e)
  | .ldWz _ e => some (ldWzSpec e)
  | .stB _ e => some (stBSpec e)
  | .stH _ e => some (stHSpec e)
  | .stW _ e => some (stWSpec e)
  | .stD _ e => some (stDSpec e)
  | .stDRel _ e => some (stDRelSpec e)
  | .vld _ e => some (vldSpec e)
  | .vst _ e => some (vstSpec e)
  | .gld _ e => some (gldSpec e)
  | .sct _ e => some (sctSpec e)
  | .ldt _ e => some (ldtSpec e)
  | .ldtV _ e => some (ldtVSpec e)
  | .rdm _ e => some (rdmSpec e)
  | .rdmS _ e => some (rdmSSpec e)
  | .tkq _ e => some (tkqSpec e)
  | .tkx _ e => some (tkxSpec e)
  | .amoAdd _ e => some (amoAddSpec e)
  | .amoMin _ e => some (amoMinSpec e)
  | .amoMax _ e => some (amoMaxSpec e)
  | .amoAnd _ e => some (amoAndSpec e)
  | .amoOr _ e => some (amoOrSpec e)
  | .amoXor _ e => some (amoXorSpec e)
  | .amoXchg _ e => some (amoXchgSpec e)
  | .amoCas _ e => some (amoCasSpec e)
  | .amoAddAcq _ e => some (amoAddAcqSpec e)
  | .amoMinAcq _ e => some (amoMinAcqSpec e)
  | .amoMaxAcq _ e => some (amoMaxAcqSpec e)
  | .amoAndAcq _ e => some (amoAndAcqSpec e)
  | .amoOrAcq _ e => some (amoOrAcqSpec e)
  | .amoXorAcq _ e => some (amoXorAcqSpec e)
  | .amoXchgAcq _ e => some (amoXchgAcqSpec e)
  | .amoCasAcq _ e => some (amoCasAcqSpec e)
  | .amoAddRel _ e => some (amoAddRelSpec e)
  | .amoMinRel _ e => some (amoMinRelSpec e)
  | .amoMaxRel _ e => some (amoMaxRelSpec e)
  | .amoAndRel _ e => some (amoAndRelSpec e)
  | .amoOrRel _ e => some (amoOrRelSpec e)
  | .amoXorRel _ e => some (amoXorRelSpec e)
  | .amoXchgRel _ e => some (amoXchgRelSpec e)
  | .amoCasRel _ e => some (amoCasRelSpec e)
  | .pref _ e => some (prefSpec e)
  | .spb _ e => some (spbSpec e)
  | .fla _ e => some (flaSpec e)
  | .loc _ e => some (locSpec e)
  | .phaseT _ e => some (phaseTSpec e)
  | .phaseG _ e => some (phaseGSpec e)
  | .bar _ e => some (barSpec e)
  | .fence _ e => some (fenceSpec e)
  | .wait _ e => some (waitSpec e)
  | .slns _ e => some (slnsSpec e)
  | .twns _ e => some (twnsSpec e)
  | .tstmp _ e => some (tstmpSpec e)
  | .cycle _ e => some (cycleSpec e)
  | .enq _ e => some (enqSpec e)
  | .join _ e => some (joinSpec e)
  | .mode _ e => some (modeSpec e)
  | .srd _ e => some (srdSpec e)
  | .swr _ e => some (swrSpec e)
  | .send _ e => some (sendSpec e)
  | .sendP _ e => some (sendPSpec e)
  | .recv _ e => some (recvSpec e)
  | .strm _ e => some (strmSpec e)
  | .coll _ e => some (collSpec e)
  | .cpy _ e => some (cpySpec e)
  | .cpym _ e => some (cpymSpec e)
  | .cpnest _ e => some (cpnestSpec e)
  | .cpbuf _ e => some (cpbufSpec e)
  | .cpadv _ e => some (cpadvSpec e)
  | .vadd _ e => some (vaddSpec e)
  | .vaddS _ e => some (vaddSSpec e)
  | .vsub _ e => some (vsubSpec e)
  | .vsubS _ e => some (vsubSSpec e)
  | .vmul _ e => some (vmulSpec e)
  | .vmad _ e => some (vmadSpec e)
  | .vand _ e => some (vandSpec e)
  | .vor _ e => some (vorSpec e)
  | .vxor _ e => some (vxorSpec e)
  | .vshl _ e => some (vshlSpec e)
  | .vshr _ e => some (vshrSpec e)
  | .vshrA _ e => some (vshrASpec e)
  | .vmin _ e => some (vminSpec e)
  | .vmax _ e => some (vmaxSpec e)
  | .vabs _ e => some (vabsSpec e)
  | .vcmpEq _ e => some (vcmpEqSpec e)
  | .vcmpNe _ e => some (vcmpNeSpec e)
  | .vcmpLt _ e => some (vcmpLtSpec e)
  | .vcmpLe _ e => some (vcmpLeSpec e)
  | .vcmpLtu _ e => some (vcmpLtuSpec e)
  | .vcmpLeu _ e => some (vcmpLeuSpec e)
  | .vsel _ e => some (vselSpec e)
  | .fadd _ u e => some (faddSpec u e)
  | .fsub _ u e => some (fsubSpec u e)
  | .fmul _ u e => some (fmulSpec u e)
  | .ffma _ u e => some (ffmaSpec u e)
  | .ffmaN _ u e => some (ffmaNSpec u e)
  | .ffms _ u e => some (ffmsSpec u e)
  | .fmin _ u e => some (fminSpec u e)
  | .fmax _ u e => some (fmaxSpec u e)
  | .fabs _ u e => some (fabsSpec u e)
  | .fabsNeg _ u e => some (fabsNegSpec u e)
  | .fabsSgn _ u e => some (fabsSgnSpec u e)
  | .fcmpEq _ u e => some (fcmpEqSpec u e)
  | .fcmpNe _ u e => some (fcmpNeSpec u e)
  | .fcmpLt _ u e => some (fcmpLtSpec u e)
  | .fcmpLe _ u e => some (fcmpLeSpec u e)
  | .fcmpUn _ u e => some (fcmpUnSpec u e)
  | .fcmpOrd _ u e => some (fcmpOrdSpec u e)
  | .fcvt _ u e => some (fcvtSpec u e)
  | .frnd _ u e => some (frndSpec u e)
  | .vperm _ e => some (vpermSpec e)
  | .vbcst _ e => some (vbcstSpec e)
  | .vredAdd _ e => some (vredAddSpec e)
  | .vredMin _ e => some (vredMinSpec e)
  | .vredMax _ e => some (vredMaxSpec e)
  | .vscanAdd _ e => some (vscanAddSpec e)
  | .vcmpx _ e => some (vcmpxSpec e)
  | .vqnt _ e => some (vqntSpec e)
  | .vqntSr _ e => some (vqntSrSpec e)
  | .vdqn _ e => some (vdqnSpec e)
  | .vcvt _ e => some (vcvtSpec e)
  | .ori2 _ e => some (ori2Spec e)
  | .ori3 _ e => some (ori3Spec e)
  | .incir _ e => some (incirSpec e)
  | .insph _ e => some (insphSpec e)
  | .segx _ e => some (segxSpec e)
  | .gpst _ e => some (gpstSpec e)
  | .sfn _ e => some (sfnSpec e)
  | .sfrow _ e => some (sfrowSpec e)
  | .sfld _ e => some (sfldSpec e)
  | .sfcm _ e => some (sfcmSpec e)
  | .mlda _ e => some (mldaSpec e)
  | .mldb _ e => some (mldbSpec e)
  | .mma _ e => some (mmaSpec e)
  | .mzro _ e => some (mzroSpec e)
  | .mrd _ e => some (mrdSpec e)
  | .mqrd _ e => some (mqrdSpec e)
  | _ => none

end Sys2Proof.Machine
end

