-- ==== Sys2Proof/Machine/Issue.lean ====
section
/-! DEFINITION. One cycle of a tile: what moves before the bundle, the bundle boundary, the fetch, the landings, the tile
lock, the order of causes, the bundle's effects, and where the flow goes (chapters 02, 04, 05, 07, 15). -/
namespace Sys2Proof.Machine

/-! ### Moves -/

/-- What a move does with its value. -/
inductive Act where
  | plain (d : Dst)
  | trig (s : TrigSpec)

/-- A move whose guard lets something through, with the value it carries. -/
structure Mv where
  h : Head
  act : Act
  val : Val
  gate : Gate

/-- A move word's head and what it does. -/
def actOf : Instr → Option (Head × Act)
  | .move h d => some (h, .plain d)
  | i => match i.head?, specOf i with
    | some h, some s => some (h, .trig s)
    | _, _ => none

/-- A move evaluated before the bundle's writes; none where its guard lets nothing through (04 R82, 05 R113). -/
def Tile.evalMove (env : Env) (t : Tile) (m : Head × Act) : Option Mv :=
  let v := t.srcVal env m.1.bus.kind m.1.src
  match t.gate m.1 (t.gateTag m.1.src v.tag) with
  | .off => none
  | g => some ⟨m.1, m.2, v, g⟩

def Mv.spec? (m : Mv) : Option TrigSpec :=
  match m.act with
  | .trig s => some s
  | .plain _ => none

/-- The move reads or writes the row port `spr`. -/
def Mv.usesSpr (m : Mv) : Bool :=
  m.h.src == .port .spr ||
    match m.act with
    | .plain d => d == .spr
    | .trig _ => false

/-- The move reads the result port of fixed-latency socket `k`. -/
def Mv.readsFixed (m : Mv) (k : Nat) : Bool :=
  match m.h.src with
  | .res s _ => fixedIdx s == some k
  | _ => false

/-- The operand entries after the bundle's own writes into them (02 R24). -/
def entriesAfter (old : Tile) (ms : List Mv) : Vector Val 120 :=
  (ms.foldl (fun t m =>
    match m.act with
    | .plain (.opnd k n e) => Tile.dstWrite old t m.h.bus.kind m.gate m.val (.opnd k n e)
    | _ => t) old).opnd

/-- The places of MX's queue that the bundle's MX trigger takes: an MZRO of no accumulator takes none (12 R270, R273). -/
def entersMx (ms : List Mv) : Nat :=
  if ms.any fun m => m.spec?.any fun s => s.sock == .mx && !(s.opc == 3 && decide (m.val.lo &&& 0xF = 0)) then 1 else 0

/-- What an operation samples. -/
def mkCtx (env : Env) (old : Tile) (opnd : Vector Val 120) (ms : List Mv) (h len : Nat) (m : Mv) (s : TrigSpec) : TCtx where
  env := env
  old := old
  opnd := opnd
  o0 := vget .zero opnd (opndIdx s.sock 0 s.e)
  o1 := vget .zero opnd (opndIdx s.sock 1 s.e)
  t := trigVal s.sock m.h.bus.kind m.val
  e := s.e
  sel := match m.gate with
    | .lanes b _ => b
    | _ => BitVec.allOnes 128
  h := h
  len := len
  entersMx := entersMx ms

/-- The triggers of a bundle in the order they fire: MX, then the others by socket number. -/
def firing (ms : List Mv) : List (Mv × TrigSpec) :=
  let ts := ms.filterMap fun m => m.spec?.map fun s => (m, s)
  ([14, 0, 1, 2, 3, 4, 5, 6, 7, 8, 9, 10, 11, 12, 13] : List Nat).flatMap fun k =>
    ts.filter fun (_, s) => s.sock.num.toNat == k

/-! ### The start of a bundle -/

/-- The landings of the waiting bundle: MX's load and MMAs, then every port (02 R39, R40, 12 R275). MX holds while INH
is 1. -/
def Tile.landings (t : Tile) : Tile × List Nat := if t.inh then t.landAll else t.mxReady.mxComplete.landAll

/-- MX's start, after the landings. -/
def Tile.startMx (t : Tile) : Tile := if t.inh then t else t.mxStart

/-- The act is END. -/
def Act.ends : Act → Bool
  | .trig s => s.sock == .cu && s.opc == 5
  | .plain _ => false

/-- The bundle performs END. -/
def Tile.ending (env : Env) (t : Tile) (is : List (Head × Act)) : Bool :=
  is.any fun m => m.2.ends && (t.evalMove env m).isSome

/-- What the moves of a bundle read: MX has started what is due, but for a bundle that performs END (19 R412). -/
def Tile.begin (env : Env) (t : Tile) (is : List (Head × Act)) : Tile := if t.ending env is then t else t.startMx

/-- The bundle start undone that an event made ahead of the bundle. -/
def Tile.undo (t : Tile) : Tile :=
  match t.pre with
  | none => t
  | some p => { t with fixed := p.fixed, mx := p.mx, fpc := p.fpc, pre := none }

/-! ### The tile lock (02 R46) -/

/-- The lock conditions that the moves' ports and registers raise. -/
def portLocks (env : Env) (t : Tile) (ms : List Mv) : BitVec 6 :=
  ms.foldl (fun b m =>
    b ||| t.srcLock env m.h.src |||
      match m.act with
      | .plain d => t.dstLock env d
      | .trig _ => 0) 0

/-- The move writes an operand entry of the socket. -/
def Mv.feeds (m : Mv) (k : Sock) : Bool :=
  match m.act with
  | .plain (.opnd k' _ _) => k' == k
  | _ => false

/-- What a trigger of the bundle samples stands: no lock holds its source, or that of a move into its operand entries. -/
def Tile.stands (t : Tile) (env : Env) (ms : List Mv) (m : Mv) (s : TrigSpec) : Bool :=
  t.srcLock env m.h.src == 0 && ms.all fun x => !x.feeds s.sock || t.srcLock env x.h.src == 0

/-- The condition that an operation raises at its trigger, where what it samples stands. -/
def trigLocks (env : Env) (t : Tile) (ctx : Mv → TrigSpec → TCtx) (ms : List Mv) : BitVec 6 :=
  if ms.any fun m => m.spec?.any fun s => t.stands env ms m s && s.lock (ctx m s) then 32 else 0

/-- The lock conditions that hold whatever the bundle's moves are; a bundle that performs END waits for no start of MX (19
R412). -/
def Tile.boundLocks (t : Tile) (env : Env) (ends : Bool) : BitVec 6 :=
  if t.syncHolds || t.slnsHolds || (!t.inh && !ends && t.mxHeld env.tid) then 32 else 0

/-! ### The order of causes (15 R336) -/

/-- The deferred-store trap with the record it delivers (10 R227, 15 R335). -/
def Tile.deferredTrap (t : Tile) : Trap :=
  match t.deferred with
  | none => { code := 0x1A }
  | some d =>
    { code := 0x1A, addr := d.addr, aux := if d.cause = 0x11 then d.aux else 0,
      dcnt := BitVec.ofNat 8 (min d.count 0xFF), dcause := d.cause }

/-- The bundle delivers a deferred fault: FENCE, PHASE.T, PHASE.G, ST.D.REL, an AMO.REL (10 R227). -/
def TrigSpec.delivering (s : TrigSpec) : Bool :=
  (s.sock == .sy && (s.opc == 0x00 || s.opc == 0x01 || s.opc == 0x03)) ||
    (s.sock == .au && (s.opc == 0x0C || (decide (0x30 ≤ s.opc.toNat) && decide (s.opc.toNat ≤ 0x37))))

/-- The result-queue overflow of a trigger (02 R44). The places are counted before the bundle's own reads: a read of the head in
the same bundle frees none for it (log 96). -/
def overflowTrap (t : Tile) (c : TCtx) (s : TrigSpec) : Option Trap :=
  if s.place && s.delivers c then
    let full := fun r2 => match queueIdx s.sock r2 with
      | some k => decide (queueDepth k ≤ (t.queue k).length)
      | none => false
    if full false || full true then some { code := 0x08, sock := s.sock.num } else none
  else none

/-- The memory error of the load that becomes ready (12 R278). -/
def Tile.mxErrorTrap (t : Tile) : Option Trap :=
  if !t.inh && t.mxError then
    some { code := 0x14, sock := Sock.mx.num,
           addr := BitVec.ofNat 64 (((t.mx.load.map fun l => (l.op.ranges.head?.map (·.1)).getD 0)).getD 0) }
  else none

/-- The port and trigger checks of one move. -/
def moveTrap (env : Env) (t : Tile) (ctx : Mv → TrigSpec → TCtx) (m : Mv) : Option Trap :=
  firstTrap (t.srcTrap env m.h.src)
    (match m.act with
    | .plain d => t.dstTrap env d
    | .trig s => firstTrap (s.check (ctx m s)) (overflowTrap t (ctx m s) s))

/-- The port and trigger checks of one move of a locked bundle: what a trigger does not sample yet is not checked. -/
def heldTrap (env : Env) (t : Tile) (ctx : Mv → TrigSpec → TCtx) (ms : List Mv) (m : Mv) : Option Trap :=
  match m.spec? with
  | some s => if t.stands env ms m s then moveTrap env t ctx m else t.srcTrap env m.h.src
  | none => moveTrap env t ctx m

/-- A data-lock collision that no move of the bundle clears (02 R40). -/
def overrun (cs : List Nat) (ms : List Mv) : Bool := !(cs.all fun k => ms.any fun m => m.readsFixed k)

/-- The causes that hold whatever the bundle's other ports deliver: a deferred fault, a faulted result. -/
def earlyCause (t u : Tile) (ms : List Mv) : Option Trap :=
  firstTrap
    (if t.dfp && !t.inh && ms.any (fun m => m.spec?.any (·.delivering)) then some t.deferredTrap else none)
    (ms.findSome? fun m => u.faultTrap m.h.src)

/-- The first cause of an unlocked bundle: `t` before the landings, `u` after them, `cs` its data-lock collisions. -/
def firstCause (env : Env) (t u : Tile) (cs : List Nat) (ctx : Mv → TrigSpec → TCtx) (ms : List Mv) : Option Trap :=
  firstTrap (earlyCause t u ms)
    (firstTrap t.mxErrorTrap
      (firstTrap (ms.findSome? (moveTrap env u ctx)) (if overrun cs ms then some { code := 0x07 } else none)))

/-- What the entry of trap `x` has delivered is cleared: the deferred record (10 R227), the error mark of MX's load (12
R278). A result that only carries such a code clears neither. -/
def Tile.delivered (t : Tile) (x : Trap) : Tile :=
  if x.onResult then t
  else if x.code = 0x1A then { t with deferred := none, syncFault := false }
  else if x.code = 0x14 ∧ x.sock = Sock.mx.num ∧ t.mxError = true then t.mxErrorTaken
  else t

/-- Taking a trap at the bundle, from the tile before its landings: an entry that succeeds delivers it; one that becomes
fatal leaves every record as it stands (15 R337, log 93). -/
def Tile.take (env : Env) (t : Tile) (x : Trap) : Issue :=
  let entered := fun w : Tile => if t.inh || !w.inh then w else w.delivered x
  match t.trapAt env x with
  | .next w => .next (entered w)
  | .need p e => .need p (e.map entered)
  | .locked b => .locked b

/-- What ends a locked bundle: a collision that it does not clear, with the first cause of 15 R336 (02 R40, log 15). -/
def heldCause (env : Env) (t u : Tile) (cs : List Nat) (ctx : Mv → TrigSpec → TCtx) (ms : List Mv) : Option Trap :=
  if overrun cs ms then
    some ((firstTrap (earlyCause t u ms) (firstTrap t.mxErrorTrap (ms.findSome? (heldTrap env u ctx ms)))).getD { code := 0x07 })
  else none

/-- What a locked bundle comes to: it waits, unless a cause ends it. -/
def Tile.held (env : Env) (t : Tile) (x : Option Trap) (bits : BitVec 6) : Issue :=
  match x with
  | some x => t.take env x
  | none => .locked bits

/-! ### The bundle's effects (02 R24, R28, 05 R103) -/

/-- Each source that is read removes what it removes, once. -/
def popAll (t : Tile) (ms : List Mv) : Tile := ((ms.map (·.h.src)).eraseDups.filter Src.pops).foldl Tile.srcPop t

def writeAll (old t : Tile) (ms : List Mv) : Tile :=
  ms.foldl (fun t m =>
    match m.act with
    | .plain d => Tile.dstWrite old t m.h.bus.kind m.gate m.val d
    | .trig _ => t) t

/-- The triggers fire in order, each with its own trigger order. -/
def fireAll (ctx : Mv → TrigSpec → TCtx) (t : Tile) (fs : List (Mv × TrigSpec)) : Tile :=
  fs.foldl (fun t (m, s) => let u := s.fire (ctx m s) t; { u with nextId := u.nextId + 1 }) t

/-- The effects that come after the rotation, each under its trigger order. -/
def lateAll (ctx : Mv → TrigSpec → TCtx) (first : Nat) (t : Tile) (fs : List (Mv × TrigSpec)) : Tile :=
  let n := t.nextId
  let u := fs.zipIdx.foldl (fun t ((m, s), k) => s.late (ctx m s) { t with nextId := first + k }) t
  { u with nextId := n }

/-- A bundle that uses `spr` holds MX's load unit back (12 R275). -/
def extendMx (t : Tile) (ms : List Mv) : Tile :=
  if !t.inh && ms.any Mv.usesSpr then { t with mx := t.mx.extend } else t

/-- A place behind every frame's in the order of use (07 R161). It is told from the frames alone, so a launch or a resumption,
which leave them as they stand, keeps the order. -/
def Tile.nextUse (t : Tile) : Nat := (vlist t.frames).foldl (fun n f => max n f.used) 0 + 1

/-- The frame that the bundle issued from (07 R161). -/
def Tile.touchFrame (t : Tile) (h : Nat) : Tile :=
  match t.frameOf (h / 4096) with
  | none => t
  | some k => { t with frames := vput t.frames k { vget .empty t.frames k with used := t.nextUse } }

/-- The tile after the bundle's effects, its loop step and flow aside. -/
def Tile.effects (u : Tile) (ctx : Mv → TrigSpec → TCtx) (rot : Bool) (h : Nat) (ms : List Mv) : Tile :=
  let fs := firing ms
  let v := extendMx (fireAll ctx (writeAll u (popAll u ms) ms) fs) ms
  let v := (if rot then v.rotate else v).gZeroDead
  let v := (lateAll ctx u.nextId v fs).touchFrame h
  { v with nb := v.nb + 1, pre := none }

/-! ### The flow (07 R149 to R160) -/

/-- A place's operation issued again with the operands it captured, in place (15 R342, R346): the place carries the tag of its
trigger again. -/
def Tile.reissue (env : Env) (t : Tile) (k : Sock) (p : Place) : Tile :=
  match (Instr.ofTrig k p.ops.opc ⟨.s0, 0, .g 0⟩ p.ops.e).bind specOf with
  | none => t
  | some s =>
    let put := fun (v : Vector Val 120) port e (x : W64) => vput v (opndIdx k port e) (.ofScalar x)
    let opnd := put (put (put (put t.opnd 0 false p.ops.e00) 0 true p.ops.e01) 1 false p.ops.e10) 1 true p.ops.e11
    let c : TCtx :=
      { env := env, old := t, opnd := opnd, o0 := p.ops.o0, o1 := p.ops.o1, t := p.ops.t, e := p.ops.e
        sel := BitVec.allOnes 128, h := 0, len := 0, entersMx := 0 }
    let u := s.fire c { t with nextId := p.id }
    let keep := fun k =>
      let n := (t.queue k).length
      ((u.queue k).take n).map fun x =>
        match ((u.queue k).drop n).find? fun y => y.id == x.id with
        | some y => { x with rtag := y.rtag }
        | none => x
    { u with
      nextId := t.nextId
      queues := vofList 7 [] ((List.range 7).map keep) }

/-- TRET: the registers as they stood before the bundle say where to and what to resolve (07 R150, 15 R342). -/
def Tile.doTret (env : Env) (old v : Tile) (h : Nat) : Tile :=
  let w := (v.loopPop h).tretRestore
  let w := { w with pc := (bitsN old.tpc 0 30 : Nat), via := .xfer h, resTrap := false }
  let code := bitsN old.tcause 0 8
  match Sock.ofNum (old.tcause.extractLsb' 10 5) with
  | none => w
  | some k =>
    match queueIdx k (old.tcause.getLsbD 9) with
    | none =>
      match fixedIdx k with
      | some i =>
        if old.resTrap then
          let f := w.fixedAt i
          w.setFixed i { f with port := f.port.resolve old.rsol old.taddr }
        else w
      | none => w
    | some i =>
      if old.resTrap && resultCode code then
        let w' := w.setQueue i (resolvePlace old.rsol old.taddr (w.queue i))
        if old.rsol = 0 then
          match headOf false (w.queue i) with
          | some p => w'.reissue env k p
          | none => w'
        else w'
      else w

/-- The bundle after a bundle that took no transfer. -/
def Tile.flowOn (old v : Tile) (h len : Nat) : Tile :=
  let (w, back) := v.loopStep h
  match back with
  | some a => { w with pc := (a : Int), via := .xfer h }
  | none => { w with pc := (old.successor h len : Int), via := .seq }

/-- The entry of a trap once its bundle is over: where the handler's page must be loaded first, the entry waits for it
(07 R158, log 73). -/
def Tile.enterAfter (env : Env) (t : Tile) (x : Entering) : Issue :=
  match t.trapTo env x.trap x.tpc x.hdr none with
  | .need _ _ => .next { t with entering := some x }
  | i => i

/-- Where the flow goes after a completed bundle. -/
def Tile.leave (env : Env) (old v : Tile) (h len : Nat) : Flow → Issue
  | .seq => .next (Tile.flowOn old v h len)
  | .to a => .next { v.loopPop h with pc := a, via := .xfer h }
  | .push n le => .next (Tile.flowOn old (Tile.loopPush old v n le (old.successor h len)) h len)
  | .stop =>
    let w := v.loopPop h
    .next { w with run := .draining, queues := w.queues.map fun q => q.filter fun x => !x.ready }
  | .soft code =>
    let w := Tile.flowOn old v h len
    Tile.enterAfter env w ⟨{ code := 0x0C, swcode := code }, w.pc, h⟩
  | .tret => .next (Tile.doTret env old v h)

/-! ### The waiting bundle -/

/-- The flow a bundle asks for: its CU trigger's. -/
def flowOf (ctx : Mv → TrigSpec → TCtx) (ms : List Mv) : Flow :=
  match (firing ms).find? fun (_, s) => s.sock == .cu with
  | some (m, s) => s.flow (ctx m s)
  | none => .seq

/-- The waiting bundle, decoded: it traps, waits, or issues (02 R46, 15 R336). -/
def Tile.issue (env : Env) (t : Tile) (len : Nat) (rot : Bool) (is : List (Head × Act)) : Issue :=
  let h := t.pc.toNat
  if t.syncFault && t.dfp && !t.inh then t.take env t.deferredTrap
  else
    let l := t.landings
    let u := l.1.begin env is
    let ms := is.filterMap (u.evalMove env)
    let opnd := entriesAfter u ms
    let ctx := mkCtx env u opnd ms h len
    let ports := l.1.boundLocks env (l.1.ending env is) ||| portLocks env u ms
    let bits := ports ||| trigLocks env u ctx ms
    if bits ≠ 0 then t.held env (heldCause env t u l.2 ctx ms) bits
    else
      match firstCause env t u l.2 ctx ms with
      | some x => t.take env x
      | none =>
        match (firing ms).findSome? fun (m, s) => s.needPage (ctx m s) with
        | some p => .need p none
        | none => Tile.leave env u (u.effects ctx rot h ms) h len (flowOf ctx ms)

/-! ### Boundary and fetch -/

/-- The stream queue whose end-of-stream event is due (13 R309, 15 R337). -/
def Tile.streamDue (t : Tile) : Option Nat :=
  if t.inh then none else (List.range 6).find? fun q => (t.strmAt q).eos

/-- A stream-end event taken at the boundary. -/
def Tile.streamEnd (env : Env) (t : Tile) (q : Nat) : Issue :=
  let s := t.strmAt q
  let u := { t with strm := vput t.strm q { s with eos := false } }
  u.trapTo env { code := 0x20, aux := BitVec.ofNat 8 q } t.pc (t.pc % 2 ^ 30).toNat (some (bitsN s.bind 32 30))

/-- A park that a service core commanded (15 R344, R353). -/
def Tile.commandedPark (t : Tile) (tid : Nat) : Tile := { t.fatal tid 0x35 0 t.pc 0 with parkReq := false }

/-- What is taken at the boundary before the waiting bundle is considered: a stop, a park, the entry of a trap that waited
for its handler's page, a stream-end event. -/
def Tile.boundary (env : Env) (t : Tile) : Option Issue :=
  if t.stopReq || env.revoked then some (.next { t with run := .stopping, stopReq := false })
  else if t.parkReq then some (.next (t.commandedPark env.tid))
  else
    match t.entering with
    | some x => some ({ t with entering := none }.trapTo env x.trap x.tpc x.hdr none)
    | none => t.streamDue.map (t.streamEnd env)

/-- A word that starts no bundle: as the target of a transfer or of a launch, the misaligned-target trap (04 R76, 17 R379);
where sequential flow reaches it, check code 1 (04 R75, R96): also at the middle of a packet whose word began a bundle when it
was reached and was written over since (log 57). A launched entry has no transferring bundle: TADDR is its own address (log
57). -/
def Tile.offBundle (env : Env) (t : Tile) : Issue :=
  match t.via with
  | .xfer b => t.trapTo env { code := 0x02, addr := BitVec.ofNat 64 b } t.pc b none
  | .launch => t.trapAt env { code := 0x02, addr := BitVec.ofNat 64 t.pc.toNat }
  | .seq => t.trapAt env { code := 0x01, addr := BitVec.ofNat 64 t.pc.toNat, aux := 0x10 }

/-- The waiting bundle fetched and checked (04 R74 to R76, R96, 07 R150, R163). A target that is both outside the code
segment and misaligned takes the fetch fault (log 62); one that the bundles before it have run into beyond 30 bits is reported
modulo 2^30 (log 112). -/
def Tile.fetch (env : Env) (t : Tile) : Except Issue Bundle :=
  let h := t.pc.toNat
  if t.pc < 0 ∨ (env.codeLen : Int) ≤ t.pc then
    let at_ : W64 :=
      match t.via with
      | .xfer b => if 0 ≤ t.pc ∧ t.pc < 2 ^ 30 then BitVec.ofInt 64 t.pc else BitVec.ofNat 64 b
      | _ => BitVec.ofInt 64 (t.pc % 2 ^ 30)
    .error (t.trapAt env { code := 0x03, addr := at_ })
  else
    match t.codeWord h with
    | none => if h % 4 = 0 then .error (.need (h / 4096) none) else .error (t.offBundle env)
    | some w =>
      if h % 4 = 0 ∧ w.getLsbD 31 = true then
        match decodeBundle (t.packetFrom h) with
        | .ok b => .ok b
        | .error (c, off) =>
          .error (t.trapAt env { code := 0x01, addr := BitVec.ofNat 64 h, aux := BitVec.ofNat 8 (16 * c + off) })
      else .error (t.offBundle env)

/-- The waiting bundle as the tile's own code gives it. -/
def Tile.waiting (env : Env) (t : Tile) : Issue :=
  match t.boundary env with
  | some x => x
  | none =>
    match t.fetch env with
    | .error x => x
    | .ok b => t.issue env b.len b.rot (b.moves.filterMap actOf)

/-- The bundle that holds just one move, at the tile's PC: header, move word, literals. -/
def Tile.solo (env : Env) (t : Tile) (h : Head) (a : Act) : Issue :=
  match t.boundary env with
  | some x => x
  | none => t.issue env (2 + h.src.literals.length) false [(h, a)]

/-! ### A cycle -/

/-- A tile's running intervals changed: SLNS, the handler's, and the bounds of its WAITs. -/
def Tile.rescale (t : Tile) (f : Nat → Nat) : Tile :=
  { t with slns := f t.slns, slnsH := f t.slnsH, waits := t.waits.map fun w => { w with bound := w.bound.map f } }

/-- The Weir's response before an executed cycle (16 R366): of the 70 cycles left at an alarm the first six are stretched;
of the 64 halved ones every second is disabled, and goes by with the intervals counted down (16 R369). -/
def Tile.passDisabled (t : Tile) : Tile :=
  if t.weir < 64 ∧ t.weir % 2 = 1 then { t.rescale (· - 1) with weir := t.weir - 1 } else t

/-- What a tile's cycle brings before its bundle: a disabled cycle gone by, the Weir's count, CYC, the spill engine, GP,
SY's stamps, the bounds of WAITs (18 R409, 05 R120, 14 R322, 16 R366, R369). -/
def Tile.tick (env : Env) (t : Tile) : Tile :=
  let d := t.undo.passDisabled
  let u := Tile.spillCycle { d with cyc := d.cyc + 1, weir := d.weir - 1 }
  let u := (u.gpFinish.gpStart env.tid).stamp env.ns
  { u with waits := u.waits.map fun w => { w with bound := w.bound.map (· - 1) } }

/-- An SLNS interval counted down (20 R463): `a` before the cycle, `b` as the cycle's bundle left it. -/
def countDown (a b : Nat) : Nat := if a = 0 then b else a - 1

/-- One cycle of a running tile. A locked bundle, and one whose page must come first, leave it as the engines left it. -/
def Tile.clock (env : Env) (t : Tile) (body : Tile → Issue) : Tile :=
  let u := t.tick env
  let v := match body u with
    | .next w => w
    | _ => u
  { v with slns := countDown u.slns v.slns, slnsH := countDown u.slnsH v.slnsH }

/-- A cycle of a tile in which no bundle issues (07 R152). -/
def Tile.idleCycle (env : Env) (t : Tile) : Tile :=
  let u := t.tick env
  { u with slns := u.slns - 1, slnsH := u.slnsH - 1 }

end Sys2Proof.Machine
end

