-- ==== Sys2Proof/Machine/Waits.lean ====
section
/-! DEFINITION. The parts of the module by number, the ticket value and its class, and SY's WAIT (11 R236 to R238, R249,
21 R495, R496). -/
namespace Sys2Proof.Machine

/-! ### Parts by number; a part not listed is in its reset state -/

def State.tile (s : State) (t : Nat) : Tile := (look t s.tiles).getD .reset
def State.setTile (s : State) (t : Nat) (x : Tile) : State := { s with tiles := put t x s.tiles }
def State.onTile (s : State) (t : Nat) (f : Tile → Tile) : State := s.setTile t (f (s.tile t))
def State.slice (s : State) (k : Nat) : Slice := (look k s.slices).getD .reset
def State.setSlice (s : State) (k : Nat) (x : Slice) : State := { s with slices := put k x s.slices }
def State.cluster (s : State) (c : Nat) : Cluster := (look c s.clusters).getD .reset
def State.setCluster (s : State) (c : Nat) (x : Cluster) : State := { s with clusters := put c x s.clusters }
def State.row (s : State) (r : Nat) : VRow := (look r s.rows).getD .reset
def State.setRow (s : State) (r : Nat) (x : VRow) : State := { s with rows := put r x s.rows }
def State.image (s : State) (i : Nat) : Image := (look i s.dev.images).getD .reset
def State.setImage (s : State) (i : Nat) (x : Image) : State :=
  { s with dev := { s.dev with images := put i x s.dev.images } }

/-! ### The ticket value (11 R236 to R239) -/

def tkKind (t : W64) : Nat := bitsN t 60 4
def tkSlice (t : W64) : Nat := bitsN t 50 10
def tkEntry (t : W64) : Nat := bitsN t 39 11
def tkGen (t : W64) : BitVec 16 := t.extractLsb' 23 16

/-- The check bits under a slice's key (11 R237). -/
def tkCheck (t key : W64) : Nat := bitsN (((t >>> 9) ^^^ key) * 0x9E3779B97F4A7C15) 55 9

def mkTicket (kind slice entry : Nat) (gen : BitVec 16) (tid : Nat) (key : W64) : W64 :=
  let t := BitVec.ofNat 64 (kind <<< 60 + slice <<< 50 + entry <<< 39 + gen.toNat <<< 23 + tid <<< 9)
  t ||| BitVec.ofNat 64 (tkCheck t key)

/-! ### The class of a ticket (11 R249) -/

def Slice.ticket (x : Slice) (k : Nat) : Ticket := (look k x.tickets).getD .reset

inductive TkClass where
  | is (st : TkState)
  | spent | expired | invalid | null
  deriving DecidableEq, Repr

def Slice.classify (x : Slice) (t : W64) : TkClass :=
  let e := x.ticket (tkEntry t)
  if t = 0 then .null
  else if tkKind t = 0 ∨ 4 < tkKind t ∨ bitsN t 0 9 ≠ tkCheck t x.tkkey then .invalid
  else if tkGen t = e.gen ∧ e.state ≠ .free then
    if tkKind t ≠ e.kind then .invalid
    else if e.state = .claimed then .spent
    else .is e.state
  else if tkGen t = e.retgen ∧ e.retwhy ≤ 1 then .spent
  else .expired

/-! ### WAIT (21 R495, R496) -/

/-- The conditions of a WAIT that hold, in the places of its result word. -/
def State.waitBits (s : State) (t : Tile) (w : WaitOp) : Nat :=
  let owed := fun b => (t.takes.filter fun x => x.buf == b && decide (x.id < w.id)).length
  let tick := (w.tickets.zipIdx.map fun (k, i) =>
    if w.t.getLsbD i && (((s.slice (tkSlice k)).classify k) != .is .pending) then 2 ^ i else 0).sum
  let bufs := ((List.range 4).map fun b =>
    if w.t.getLsbD (8 + b) && (t.cbuf b).enabled && decide (owed b < (t.cbuf b).filled) then 2 ^ (8 + b) else 0).sum
  let box := if w.t.getLsbD 12 && decide ((t.recvs.filter fun x => decide (x.id < w.id)).length < t.inbox.length) then 4096 else 0
  tick + bufs + box

/-- The conditions a WAIT selects. -/
def WaitOp.wanted (w : WaitOp) : Nat := (w.t &&& 0x1F0F).toNat

def State.waitHolds (s : State) (t : Tile) (w : WaitOp) : Bool :=
  if w.t.getLsbD 4 then s.waitBits t w != 0 else s.waitBits t w == w.wanted

/-- A WAIT completes with its result word. -/
def State.waitEnd (s : State) (tile : Nat) (w : WaitOp) (timeout : Bool) : State :=
  let x := s.waitBits (s.tile tile) w + (if timeout then 2 ^ 63 else 0)
  s.onTile tile fun t =>
    { t.arrive 1 w.id (.ofScalar (BitVec.ofNat 64 x)) 0 with waits := t.waits.filter fun y => y.id != w.id }

/-- A WAIT's bound has run out (21 R496). -/
def WaitOp.over (w : WaitOp) : Bool := w.bound == some 0

/-- The WAITs of a tile that hold now, or whose bound has run out first, complete (21 R496). -/
def State.waitsNow (s : State) (tile : Nat) : State :=
  (s.tile tile).waits.foldl
    (fun s w => if w.over || s.waitHolds (s.tile tile) w then s.waitEnd tile w w.over else s) s

/-- A message enters the inbox: the WAITs it satisfies complete, and the RECVs that wait are fed. -/
def State.inboxTake (s : State) (tile : Nat) (m : Msg) : State :=
  let s := (s.onTile tile fun t => { t with inbox := t.inbox ++ [m] }).waitsNow tile
  s.onTile tile fun t => Tile.recvFeed t.recvs.length t

end Sys2Proof.Machine
end

