-- ==== Sys2Proof/Machine/Module.lean ====
section
/-! DEFINITION. The module around a tile: its parts by number, what a tile sees of it, and one cycle of a tile within it
(01, 08 R167, R179, 15 R344, 17 R380). -/
namespace Sys2Proof.Machine

/-! ### Numbers -/

/-- The cluster of a tile: 16 x 16 tiles, clusters in rows of eight (01 R11, R12). -/
def clusterOf (tid : Nat) : Nat := tid / 128 / 16 * 8 + tid % 128 / 16
/-- A tile's number within its cluster (08 R179). -/
def tileInCluster (tid : Nat) : Nat := tid / 128 % 16 * 16 + tid % 16
/-- The tile at place `k` of cluster `c`. -/
def tileAt (c k : Nat) : Nat := (c / 8 * 16 + k / 16) * 128 + c % 8 * 16 + k % 16
/-- A tile's voltage row: row of 16 tiles, numbered 16 to a cluster (16 R365). -/
def rowOfTile (tid : Nat) : Nat := 16 * clusterOf tid + tid / 128 % 16
/-- The service core of a cluster's quadrant (01 R15). -/
def quadrantOf (c : Nat) : Nat := c / 32 * 2 + c % 8 / 4

/-- The tiles of a voltage row. -/
def rowTiles (row : Nat) : List Nat := (List.range 16).map fun k => tileAt (row / 16) (16 * (row % 16) + k)

/-- WTH of a voltage row (16 R365); `act`: a response is under way. -/
def VRow.wth (r : VRow) (act : Bool) : W64 :=
  BitVec.ofNat 64 (r.thresh.toNat + r.alarms.toNat <<< 32 + (if act then 2 ^ 48 else 0))

/-- Every running tile of the row has at most `n` cycles of the Weir's response left: a tile that does not run has its cycles
go by unseen (16 R366). -/
def State.weirLeft (s : State) (row n : Nat) : Bool :=
  s.tiles.all fun (k, t) => !(decide (rowOfTile k = row) && decide (t.run = .running)) || decide (t.weir ≤ n)

/-- The Weir's response is under way in the present cycle of a tile: of a running tile by the cycles it has left, the last of
which, a disabled one, goes by before its next executed one; of any other by its row's (log 45). -/
def State.weirActs (s : State) (tid : Nat) : Bool :=
  let t := s.tile tid
  (s.row (rowOfTile tid)).weir != .idle && (if t.run = .running then decide (1 < t.weir) else
    !s.weirLeft (rowOfTile tid) 1 || (rowTiles (rowOfTile tid)).all fun k => (s.tile k).run != .running)

/-- The service cores run: every check of the boot has passed (16 R373). -/
def State.up (s : State) : Bool := s.dev.sec.failed.isNone && decide (3 ≤ s.dev.sec.booted)

/-- What a service core does: nothing before the boot has ended, nor after a failed check of it (16 R373). -/
def State.served (s t : State) : State := if s.up then t else s

/-! ### Images (17 R380) -/

/-- The image that a handle names, loaded. -/
def State.named (s : State) (h : Nat) : Option Image :=
  let x := s.image (h % 1024)
  if x.v && x.gen.toNat == h / 1024 then some x else none

/-- What tile `tid` sees of the module. -/
def State.env (s : State) (tid : Nat) : Env :=
  let t := s.tile tid
  let r := s.row (rowOfTile tid)
  let im := s.named t.img
  { tid := tid, devid := s.dev.devid, ns := s.ns, mhz := r.mhz, wth := r.wth (s.weirActs tid)
    codeLen := (im.map fun x => 4096 * x.npages).getD 0
    revoked := (im.map (·.rev)).getD false
    handles := s.dev.handles }

/-! ### Gangs -/

def State.gang? (s : State) (gid : Nat) : Option Gang := s.gangs.find? fun g => g.gid.toNat == gid
def State.onGang (s : State) (gid : Nat) (f : Gang → Gang) : State :=
  { s with gangs := s.gangs.map fun g => if g.gid.toNat = gid then f g else g }

/-- Width and height of a gang of log2 size n (08 R165). -/
def gangW (n : Nat) : Nat := 2 ^ (n / 2)
def gangH (n : Nat) : Nat := 2 ^ ((n + 1) / 2)

/-- The tiles of a rectangle in rank order (08 R166). -/
def rectTiles (origin log2n : Nat) : List Nat :=
  (List.range (2 ^ log2n)).map fun r => origin + r / gangW log2n * 128 + r % gangW log2n

/-- A tile lies in a rectangle. -/
def inRect (origin log2n tid : Nat) : Bool :=
  decide (origin % 128 ≤ tid % 128) && decide (tid % 128 < origin % 128 + gangW log2n) &&
    decide (origin / 128 ≤ tid / 128) && decide (tid / 128 < origin / 128 + gangH log2n)

def Gang.tiles (g : Gang) : List Nat := rectTiles g.origin g.log2n

/-- The gang identifier of a tile's resident gang. -/
def Tile.gidN (t : Tile) : Nat := bitsN t.gid 0 32

/-- A gang is resident on the tile. -/
def Tile.resident (t : Tile) : Bool :=
  match t.run with
  | .idle | .quarantined => false
  | _ => true

/-- The tile's gang, while it is resident. -/
def State.gangOf (s : State) (tid : Nat) : Option Gang :=
  let t := s.tile tid
  if t.resident then s.gang? t.gidN else none

/-- A gang that nothing stops, or only a pre-emption that came too late. -/
def Gang.runsOn (g : Gang) : Bool := g.why == none || g.why == some .preempt

/-! ### Supervisor reports (08 R179, 15 R344) -/

/-- A report enters the ring, or waits at its tile with OVF set. -/
def Cluster.report (c : Cluster) (r : Report) : Cluster :=
  if c.supring.length < 64 then { c with supring := c.supring ++ [r] }
  else { c with supOvf := true, supWait := c.supWait ++ [r] }

/-- A gang's reason to stop once a member has failed: a revocation or a cancel stands, a pre-emption does not. -/
def StopWhy.fail (w : Option StopWhy) (fault : Bool) : Option StopWhy :=
  match w with
  | some .integrity => some .integrity
  | some .cancelled => some .cancelled
  | some (.failed b) => some (.failed (b || fault))
  | _ => some (.failed fault)

/-- A tile's fatal fault reaches its supervisor, and its gang has failed (08 R186). A commanded park adds no FAULT. -/
def State.reported (s : State) (tid : Nat) (r : Report) : State :=
  let c := clusterOf tid
  let s := s.setCluster c ((s.cluster c).report r)
  s.onGang (s.tile tid).gidN fun g => { g with why := StopWhy.fail g.why (r.w1 != 0x35) }

/-- A tile as its cycle left it; a report it raised goes to its supervisor. -/
def State.putTile (s : State) (tid : Nat) (t : Tile) : State :=
  let had := (s.tile tid).report
  let s := s.setTile tid t
  match had, t.report with
  | none, some r => s.reported tid r
  | _, _ => s

/-! ### A cycle of a tile -/

/-- One cycle of tile `tid` in the module: nothing where it does not run (15 R353). WAITs whose conditions hold complete
before its bundle. -/
def State.cycle (s : State) (tid : Nat) (body : Env → Tile → Issue) : State :=
  if (s.tile tid).run = .running then
    let s := s.waitsNow tid
    let env := s.env tid
    s.putTile tid ((s.tile tid).clock env (body env))
  else s

/-- A bundle of just this move on the current tile: what a step does when the waiting bundle is that bundle. -/
def State.runMove (s : State) (h : Head) (a : Act) : State := s.cycle s.cur fun env t => t.solo env h a

/-- The waiting bundle of a tile. -/
def State.runBundle (s : State) (tid : Nat) : State := s.cycle tid Tile.waiting

end Sys2Proof.Machine
end

