-- ==== Sys2Proof/Machine/Phys.lean ====
section
/-! DEFINITION. The module's HBM by physical address: slices, uncorrectable errors, pinned handles, free values
(09 R191, R200, 16 R370). -/
namespace Sys2Proof.Machine

/-! ### Slices and addresses -/

/-- The slice that serves a physical address (09 R191). -/
def sliceOf (pa : Nat) : Nat := Nat.xor (pa / 256 % 1024) (pa / 2 ^ 18 % 1024)

/-- The offset within the slice. -/
def sliceOff (pa : Nat) : Nat := pa / 2 ^ 18 * 256 + pa % 256

/-- The address is one of HBM's and not one of the correction bits' and spare rows' (16 R370). -/
def addressable (pa n : Nat) : Bool := decide (pa + n ≤ 0xF000000000)

/-- The cluster that is a slice's home (01 R14). -/
def homeCluster (slice : Nat) : Nat := slice / 16

/-- A cluster's index within its die (01 R13), and the die of a cluster (01 R12). -/
def indexInDie (c : Nat) : Nat := c / 8 % 2 * 4 + c % 4
def dieOf (c : Nat) : Nat := c / 16 * 2 + c % 8 / 4

/-- The stack, and the pseudo-channel of it, that a slice serves (01 R14). -/
def stackOf (slice : Nat) : Nat := 2 * dieOf (homeCluster slice) + indexInDie (homeCluster slice) / 4
def channelOf (slice : Nat) : Nat := indexInDie (homeCluster slice) % 4 * 16 + slice % 16

/-- The module, seen as the slice of a tile's nearest: slice `k` updated. -/
def State.onSlice (s : State) (k : Nat) (f : Slice → Slice) : State := s.setSlice k (f (s.slice k))

/-! ### Free values -/

/-- A fresh value that the spec leaves open (log 5). -/
def State.freeWord (s : State) : W64 × State := (Config.freeWord s.fresh, { s with fresh := s.fresh + 1 })
def State.freeBit (s : State) : Bool × State := (Config.freeBit s.fresh, { s with fresh := s.fresh + 1 })

/-- `n` free bytes. -/
def State.freeBytes (s : State) (n : Nat) : List Byte × State :=
  ((List.range n).map fun k => (Config.freeWord (s.fresh + k)).setWidth 8, { s with fresh := s.fresh + n })

/-! ### Notices, scores and the hot lists (16 R371, R372) -/

/-- A notice to a service core. -/
def State.notify (s : State) (core : Nat) (n : Notice) : State :=
  let m := vget .reset s.dev.mail core
  { s with dev := { s.dev with mail := vput s.dev.mail core { m with notices := m.notices ++ [n] } } }

/-- The score of a row. -/
def Slice.score (x : Slice) (row : Nat) : Nat := ((x.scores.find? fun r => r.row == row).map (·.score)).getD 0

/-- A row's score set, at most what its field holds; a score of 0 is not listed. -/
def Slice.setScore (x : Slice) (row n : Nat) : Slice :=
  let rest := x.scores.filter fun r => r.row != row
  { x with scores := if n = 0 then rest else rest ++ [⟨row, min n 0xFFFF⟩] }

/-- A row that must be remapped, and can be. -/
def Slice.due (x : Slice) (row : Nat) : Bool := decide (64 ≤ x.score row) && x.spares != 0

/-- A row remapped to a spare row. -/
def Slice.remap (x : Slice) (row : Nat) : Slice :=
  { x.setScore row 0 with remapped := x.remapped + 1, spares := x.spares - 1 }

/-- The granules of a row of slice `k` whose next read is corrected. -/
def State.softRow (s : State) (k row : Nat) : List Nat :=
  s.softHbm.filter fun g => sliceOf (64 * g) == k && Config.rowOf (sliceOff (64 * g)) % 2 ^ 32 == row

/-- A row whose contents have been corrected whole: by a scrub, or on their way to a spare row. -/
def State.cleanRow (s : State) (k row : Nat) : State :=
  { s with softHbm := s.softHbm.filter fun g => !(s.softRow k row).contains g }

/-- A row whose score has reached 64 is remapped, with its corrected contents. -/
def State.remapRow (s : State) (k row : Nat) : State :=
  if (s.slice k).due row then (s.setSlice k ((s.slice k).remap row)).cleanRow k row else s

/-- A stack's hot list: pairs of slice and row. -/
def State.hotOf (s : State) (stack : Nat) : List (Nat × Nat) := (look stack s.hot).getD []

/-- A row enters its stack's hot list of 1,024, the oldest leaving. -/
def State.heat (s : State) (k row : Nat) : State :=
  let l := s.hotOf (stackOf k)
  if l.contains (k, row) then s
  else { s with hot := put (stackOf k) ((l ++ [(k, row)]).drop (l.length + 1 - 1024)) s.hot }

/-- A row that must be remapped and finds no spare is reported to the quadrant's service core. -/
def State.spareNotice (s : State) (k : Nat) (before : Slice) : State :=
  let x := s.slice k
  if x.spares = 0 ∧ (before.spares ≠ 0 ∨ x.scores.any (fun r => decide (64 ≤ r.score)) = true) then
    s.notify (quadrantOf (homeCluster k)) (.noSpare k)
  else s

/-- A corrected error in a row of slice `k`: counted, the row hot, its score 16 higher, and remapped at 64. -/
def State.corrected (s : State) (k row : Nat) : State :=
  let x := s.slice k
  (((s.heat k row).setSlice k ({ x with corr := x.corr + 1 }.setScore row (x.score row + 16))).remapRow k row).spareNotice k x

/-! ### Reads and writes (16 R370) -/

/-- A read of a granule: an uncorrectable error that strikes it is given once, and afterwards it may be given again or
not; a correctable one is mended by the read. -/
def State.granuleRead (s : State) (g : Nat) : Bool × State :=
  let k := sliceOf (64 * g)
  let hit := fun s : State => s.onSlice k fun x => { x with uncorr := x.uncorr + 1 }
  match look g s.badHbm with
  | none =>
    (false, if s.softHbm.contains g then
        { s with softHbm := s.softHbm.filter (· != g) }.corrected k (Config.rowOf (sliceOff (64 * g)) % 2 ^ 32)
      else s)
  | some false => (true, hit { s with badHbm := put g true s.badHbm })
  | some true =>
    let (b, s) := s.freeBit
    (b, if b then hit s else s)

/-- The granules of a range. -/
def granules (pa n : Nat) : List Nat := (List.range ((pa + n - 1) / 64 + 1 - pa / 64)).map fun k => pa / 64 + k

/-- The granules of a range read: whether one gave an uncorrectable error. -/
def State.readGranules (s : State) (gs : List Nat) : Bool × State :=
  gs.foldl (fun (b, s) g => let (x, s) := s.granuleRead g; (b || x, s)) (false, s)

/-- A range read: its bytes, and whether a granule of it gave an uncorrectable error. -/
def State.readHbm (s : State) (pa n : Nat) : List Byte × Bool × State :=
  let (bad, s) := s.readGranules (granules pa n)
  (s.hbm.read pa n, bad, s)

/-- A range written: a granule that the write covers whole is mended. -/
def State.writeHbm (s : State) (pa : Nat) (bs : List Byte) : State :=
  let mended := fun g : Nat => decide (pa ≤ 64 * g) && decide (64 * g + 64 ≤ pa + bs.length)
  { s with
    hbm := s.hbm.write pa bs
    badHbm := s.badHbm.filter fun (g, _) => !mended g
    softHbm := s.softHbm.filter fun g => !mended g }

/-- A member's rank. -/
def Tile.rank (t : Tile) : Nat := bitsN t.grank 0 8

/-- What a member of a gang must not see yet of a double: a gang-mate published it ahead of the gang's barrier, and it still
shows whole as it was (10 R217, R224). -/
def State.heldFor (s : State) (g : Gang) (rank dbl : Nat) : Option Held :=
  s.held.find? fun h => h.gid == g.gid && h.dbl == dbl && !h.seers.contains rank

/-- What a tile sees of bytes of HBM. -/
def State.seenBy (s : State) (tile pa : Nat) (bs : List Byte) : List Byte :=
  match s.gangOf tile with
  | some g => bs.zipIdx.map fun (b, k) =>
    match s.heldFor g (s.tile tile).rank ((pa + k) / 8) with
    | some h => h.old.extractLsb' (8 * ((pa + k) % 8)) 8
    | none => b
  | none => bs

/-- A tile sees the doubles that `p` names as they are: it has written or read them at their slices, or has come to an acquire
point (10 R217, R218). -/
def State.sees (s : State) (tile : Nat) (p : Nat → Bool) : State :=
  match s.gangOf tile with
  | some g => { s with held := s.held.map fun h =>
      if h.gid = g.gid ∧ p h.dbl = true then { h with seers := (s.tile tile).rank :: h.seers } else h }
  | none => s

/-- The bytes of a double that `mask` selects, written as one step. -/
def State.writeMasked (s : State) (dbl : Nat) (mask : BitVec 8) (data : W64) : State :=
  { s with hbm := (List.range 8).foldl (fun m k =>
      if mask.getLsbD k then m.set (8 * dbl + k) (data.extractLsb' (8 * k) 8) else m) s.hbm }

/-! ### Peers (09 R196, 16 R358 to R360) -/

/-- What the fabric offers toward a device: no valid route, a route whose ports are down, or a port that is up. -/
inductive Route where
  | none_ | down | up
  deriving DecidableEq, Repr

/-- The route to a device: PRIMARY while it is up, else ALTERNATE; the one port for other domains (16 R358, R359). -/
def State.route (s : State) (dev : Nat) : Route :=
  let up := fun p => (vget .reset s.dev.ports p).state == 2
  if dev / 512 = s.dev.devid.toNat / 512 then
    let e := (look (dev % 512) s.dev.routes).getD 0
    if !e.getLsbD 15 then .none_ else if up (bitsN e 0 5) || up (bitsN e 8 5) then .up else .down
  else if up (bitsN s.dev.otherPort 0 5) then .up
  else .down

/-- What a peer is asked to do at its memory. -/
inductive PeerAcc where
  | read | store | atomic
  deriving DecidableEq, Repr

/-- The causes for which a peer turns away an access to an addressable byte: its own check (09 R196), an error of its memory, or a
write to a HASHH region of its (17 R382). -/
def PeerAcc.causes : PeerAcc → List (BitVec 8)
  | .read => [0x13, 0x14]
  | .store => [0x13, 0x12]
  | .atomic => [0x13, 0x12, 0x14]

/-- How a peer answers an access to `n` bytes at an offset of its memory: none where it performs it, else the cause. Which of
these it is is the peer's affair, and free (log 5); bytes that are not addressable it never reaches (16 R370). -/
def State.peerCause (s : State) (off n : Nat) (acc : PeerAcc) : Option (BitVec 8) × State :=
  let (ok, s) := s.freeBit
  let (w, s) := s.freeWord
  let pick := fun l : List (BitVec 8) => (l[w.toNat % l.length]?).getD 0x13
  (if !addressable off n then some (pick [0x13, 0x10]) else if ok then none else some (pick acc.causes), s)

/-- A peer's answer to a synchronous request: data or a cause (09 R196). -/
def State.peerRead (s : State) (off n : Nat) (acc : PeerAcc) : Except (BitVec 8) (List Byte) × State :=
  let (c, s) := s.peerCause off n acc
  let (bs, s) := s.freeBytes n
  (match c with
    | none => .ok bs
    | some code => .error code, s)

/-! ### Pinned handles (09 R200) -/

/-- The memory an access through a handle reaches on this device, when V, the right and the extent allow it; `peer` says
whether the handle names a peer. -/
def State.handlePa (s : State) (h off n : Nat) (write : Bool) : Option (Nat × Option Nat) :=
  let x := handleAt s.dev.handles h
  let right := if write then x.1.getLsbD 62 else x.1.getLsbD 61
  let pa := handleBase x + off
  if x.1.getLsbD 63 && right && decide (off + n ≤ handleSize x) && decide (pa + n ≤ 2 ^ 40) then some (pa, handlePeer x)
  else none

/-- The bytes at an offset of a handle, of this device's memory or of a peer's, none where the access fails or meets an
error. -/
def State.handleRead (s : State) (h off n : Nat) : Option (List Byte) × State :=
  match s.handlePa h off n false with
  | some (pa, none) =>
    if addressable pa n then
      let (bs, bad, s) := s.readHbm pa n
      (if bad then none else some bs, s)
    else (none, s)
  | some (pa, some dev) =>
    if s.route dev = .up then
      let (a, s) := s.peerRead pa n .read
      (a.toOption, s)
    else (none, s)
  | none => (none, s)

/-- A range meets a HASHH region of a loaded image, which only service cores write (17 R382). -/
def State.hashed (s : State) (pa n : Nat) : Bool :=
  s.dev.images.any fun (_, x) =>
    let e := handleAt s.dev.handles x.hashh.toNat
    x.v && e.1.getLsbD 63 && (handlePeer e).isNone && overlaps (handleBase e) (64 * x.npages) pa n

/-- Bytes written at an offset of a handle by a master that is no service core: none where the write is performed, else the cause:
`refused` where the handle's own check fails, or that of the place (16 R370, 17 R382) or of the peer. -/
def State.handlePut (s : State) (h off : Nat) (bs : List Byte) (refused : BitVec 8) : Option (BitVec 8) × State :=
  let n := bs.length
  match s.handlePa h off n true with
  | some (pa, none) =>
    if !addressable pa n then (some 0x10, s) else if s.hashed pa n then (some 0x12, s) else (none, s.writeHbm pa bs)
  | some (pa, some dev) => if s.route dev = .up then s.peerCause pa n .store else (some 0x13, s)
  | none => (some refused, s)

/-- The same, told only whether the write is performed. -/
def State.handleWrite (s : State) (h off : Nat) (bs : List Byte) : Bool × State :=
  let (c, s) := s.handlePut h off bs 0x1B
  (c.isNone, s)

/-! ### Hardware queues in memory (08 R173, R174) -/

def State.queueDesc (s : State) (q : Nat) : QDesc := (look q s.dev.queues).getD .reset
def State.setQueueDesc (s : State) (q : Nat) (d : QDesc) : State :=
  { s with dev := { s.dev with queues := put q d s.dev.queues } }

/-- The ring of a queue, when its handle passes the check; a ring on a peer does not (log 12). -/
def State.ringBase (s : State) (q : Nat) : Option Nat :=
  let d := s.queueDesc q
  let n := 64 * 2 ^ d.log2
  if d.ring.toNat < 65536 then
    match s.handlePa d.ring.toNat 0 n false, s.handlePa d.ring.toNat 0 n true with
    | some (pa, none), some _ => if addressable pa n then some pa else none
    | _, _ => none
  else none

/-- The ring of a queue, when slot `i` of it can be written: the slices refuse a write of a dispenser's or supervisor's to a
HASHH region (17 R382, log 76). -/
def State.slotBase (s : State) (q i : Nat) : Option Nat := (s.ringBase q).filter fun b => !s.hashed (b + 64 * i) 64

/-- Slot `i` read: an error of its granule is corrected, or counted; what an uncorrectable one gives is what stands there (log
87). -/
def State.touchSlot (s : State) (base i : Nat) : State := (s.readGranules (granules (base + 64 * i) 64)).2

/-- Word `w` of slot `i` of a ring at `base`. -/
def State.slotWord (s : State) (base i w : Nat) : W64 := s.hbm.double (base + 64 * i + 8 * w)
def State.setSlotWord (s : State) (base i w : Nat) (x : W64) : State :=
  { s with hbm := s.hbm.store (base + 64 * i + 8 * w) 8 x }

/-- The record of a slot. -/
def State.slotRecord (s : State) (base i : Nat) : BitVec 256 := BitVec.ofNat 256 (s.hbm.value (base + 64 * i) 32)

/-- The fields of slot word 4. -/
def slotState (w : W64) : Nat := bitsN w 0 3
def slotExposed (w : W64) : Bool := w.getLsbD 6
def slotRetry (w : W64) : Nat := bitsN w 8 4
def slotStatus (w : W64) : BitVec 8 := w.extractLsb' 16 8

/-- Slot word 4 changed where the slot can be written. -/
def State.onSlot (s : State) (q i : Nat) (f : W64 → W64) : State :=
  match s.slotBase q i with
  | some b => (s.touchSlot b i).setSlotWord b i 4 (f (s.slotWord b i 4))
  | none => s

/-- A slot read where no write of it can follow: in a HASHH region (16 R370, log 76). -/
def State.peekSlot (s : State) (q i : Nat) : State :=
  match s.ringBase q with
  | some b => if s.hashed (b + 64 * i) 64 then s.touchSlot b i else s
  | none => s

/-- The gang has had an effect outside itself: its slot's EXPOSED is set (08 R182). -/
def State.expose (s : State) (gid : Nat) : State :=
  match s.gang? gid with
  | some g =>
    if g.exposed then s
    else (s.onGang gid fun g => { g with exposed := true }).onSlot g.queue g.slot fun w => w ||| 0x40
  | none => s

end Sys2Proof.Machine
end

