-- ==== Sys2Proof/Machine/Links.lean ====
section
/-! DEFINITION. Events of the neighbour links, messages and streams (02 R49 to R55, 13 R303 to R309). -/
namespace Sys2Proof.Machine

/-! ### Links -/

/-- What the neighbour in direction `d` has on its way to tile `t`. -/
def State.inWire (s : State) (t d : Nat) : List Fwd :=
  if edgeAt t d then [] else ((s.tile (neighbour t d)).link (opposite d)).wire

/-- What the neighbour in direction `d` has on its way back to tile `t`. -/
def State.inBack (s : State) (t d : Nat) : List Back :=
  if edgeAt t d then [] else ((s.tile (neighbour t d)).link (opposite d)).back

def State.onLink (s : State) (t d : Nat) (f : Link → Link) : State :=
  s.onTile t fun x => x.setLink d (f (x.link d))

/-- The neighbour's oldest word or marker leaves its wire. -/
def State.popWire (s : State) (t d : Nat) : State :=
  s.onLink (neighbour t d) (opposite d) fun l => { l with wire := l.wire.drop 1 }

def State.popBack (s : State) (t d : Nat) : State :=
  s.onLink (neighbour t d) (opposite d) fun l => { l with back := l.back.drop 1 }

/-- A word at its receiver: before an awaited marker it is discarded without a credit; with no gang resident it is
discarded and its credit returns; else it enters the queue (02 R54). -/
def Tile.takeLinkWord (t : Tile) (d : Nat) (w : W64) : Tile :=
  let l := t.link d
  if l.await ≠ 0 then { t with linkDisc := t.linkDisc + 1 }
  else if t.resident then t.setLink d { l with queue := l.queue ++ [w] }
  else { t.setLink d { l with back := l.back ++ [.credit] } with linkDisc := t.linkDisc + 1 }

/-- LINK_WORD_ARRIVE (02 R51). -/
def execLinkWordArrive (tile dir : Nat) (s : State) : Host.Outcome State Fault Refusal :=
  .next (match s.inWire tile dir with
    | .word w :: _ => (s.popWire tile dir).onTile tile fun t => t.takeLinkWord dir w
    | _ => s)

/-- LINK_MARKER_ARRIVE (02 R54). -/
def execLinkMarkerArrive (tile dir : Nat) (s : State) : Host.Outcome State Fault Refusal :=
  .next (match s.inWire tile dir with
    | .marker :: _ => (s.popWire tile dir).onLink tile dir fun l => { l with await := l.await - 1 }
    | _ => s)

/-- LINK_CREDIT_RETURN (02 R52). -/
def execLinkCreditReturn (tile dir : Nat) (s : State) : Host.Outcome State Fault Refusal :=
  .next (match s.inBack tile dir with
    | .credit :: _ => (s.popBack tile dir).onLink tile dir fun l => { l with credit := min 8 (l.credit + 1) }
    | _ => s)

/-- LINK_CREDIT_NOTICE: as many credits as the notice says, and a marker behind the words sent (02 R54). -/
def execLinkCreditNotice (tile dir : Nat) (s : State) : Host.Outcome State Fault Refusal :=
  .next (match s.inBack tile dir with
    | .notice n :: _ =>
      (s.popBack tile dir).onLink tile dir fun l => { l with credit := n, wire := l.wire ++ [.marker] }
    | _ => s)

/-- A link resynchronised: its queue holds `q`, the neighbour is told how many places that leaves, and words are discarded
until its marker comes (02 R54). -/
def Link.resync (l : Link) (q : List W64) : Link :=
  { l with queue := q, back := l.back ++ [.notice (8 - q.length)], await := l.await + 1 }

/-- A tile resynchronises its links at launch and at release (02 R54). -/
def Tile.resync (t : Tile) (tid : Nat) : Tile :=
  (List.range 4).foldl (fun t d =>
    let l := t.link d
    if edgeAt tid d then t.setLink d { l with queue := [] }
    else t.setLink d (l.resync [])) t

/-! ### Messages (13 R303 to R306) -/

def sendStr (w : W64) : Bool := w.getLsbD 63
def sendEos (w : W64) : Bool := w.getLsbD 62
def sendTid (w : W64) : Nat := bitsN w 0 14
def sendQ (w : W64) : Nat := bitsN w 16 3

/-- A message header (13 R303). -/
def msgHeader (kind nw dev utag tid : Nat) : W64 :=
  BitVec.ofNat 64 (kind <<< 60 + nw <<< 56 + dev <<< 36 + utag <<< 16 + tid)

/-- The send goes to a bound stream queue of the target (13 R309). -/
def Tile.toStream (t : Tile) (w : W64) : Bool :=
  sendStr w && decide (sendQ w < 6) && t.resident && (t.strmAt (sendQ w)).bound

/-- The inbox holds 64 messages. -/
def Tile.inboxFull (t : Tile) : Bool := decide (64 ≤ t.inboxAll.length)

/-- The words of a stream send as rows, with what is left over; EOS pads the last row. -/
def Strm.append (x : Strm) (ws : List W64) (eos : Bool) : Strm :=
  let all := x.asm ++ ws
  let n := all.length / 16
  let row : List W64 → BitVec 1024 := fun l => packRow 64 (l.map (·.toNat))
  let full := (List.range n).map fun k => row ((all.drop (16 * k)).take 16)
  let rest := all.drop (16 * n)
  if eos then
    { x with rows := x.rows ++ full ++ (if rest.isEmpty then [] else [row rest]), asm := [], eos := true }
  else { x with rows := x.rows ++ full, asm := rest }

/-- A send's words fit the queue: it is not full, and what they complete stays within eight rows. -/
def Strm.accepts (x : Strm) (ws : List W64) (eos : Bool) : Bool :=
  decide (x.rows.length < 8) && decide ((x.append ws eos).rows.length ≤ 8)

/-- The oldest undelivered send for which `ok` holds and before which none to the same target waits (13 R305). -/
def firstSend (ok : Send → Bool) : List (Bool × Nat) → List Send → Option Send
  | _, [] => none
  | busy, x :: xs =>
    if x.delivered then firstSend ok busy xs
    else
      let k := (x.peer, if x.peer then (x.word &&& 0x00FFFFF000003FFF).toNat else sendTid x.word)
      if !busy.contains k && ok x then some x else firstSend ok (k :: busy) xs

/-- The send is marked as delivered. -/
def State.delivered (s : State) (tile id : Nat) : State :=
  s.onTile tile fun t => { t with sends := t.sends.map fun x => if x.id = id then { x with delivered := true } else x }

/-- A send to a tile outside the gang makes the task exposed (08 R182). -/
def State.exposeSend (s : State) (tile target : Nat) : State :=
  match s.gangOf tile with
  | some g => if g.tiles.contains target then s else s.expose g.gid.toNat
  | none => s

/-- A message of this device's at its target: discarded where no gang is resident, else in the inbox. -/
def State.deliver (s : State) (tile : Nat) (x : Send) : State :=
  let dst := sendTid x.word
  let kind := if sendStr x.word then 2 else 0
  let m : Msg := ⟨msgHeader kind x.payload.length s.dev.devid.toNat (bitsN x.word 16 16) tile, x.payload⟩
  let s := s.exposeSend tile dst
  let s := if (s.tile dst).resident then s.inboxTake dst m else s.onTile dst fun t => { t with disc := t.disc + 1 }
  s.delivered tile x.id

/-- A peer's answer to a send: the W right of its peer table is its own affair (free); a refusal is a deferred peer
access fault with the send word (13 R304). -/
def State.deliverPeer (s : State) (tile : Nat) (x : Send) : State :=
  let ok := Config.freeBit s.fresh && s.route (sendDev x.word) == .up
  let s := { s with fresh := s.fresh + 1 }
  let s := match s.gangOf tile with
    | some g => s.expose g.gid.toNat
    | none => s
  let s := if ok then s else s.onTile tile fun t => t.defer 0x13 x.word 0
  s.delivered tile x.id

/-- MESSAGE_ARRIVE: the oldest send of `tile` that its target can take into its inbox (13 R305). -/
def execMessageArrive (tile : Nat) (s : State) : Host.Outcome State Fault Refusal :=
  let ok := fun x : Send =>
    let t := s.tile (sendTid x.word)
    (x.peer && s.route (sendDev x.word) != .down) || (!x.peer && !t.toStream x.word && (!t.resident || !t.inboxFull))
  .next (match firstSend ok [] (s.tile tile).sends with
    | some x => if x.peer then s.deliverPeer tile x else s.deliver tile x
    | none => s)

/-- STREAM_WORD_ARRIVE: the oldest stream send of `tile` to queue `dir` of a target that has it bound (13 R309). -/
def execStreamWordArrive (tile dir : Nat) (s : State) : Host.Outcome State Fault Refusal :=
  let ok := fun x : Send =>
    let t := s.tile (sendTid x.word)
    !x.peer && decide (sendQ x.word = dir) && t.toStream x.word &&
      (t.strmAt dir).accepts x.payload (sendEos x.word)
  .next (match firstSend ok [] (s.tile tile).sends with
    | some x =>
      let dst := sendTid x.word
      let s := s.exposeSend tile dst
      let s := s.onTile dst fun t =>
        { t with strm := vput t.strm dir ((t.strmAt dir).append x.payload (sendEos x.word)) }
      s.delivered tile x.id
    | none => s)

/-- SEND_ACCEPTED: a send that its target has accepted leaves the send queue (13 R304). -/
def execSendAccepted (tile : Nat) (s : State) : Host.Outcome State Fault Refusal :=
  .next (match (s.tile tile).sends.find? (·.delivered) with
    | some x => s.onTile tile fun t => { t with sends := t.sends.filter fun y => !(y.id == x.id) }
    | none => s)

end Sys2Proof.Machine
end

