-- ==== Sys2Proof/Machine/TileEvents.lean ====
section
/-! DEFINITION. Events of one tile: its bundles and boundaries, its pipelines and engines, its code pages, its controls
(chapters 02, 04, 05, 07, 12, 14 to 17). -/
namespace Sys2Proof.Machine

/-! ### Bundles and boundaries -/

/-- BUNDLE_ISSUE (02 R46): one cycle of a tile with its waiting bundle. -/
def execBundleIssue (tile : Nat) (s : State) : Host.Outcome State Fault Refusal := .next (s.runBundle tile)

/-- STREAM_END_EVENT (13 R309): the tile enters the handler of the lowest stream queue whose end has arrived. -/
def execStreamEndEvent (tile : Nat) (s : State) : Host.Outcome State Fault Refusal :=
  let t := (s.tile tile).undo
  .next (if t.run = .running ∧ t.stopReq = false ∧ t.parkReq = false then
      match t.streamDue with
      | some q =>
        match t.streamEnd (s.env tile) q with
        | .next u => s.putTile tile u
        | _ => s
      | none => s
    else s)

/-- The waiting bundle of a running tile is not locked and needs no page: its landings may be made (02 R47). -/
def State.unlocked (s : State) (tile : Nat) : Bool :=
  let t := s.tile tile
  let env := s.env tile
  decide (t.run = .running) && t.pre.isNone && (t.boundary env).isNone &&
    match t.waiting env with
    | .next _ => true
    | _ => false

/-- The moves of the waiting bundle. -/
def Tile.waitingMoves (env : Env) (t : Tile) : List (Head × Act) :=
  match t.fetch env with
  | .ok b => b.moves.filterMap actOf
  | .error _ => []

/-- The waiting bundle performs END: MX starts nothing in it (19 R412). -/
def Tile.endsNow (env : Env) (t : Tile) : Bool := t.landings.1.ending env (t.waitingMoves env)

/-- The start of the waiting bundle made ahead of its issue: its landings, and MX's. It is undone should the bundle not
issue (15 R338). -/
def Tile.landEarly (env : Env) (t : Tile) : Tile :=
  { t.landings.1.begin env (t.waitingMoves env) with pre := some ⟨t.fixed, t.mx, t.fpc⟩ }

/-- The bundle start of a tile, when what the event names is due in it. -/
def State.landIf (s : State) (tile : Nat) (due : Tile → Bool) : State :=
  if s.unlocked tile && due (s.tile tile) then s.onTile tile (Tile.landEarly (s.env tile)) else s

/-- RESULT_LAND (02 R39). -/
def execResultLand (tile : Nat) (s : State) : Host.Outcome State Fault Refusal :=
  .next (s.landIf tile fun t => (vlist t.fixed).any fun f => f.pipe.any fun x => decide (x.due ≤ t.nb))

/-- MX_OP_START (12 R274). -/
def execMxOpStart (tile : Nat) (s : State) : Host.Outcome State Fault Refusal :=
  .next (s.landIf tile fun t => !t.inh && (t.landings.1.mx.dueStart t.nb).isSome && !t.endsNow (s.env tile))

/-- MX_LOAD_READY (12 R275). -/
def execMxLoadReady (tile : Nat) (s : State) : Host.Outcome State Fault Refusal :=
  .next (s.landIf tile fun t => !t.inh && (t.mx.loadDue t.nb).isSome)

/-- MMA_COMPLETE (12 R275). -/
def execMmaComplete (tile : Nat) (s : State) : Host.Outcome State Fault Refusal :=
  .next (s.landIf tile fun t => !t.inh && t.mx.runs.any fun r => decide (r.done ≤ t.nb))

/-! ### Engines -/

/-- A cycle of a tile in which no bundle issues. A WAIT that holds completes before its bound counts down (21 R496). -/
def State.idle (s : State) (tile : Nat) : State := (s.waitsNow tile).onTile tile (Tile.idleCycle (s.env tile))

/-- SPILL_ENGINE_CYCLE (05 R120): a cycle of a tile in which no bundle issues (07 R152). -/
def execSpillEngineCycle (tile : Nat) (s : State) : Host.Outcome State Fault Refusal := .next (s.idle tile)

/-- SPILL_TRANSFER_COMPLETE (05 R120). -/
def execSpillTransferComplete (tile : Nat) (s : State) : Host.Outcome State Fault Refusal :=
  .next (s.onTile tile Tile.spillDone)

/-- GP_OP_COMPLETE (14 R322): the running operation's last cycle has gone by before the next bundle. -/
def execGpOpComplete (tile : Nat) (s : State) : Host.Outcome State Fault Refusal :=
  .next (s.onTile tile fun t =>
    { Tile.gpFinish { t with cyc := t.cyc + 1 } with cyc := t.cyc })

/-- SF_OP_COMPLETE (14 R324): an accepted package is measured (16 R374). -/
def execSfOpComplete (tile : Nat) (s : State) : Host.Outcome State Fault Refusal :=
  let (t, m) := (s.tile tile).sfStep tile
  let s := s.setTile tile t
  .next (match m with
    | some d => { s with dev := { s.dev with sec := { s.dev.sec with measures := s.dev.sec.measures ++ [d] } } }
    | none => s)

/-- SLNS_EXPIRE (16 R369): the last cycle of an interval, in which the bundle it holds does not issue. -/
def execSlnsExpire (tile : Nat) (s : State) : Host.Outcome State Fault Refusal :=
  .next (if (s.tile tile).slns = 1 ∨ (s.tile tile).slnsH = 1 then s.idle tile else s)

/-! ### Code pages (07 R161 to R163, 17 R383, 15 R350) -/

/-- What a page load comes to: the page's bytes, an unreadable page, a hash that fails, a revoked image. -/
inductive PageLoad where
  | page (bs : List Byte)
  | unreadable
  | badHash (image : Nat)
  | revoked
  deriving DecidableEq, Repr

/-- Page `p` of the image with handle `h`. -/
def State.loadPage (s : State) (h p : Nat) : PageLoad × State :=
  match s.named h with
  | none => (.unreadable, s)
  | some x =>
    if x.npages ≤ p then (.unreadable, s)
    else if x.rev then (.revoked, s)
    else
      let (page, s) := s.handleRead x.codeh.toNat (4096 * p) 4096
      let (ref, s) := s.handleRead x.hashh.toNat (64 * p) 64
      match page, ref with
      | some bs, some r =>
        if sha3_512 bs = BitVec.ofNat 512 (ofBytes r) then (.page bs, s) else (.badHash (h % 1024), s)
      | _, _ => (.unreadable, s)

/-- The frame a page goes into: an empty one, else the one least recently issued from. -/
def Tile.victim (t : Tile) : Nat :=
  match (List.range 16).find? fun k => (vget .empty t.frames k).tag.isNone with
  | some k => k
  | none =>
    (List.range 16).foldl (fun b k => if (vget .empty t.frames k).used < (vget .empty t.frames b).used then k else b) 0

/-- A page goes into its frame as if a bundle of it had issued then (log 66). -/
def Tile.installPage (t : Tile) (p : Nat) (bs : List Byte) : Tile :=
  { t with frames := vput t.frames t.victim ⟨some (t.img, p), Mem.write [] 0 bs, t.nextUse⟩ }

/-- An image revoked: every tile that runs it stops at its next boundary, and its gangs end with INTEGRITY (15 R350). -/
def State.revoke (s : State) (i : Nat) : State :=
  let s := s.setImage i { s.image i with rev := true }
  let runs := fun t : Tile => t.resident && decide (t.img % 1024 = i)
  let gids := (s.tiles.filter fun (_, t) => runs t).map fun (_, t) => t.gidN
  { s with
    tiles := s.tiles.map fun (k, t) => (k, if runs t && t.run == .running then { t with stopReq := true } else t)
    gangs := s.gangs.map fun g => if gids.contains g.gid.toNat then { g with why := some .integrity } else g
    saves := s.saves.map fun v =>
      if v.members.any fun (_, t) => decide (t.img % 1024 = i) then { v with gang := { v.gang with why := some .integrity } }
      else v }

/-- The page that the tile needs: its waiting bundle's, or a trap's handler's, with the tile as the trap enters it. -/
def State.neededPage (s : State) (tile : Nat) : Option (Nat × Option Tile) :=
  let t := s.tile tile
  if t.run = .running then
    match t.undo.waiting (s.env tile) with
    | .need p x => some (p, x)
    | _ => none
  else none

/-- The fetch fault of a page that cannot be had: at the waiting bundle, whose trap may wait for its own handler's page;
or, for a trap's handler page, the double trap that the handler's own fetch is (log 73). The page that a LOOP of count 0
reads its end address from faults at the LOOP, with the page's start in TADDR (log 67). -/
def Tile.pageFault (env : Env) (t : Tile) (p : Nat) (entered : Option Tile) : Tile :=
  match entered with
  | none =>
    let a := if t.pc.toNat / 4096 = p then t.pc.toNat else 4096 * p
    match Tile.enterAfter env t ⟨{ code := 0x03, addr := BitVec.ofNat 64 a }, t.pc, (t.pc % 2 ^ 30).toNat⟩ with
    | .next u => u
    | _ => t
  | some u => Tile.fatal { u with entering := none } env.tid 0x31 0x03 u.pc (BitVec.ofInt 64 (u.pc % 2 ^ 30))

/-- The integrity fault of a page whose hash fails: at the bundle that needed the page (07 R163, 15 R350). -/
def Tile.pageBad (t : Tile) (tid p : Nat) (entered : Option Tile) : Tile :=
  let u := { entered.getD t with entering := none }
  u.fatal tid 0x33 0 u.pc (BitVec.ofNat 64 (4096 * p))

/-- CODE_PAGE_LOAD (17 R383), of the page of the waiting bundle or, for a LOOP of count 0, of its end (log 67). -/
def execCodePageLoad (tile : Nat) (s : State) : Host.Outcome State Fault Refusal :=
  .next (match s.neededPage tile with
    | none => s
    | some (p, x) =>
      let (r, s) := s.loadPage (s.tile tile).img p
      let t := (s.tile tile).undo
      match r with
      | .page bs => s.setTile tile (t.installPage p bs)
      | .revoked => s.setTile tile { t with stopReq := true }
      | .unreadable => s.putTile tile (t.pageFault (s.env tile) p x)
      | .badHash i =>
        (s.putTile tile (t.pageBad tile p x)).revoke i)

/-- CODE_PAGE_PREFETCH (07 R162): the next page, discarded silently on failure. -/
def execCodePagePrefetch (tile : Nat) (s : State) : Host.Outcome State Fault Refusal :=
  let t := s.tile tile
  let p := t.pc.toNat / 4096 + 1
  .next (if t.run = .running ∧ (t.frameOf p).isNone = true then
      let (r, s) := s.loadPage t.img p
      match r with
      | .page bs => s.onTile tile fun t => t.installPage p bs
      | _ => s
    else s)

/-! ### Controls (15 R353) and tile reset -/

/-- The tile parks at its next bundle boundary. -/
def State.ctlPark (s : State) (tile : Nat) : State :=
  s.onTile tile fun t => if t.run = .running then { t with parkReq := true } else t

/-- The tile halts at its next bundle boundary. -/
def State.ctlStop (s : State) (tile : Nat) : State :=
  s.onTile tile fun t => if t.run = .running then { t with stopReq := true } else t

/-- CTL_PARK. -/
def execCtlPark (tile : Nat) (s : State) : Host.Outcome State Fault Refusal := .next (s.served (s.ctlPark tile))

/-- CTL_STOP. -/
def execCtlStop (tile : Nat) (s : State) : Host.Outcome State Fault Refusal := .next (s.served (s.ctlStop tile))

/-- The engine queues that a release waits on are empty (07 R160, 19 R412): AU and SY requests and WAITs, GP and SF
operations, spill transfers, sends, the copy jobs and collectives that the tile issued (log 31), and the RECVs and TAKEs that
wait, which are CH and CP work (log 83). It waits for no PREF (20 R449). -/
def State.drained (s : State) (tile : Nat) : Bool :=
  let t := s.tile tile
  (t.reqs.all fun r => r.kind == .pref) && t.spill.isEmpty && t.sends.isEmpty && t.cpys.isEmpty && t.colls.isEmpty &&
    t.gp.queue.isEmpty && t.gp.run.isNone && t.sf.queue.isEmpty && t.waits.isEmpty && t.recvs.isEmpty && t.takes.isEmpty &&
    !(s.cluster (clusterOf tile)).jobs.any fun (_, j) => j.tid == tile && j.st != .ended

/-- The tile released: no gang, no grants, empty queues, bindings and results; its links resynchronise (02 R54,
09 R199, 13 R305, R308, 21 R478). -/
def Tile.released (t : Tile) (tid : Nat) : Tile :=
  { t.resync tid with
    run := .idle
    parkReq := false
    stopReq := false
    relReq := false
    report := none
    grants := Vector.replicate 4 0
    inbox := []
    taking := none
    recvs := []
    strm := Vector.replicate 6 .empty
    twb := none
    slns := 0
    slnsH := 0
    waits := []
    takes := []
    sync := []
    colls := []
    queues := Vector.replicate 7 []
    fixed := Vector.replicate 9 .empty
    pre := none
    gp := { t.gp with queue := [], run := none }
    sf := { t.sf with queue := [] }
    mx := { t.mx with queue := [], load := none, runs := [], arrayTo := none }
    deferred := none
    syncFault := false
    log := []
    ovf := []
    ovfCount := 0
    entering := none
    fills := []
    reqs := []
    spill := []
    sends := []
    cpys := []
    arr := false
    rel := true }

/-- A tile released in the module: no quarantine waits on it any more, and no pending miss of its waits (09 R207). -/
def State.releaseTile (s : State) (tid : Nat) : State :=
  let s := s.onTile tid fun t => t.released tid
  let c := s.cluster (clusterOf tid)
  let s := s.setCluster (clusterOf tid) { c with
    pend := c.pend.map fun (k, p) => (k, { p with
        waiters := p.waiters.filter fun w => w.tile != tid
        locs := p.locs.filter fun w => w.tile != tid }) }
  { s with quar := s.quar.map fun q => { q with watch := q.watch.filter fun (t, _) => t != tid } }

/-- TILE_RESET (02 R27): every register at its reset value. Scratchpad, instruction memory, TLB and links are no
registers and stand, and so does what is left of the Weir's response; a resident gang has lost its member and fails. A request of
the tile's that waits on a pending miss is gone, and WAITERS still counts it (log 91). -/
def execTileReset (tile : Nat) (s : State) : Host.Outcome State Fault Refusal :=
  let t := s.tile tile
  let s := if t.resident then s.onGang t.gidN fun g => { g with why := StopWhy.fail g.why true } else s
  .next (s.setTile tile { Tile.reset with
    spm := t.spm
    badSpm := t.badSpm
    frames := t.frames
    tlb := t.tlb
    links := t.links
    linkDisc := t.linkDisc
    weir := t.weir
    nb := t.nb
    nextId := t.nextId })

end Sys2Proof.Machine
end

