-- ==== Sys2Proof/Machine/OnChip.lean ====
section
/-! DEFINITION. Addresses: the three spaces, the on-chip map, its masters and grants, and what its windows hold
(09 R190 to R201, R206 to R209, R508, 08 R179, 11 R240, R242, 16 R357, R359, R372, 17 R380, R384). -/
namespace Sys2Proof.Machine

/-! ### Address spaces (09 R190, R192) -/

/-- A place of the on-chip map: window and offset. -/
inductive Loc where
  | tile (tid off : Nat)
  | slice (k off : Nat)
  | cluster (c off : Nat)
  | boundary (b off : Nat)
  | device (off : Nat)
  deriving DecidableEq, Repr

/-- An address decoded. -/
inductive Space where
  | virt (va : Nat)
  | peer (dev off : Nat)
  | chip (l : Loc)
  | nowhere
  deriving DecidableEq, Repr

/-- Region selectors with their must-be-zero bits. -/
def locOf (a : W64) : Option Loc :=
  let off := bitsN a 0 24
  match bitsN a 56 4 with
  | 0 => if bitsN a 38 18 = 0 then some (.tile (bitsN a 24 14) off) else none
  | 1 => if bitsN a 34 22 = 0 then some (.slice (bitsN a 24 10) off) else none
  | 2 => if bitsN a 30 26 = 0 then some (.cluster (bitsN a 24 6) off) else none
  | 3 => if bitsN a 28 28 = 0 ∧ bitsN a 24 4 < 10 then some (.boundary (bitsN a 24 4) off) else none
  | 4 => if bitsN a 24 32 = 0 then some (.device off) else none
  | _ => none

def spaceOf (a : W64) : Space :=
  match bitsN a 60 4 with
  | 0 => if bitsN a 57 3 = 0 then .virt (bitsN a 0 57) else .nowhere
  | 0xD => .peer (bitsN a 40 20) (bitsN a 0 40)
  | 0xE => match locOf a with
    | some l => .chip l
    | none => .nowhere
  | _ => .nowhere

/-- `o` lies in [lo, hi). -/
def within (o lo hi : Nat) : Bool := decide (lo ≤ o) && decide (o < hi)

/-- The offset lies in a block of its window (09 R193, R195, 08 R179). -/
def Loc.defined : Loc → Bool
  | .tile _ o => winDefined o
  | .slice _ o => within o 0 0x48048 || within o 0x80000 0x90000
  | .cluster _ o =>
    within o 0 0x10 || within o 0x100 0x180 || within o 0x1000 0x1400 || within o 0x10000 0x20000 ||
      within o 0x100000 0x100020 || within o 0x100100 0x100900 || within o 0x101000 0x101810 ||
      within o 0x102000 0x103000 || within o 0x103000 0x103408 || within o 0x110000 0x118008
  | .boundary _ o => within o 0 0x1000
  | .device o =>
    within o 0 0x20 || within o 0x40 0x60 || within o 0x1000 0x1600 || within o 0x2000 0x3008 || within o 0x4000 0x10000 ||
      within o 0x100000 0x204000 || within o 0x300000 0x400000

/-- The place `n` bytes on. -/
def Loc.plus (n : Nat) : Loc → Loc
  | .tile t o => .tile t (o + n)
  | .slice k o => .slice k (o + n)
  | .cluster c o => .cluster c (o + n)
  | .boundary b o => .boundary b (o + n)
  | .device o => .device (o + n)

/-- A range of `n` bytes lies in defined blocks. -/
def Loc.rangeOk (l : Loc) (n : Nat) : Bool := l.defined && (l.plus (n - 1)).defined

/-! ### Masters and grants (09 R197, R198) -/

inductive Master where
  | tile (tid : Nat)
  | copy (cluster tid : Nat)
  | service
  deriving DecidableEq, Repr

/-- A grant entry names the master. -/
def grantMatches (g : W64) (m : Master) : Bool :=
  let rect := fun tid => bitsN g 58 3 == 0 && decide (bitsN g 40 4 ≤ 8) && inRect (bitsN g 44 14) (bitsN g 40 4) tid
  match m with
  | .tile tid => rect tid
  | .copy c tid => rect tid || (bitsN g 58 3 == 1 && bitsN g 44 14 == c)
  | .service => true

/-- A grant entry allows the access. -/
def grantAllows (g : W64) (m : Master) (write : Bool) (off n : Nat) : Bool :=
  g.getLsbD 63 && g.getLsbD (if write then 62 else 61) && grantMatches g m &&
    (bitsN g 0 9 == 511 || decide (off + n ≤ bitsN g 0 9 * 1024))

/-- The check of an access at a tile window: its cause code where it is refused (09 R190, R194, R198, 15 R345). -/
def State.tileCheck (s : State) (m : Master) (write : Bool) (tid off n : Nat) : Option (BitVec 8) :=
  let t := s.tile tid
  if !(Loc.tile tid off).rangeOk n then some 0x10
  else if write && t.run == .quarantined && decide (off < 0x40000) then some 0x12
  else if m != .service && !(vlist t.grants).any fun g => grantAllows g m write off n then some 0x12
  else if 0x50000 ≤ off ∧ (off % 8 ≠ 0 ∨ n % 8 ≠ 0) then some 0x12
  else none

/-- The check of an access in space 0xE (09 R197). -/
def State.chipCheck (s : State) (m : Master) (write : Bool) (l : Loc) (n : Nat) : Option (BitVec 8) :=
  match l with
  | .tile tid off => s.tileCheck m write tid off n
  | _ =>
    if !l.rangeOk n then some 0x10
    else
      match m, l with
      | .service, _ => none
      | .tile _, .boundary _ _ => if write then some 0x12 else none
      | _, _ => some 0x12

/-! ### A tile's window (09 R193, R194) -/

/-- The lock conditions of the waiting bundle (15 R353). -/
def State.lockBits (s : State) (tid : Nat) : BitVec 6 :=
  let t := s.tile tid
  if t.run = .running then
    match t.undo.waiting (s.env tid) with
    | .locked b => b
    | _ => 0
  else 0

/-- Bytes of a range whose doubles `f` gives. -/
def bytesBy (f : Nat → W64) (off n : Nat) : List Byte :=
  (List.range n).map fun k => (f ((off + k) / 8 * 8)).extractLsb' (8 * ((off + k) % 8)) 8

/-- Bytes read at a tile window, and whether the scratchpad gave an error. -/
def State.tileRead (s : State) (tid off n : Nat) : List Byte × Bool :=
  let t := s.tile tid
  if off < 0x40000 then (t.spm.read off n, t.spmBad off n)
  else if off < 0x50000 then
    ((List.range n).map fun k => (vget .empty t.frames ((off + k - 0x40000) / 4096)).bytes.get ((off + k) % 4096), false)
  else
    let lock := if within off 0xB1000 0xB2000 then s.lockBits tid else 0
    (bytesBy (t.winRead (s.env tid) lock) off n, false)

/-- One byte of an instruction-memory frame. -/
def Tile.imemByte (t : Tile) (off : Nat) (b : Byte) : Tile :=
  let k := (off - 0x40000) / 4096
  let f := vget .empty t.frames k
  { t with frames := vput t.frames k { f with bytes := f.bytes.set (off % 4096) b } }

/-- Doubles of a window block written in ascending order. -/
def Tile.winPut (t : Tile) (off : Nat) : List Byte → Tile
  | [] => t
  | bs => (List.range (bs.length / 8)).foldl (fun t k =>
      t.winWrite (off + 8 * k) (BitVec.ofNat 64 (ofBytes ((bs.drop (8 * k)).take 8)))) t.undo

/-- Bytes written at a tile window by a tile or a copy unit: grant entries 1 to 3 and controls take none of them. -/
def State.tileWrite (s : State) (tid off : Nat) (bs : List Byte) : State :=
  s.onTile tid fun t =>
    if off < 0x40000 then t.spmWrite off bs
    else if off < 0x50000 then bs.zipIdx.foldl (fun t (b, k) => t.imemByte (off + k) b) t
    else t.winPut off bs

/-! ### What the other windows hold -/

def TkState.num : TkState → Nat
  | .free => 0 | .pending => 1 | .ready => 2 | .faulted => 3 | .claimed => 4

/-- The two state words of a ticket entry (11 R240). FCODE reads 0 while STATE is not FAULTED (log 92). -/
def Ticket.word0 (e : Ticket) : W64 :=
  BitVec.ofNat 64 (e.state.num <<< 61 + e.kind <<< 57 + (if e.det then 2 ^ 56 else 0) + (if e.frozen then 2 ^ 55 else 0) +
    (if e.line then 2 ^ 54 else 0) + e.gen.toNat <<< 38 + e.retgen.toNat <<< 22 + e.retwhy <<< 20 + e.age)
def Ticket.word1 (e : Ticket) : W64 :=
  BitVec.ofNat 64 (e.owner.toNat <<< 32 + (if e.state = .faulted then e.fcode.toNat <<< 24 else 0) + e.tid)

def RowScore.word (r : RowScore) : W64 := BitVec.ofNat 64 (r.row % 2 ^ 32 + r.score <<< 32)

/-- Double `o` of a slice window, given its stack's hot list with scores. The score table has the hot list's layout (log
11). -/
def Slice.double (x : Slice) (hot : List RowScore) (o : Nat) : W64 :=
  if o < 0x40000 then (x.ticket (o / 128)).data.extractLsb' (64 * (o % 128 / 8)) 64
  else if o < 0x48000 then
    let e := x.ticket ((o - 0x40000) / 16)
    if o % 16 = 0 then e.word0 else e.word1
  else
    match o with
    | 0x48000 => x.issued | 0x48008 => x.nulls | 0x48010 => x.redeemed | 0x48018 => x.cancelled
    | 0x48020 => x.reclaimed | 0x48028 => x.expired | 0x48030 => x.badRedeem
    | 0x48038 => BitVec.ofNat 64 (x.tickets.filter fun (_, e) => e.state != .free).length
    | 0x80000 => x.corr | 0x80008 => x.uncorr | 0x80010 => x.scrubbed | 0x80018 => x.remapped | 0x80020 => x.spares
    | _ =>
      if within o 0x81000 0x84000 then ((hot[(o - 0x81000) / 8]?).map (·.word)).getD 0
      else if 0x84000 ≤ o then ((x.scores[(o - 0x84000) / 8]?).map (·.word)).getD 0 else 0

/-- The hot list of a slice's stack, each row with its score (16 R371). -/
def State.hotRows (s : State) (k : Nat) : List RowScore :=
  (s.hotOf (stackOf k)).map fun (j, row) => ⟨row, (s.slice j).score row⟩

/-- Words of an L2 TLB entry (09 R508). -/
def Tlb.word0 (e : Tlb) : W64 := BitVec.ofNat 64 (2 ^ 63 + e.psz <<< 61 + (if e.w then 2 ^ 60 else 0) + e.gran)
def Tlb.word1 (e : Tlb) : W64 := BitVec.ofNat 64 e.pa

/-- Words of a pending-miss entry (09 R207). -/
def Pend.word0 (p : Pend) : W64 :=
  BitVec.ofNat 64 (2 ^ 63 + (if p.faulted then 2 ^ 62 else 0) + (if p.fb then 2 ^ 61 else 0) + p.kind <<< 59 + p.gran)

/-- Words of a fault-buffer entry (09 R208). -/
def FbEnt.word0 (f : FbEnt) : W64 := BitVec.ofNat 64 (2 ^ 63 + f.kind <<< 61 + f.acc <<< 59 + f.level <<< 56 + f.gran)
def FbEnt.word1 (f : FbEnt) : W64 := BitVec.ofNat 64 (f.time.toNat <<< 32 + f.tid)

/-- FBSTAT (09 R206). -/
def Cluster.fbstat (c : Cluster) : W64 :=
  BitVec.ofNat 64 ((if c.dropped then 256 else 0) + (c.fb.map fun (n, _) => 2 ^ n).foldl (· + ·) 0)

/-- TLBCMD (09 R209). -/
def Cluster.tlbcmd (c : Cluster) : W64 := c.tlbop ||| (if c.tlbBusy then 0x0800000000000000 else 0)

/-- RSV (08 R179). -/
def Rsv.word (r : Rsv) : W64 := BitVec.ofNat 64 (2 ^ 63 + r.queue <<< 40 + r.slot <<< 24 + r.log2n <<< 14 + r.origin)

/-- The usable scratchpad of a tile in KiB (08 R176, R179): none before the device has booted, then all 256 but for the
tiles that `usable` lists (log 70). -/
def State.usableKib (s : State) (tid : Nat) : Nat :=
  if s.dev.sec.booted < 3 then 0 else min 256 ((look tid s.usable).getD 256)

/-- The TILE word of tile `k` of cluster `c` (08 R179). -/
def State.tileWord (s : State) (c k : Nat) : W64 :=
  let tid := tileAt c k
  let t := s.tile tid
  BitVec.ofNat 64 ((if t.resident then 2 ^ 63 + t.gidN else 0) + (if t.run = .quarantined then 2 ^ 62 else 0) +
    (if t.run = .parked then 2 ^ 61 else 0) + (if (s.row (rowOfTile tid)).withheld then 2 ^ 60 else 0) +
    s.usableKib tid <<< 32)

def Report.word (r : Report) (k : Nat) : W64 :=
  match k with
  | 0 => r.w0 | 1 => r.w1 | 2 => r.w2 | _ => r.w3

def JobSt.num : JobSt → Nat
  | .waiting => 0 | .running => 1 | .ended => 2

/-- The handle table a job goes by: the table, or once it has started its own snapshots (09 R201). -/
def State.jobTable (s : State) (j : Job) : List (Nat × (W64 × W64)) :=
  if j.st = .waiting then s.dev.handles
  else
    let hs := if j.card.srcOc then s.dev.handles else put (bitsN j.card.sb 48 16) j.src s.dev.handles
    if j.card.dstOc || j.card.cb then hs else put (bitsN j.card.db 48 16) j.dst hs

/-- The footprints of a job (13 R290). -/
def State.jobReads (s : State) (j : Job) : List PhysRange := j.card.readPrint (s.jobTable j)
def State.jobWrites (s : State) (j : Job) : List PhysRange :=
  j.card.writePrint (s.jobTable j) j.tid ((s.tile j.tid).cbuf j.card.buf)

/-- Job `i` has an edge to job `j` (13 R290). -/
def State.edge (s : State) (i j : Job) : Bool :=
  i.gid == j.gid && decide (i.seqNo < j.seqNo) &&
    (printsMeet (s.jobWrites i) (s.jobReads j) || printsMeet (s.jobReads i) (s.jobWrites j) ||
      printsMeet (s.jobWrites i) (s.jobWrites j))

/-- Double `k` of job-queue entry `j` (08 R179). -/
def State.jobDouble (s : State) (c : Cluster) (j : Job) (k : Nat) : W64 :=
  if k < 8 then vget 0 j.card.w k
  else if k < 40 then j.card.nest.extractLsb' (64 * (k - 8)) 64
  else
    match k with
    | 40 => j.ticket
    | 41 => BitVec.ofNat 64 (2 ^ 63 + j.st.num <<< 60 + j.attempt <<< 56 + j.gid.toNat)
    | 42 => BitVec.ofNat 64 j.tid
    | 43 => BitVec.ofNat 64 ((c.jobs.filter fun (_, i) => i.st != .ended && s.edge i j).map fun (n, _) => 2 ^ n).sum
    | _ => 0

/-- Double `o` of cluster `n`'s window. HANDOVER shows the first 64 records handed over, the oldest at place 0 (log 113). -/
def State.clusterDouble (s : State) (n o : Nat) : W64 :=
  let c := s.cluster n
  if o = 0 then c.tlbcmd
  else if o = 8 then c.fbstat
  else if o < 0x180 then
    match look ((o - 0x100) / 16) c.fb with
    | some f => if o % 16 = 0 then f.word0 else f.word1
    | none => 0
  else if o < 0x1400 then
    match look ((o - 0x1000) / 16) c.pend with
    | some p => if o % 16 = 0 then p.word0 else BitVec.ofNat 64 p.waiters.length
    | none => 0
  else if o < 0x20000 then
    match look ((o - 0x10000) / 16) c.l2 with
    | some e => if o % 16 = 0 then e.word0 else e.word1
    | none => 0
  else if o = 0x100000 then c.dspctl
  else if o = 0x100008 then c.ser.setWidth 64
  else if o = 0x100010 then (c.rsv.map (·.word)).getD 0
  else if o = 0x100018 then BitVec.ofNat 64 (ofBytes (vlist c.rrptr))
  else if o < 0x100900 then s.tileWord n ((o - 0x100100) / 8)
  else if o < 0x101800 then
    -- ring place k holds the report (k - oldest) mod 64 after the oldest
    let k := (o - 0x101000) / 32
    ((c.supring[(k + 64 - c.supAt) % 64]?).map fun r => r.word (o % 32 / 8)).getD 0
  else if o = 0x101800 then
    BitVec.ofNat 64 (c.supring.length + c.supAt <<< 8 + (if c.supOvf then 2 ^ 16 else 0))
  else if o < 0x102000 then 0
  else if o < 0x103000 then
    match c.handover[(o - 0x102000) / 64]? with
    | some h =>
      let k := o % 64 / 8
      if k < 4 then h.record.extractLsb' (64 * k) 64
      else if k = 4 then BitVec.ofNat 64 (h.queue + 256) else 0
    | none => 0
  else if o < 0x103400 then
    match c.throt[(o - 0x103000) / 16]? with
    | some x => if o % 16 = 0 then x.ns else x.what
    | none => 0
  else if o = 0x103400 then BitVec.ofNat 64 (c.throt.length + (if c.throtOvf then 2 ^ 16 else 0))
  else if o < 0x118000 then
    match look ((o - 0x110000) / 512) c.jobs with
    | some j => s.jobDouble c j (o % 512 / 8)
    | none => 0
  else BitVec.ofNat 64 (c.jobs.filter fun (_, j) => j.st != .ended).length

/-- A boundary module at reset: its own stream on it (16 R357). -/
def Module.reset (m : Nat) : Module := ⟨0, 0, 0, 0, false, 0, BitVec.ofNat 8 m, 0xFF, 0, []⟩

/-- Module `m` of boundary `b`. -/
def State.module (s : State) (b m : Nat) : Module := (look (48 * b + m) s.modules).getD (.reset m)
def State.setModule (s : State) (b m : Nat) (x : Module) : State := { s with modules := put (48 * b + m) x s.modules }

/-- The state word of a module (16 R357). -/
def Module.word3 (x : Module) : W64 :=
  BitVec.ofNat 64 (x.width + (if x.rt then 4 else 0) + x.repaired <<< 8 + x.stream.toNat <<< 16 + x.xstream.toNat <<< 24)

/-- CAP: x64 modules, and half the number of x32 modules (16 R357). -/
def State.cap (s : State) (b : Nat) : Nat :=
  let ms := ((List.range 48).map (s.module b)).filter fun x => !x.rt
  (ms.filter (·.width == 0)).length + (ms.filter fun x => x.width == 1 || x.width == 2).length / 2

/-- Double `o` of a boundary window. -/
def State.boundaryDouble (s : State) (b o : Nat) : W64 :=
  if o < 0x600 then
    let x := s.module b (o / 32)
    match o % 32 / 8 with
    | 0 => x.crcerr | 1 => x.replay | 2 => x.retrain | _ => x.word3
  else if o = 0x800 then BitVec.ofNat 64 (s.cap b)
  else 0

/-- The words of an image-table entry (17 R380). -/
def Image.word0 (x : Image) : W64 :=
  BitVec.ofNat 64 ((if x.v then 2 ^ 63 else 0) + (if x.rev then 2 ^ 62 else 0) + x.gen.toNat <<< 19 + x.npages)
def Image.word1 (x : Image) : W64 := BitVec.ofNat 64 (x.codeh.toNat <<< 48 + x.hashh.toNat <<< 32)

/-- Word `k` of a queue descriptor (08 R173, 09 R195). -/
def QDesc.word (q : QDesc) (k : Nat) : W64 :=
  match k with
  | 0 => boolW q.en | 1 => q.ring.setWidth 64 | 2 => BitVec.ofNat 64 q.log2 | 3 => q.cmask | 4 => q.prod.setWidth 64
  | 5 => q.claim.setWidth 64 | 6 => q.retire.setWidth 64 | 7 => q.ckpool.setWidth 64 | 8 => q.cksize.setWidth 64
  | _ => 0

/-- A table entry of two words. -/
def pairWord (l : List (Nat × (W64 × W64))) (o : Nat) : W64 :=
  let x := (look (o / 16) l).getD (0, 0)
  if o % 16 = 0 then x.1 else x.2

/-- Double `o` of the device window. -/
def State.deviceDouble (s : State) (o : Nat) : W64 :=
  let d := s.dev
  if o < 0x40 then
    match o with
    | 0 => d.devid.setWidth 64 | 8 => d.ptroot | 0x10 => d.logpool | 0x18 => BitVec.ofNat 64 d.tkttl | _ => 0
  else if o < 0x60 then (Config.featureVector[(o - 0x40) / 8]?).getD 0
  else if o < 0x1600 then
    let p := vget .reset d.ports ((o - 0x1000) / 64)
    match o % 64 / 8 with
    | 0 => BitVec.ofNat 64 p.state | 1 => p.crcerr | 2 => p.retry | _ => 0
  else if o < 0x3000 then (look ((o - 0x2000) / 8) d.routes).getD 0
  else if o = 0x3000 then d.otherPort
  else if o < 0x8000 then
    let x := s.image ((o - 0x4000) / 16)
    if o % 16 = 0 then x.word0 else x.word1
  else if o < 0x10000 then (s.queueDesc ((o - 0x8000) / 128)).word (o % 128 / 8)
  else if o < 0x200000 then pairWord d.handles (o - 0x100000)
  else if o < 0x204000 then pairWord d.peers (o - 0x200000)
  else if 0x300000 ≤ o then
    (look ((o - 0x300000) % 0x40000) (vget .reset d.mail ((o - 0x300000) / 0x40000)).words).getD 0
  else 0

/-- Bytes read at a place of the on-chip map, and whether an error was met. -/
def State.chipRead (s : State) (l : Loc) (n : Nat) : List Byte × Bool :=
  match l with
  | .tile tid off => s.tileRead tid off n
  | .slice k off => (bytesBy ((s.slice k).double (s.hotRows k)) off n, false)
  | .cluster c off => (bytesBy (s.clusterDouble c) off n, false)
  | .boundary b off => (bytesBy (s.boundaryDouble b) off n, false)
  | .device off => (bytesBy s.deviceDouble off n, false)

end Sys2Proof.Machine
end

