-- ==== Sys2Proof/Machine/Translate.lean ====
section
/-! DEFINITION. Translation: the page walk, the TLBs, the pending-miss list, the fault buffer and the TLB commands
(09 R202 to R210, R508, 19 R434, 20 R449), the write log's stores (10 R212 to R214) and LOC's word (01 R18 to R20). -/
namespace Sys2Proof.Machine

/-! ### Lanes of outstanding requests -/

def Tile.req? (t : Tile) (id : Nat) : Option Req := t.reqs.find? (·.id == id)
def Req.lane? (r : Req) (idx : Nat) : Option Lane := r.lanes.find? (·.idx == idx)

/-- Request and lane by their numbers. -/
def Tile.lane? (t : Tile) (id idx : Nat) : Option (Req × Lane) :=
  (t.req? id).bind fun r => (r.lane? idx).map fun l => (r, l)

def Tile.onReq (t : Tile) (id : Nat) (f : Req → Req) : Tile :=
  { t with reqs := t.reqs.map fun r => if r.id = id then f r else r }

def Tile.onLane (t : Tile) (id idx : Nat) (f : Lane → Lane) : Tile :=
  t.onReq id fun r => { r with lanes := r.lanes.map fun l => if l.idx = idx then f l else l }

def Tile.dropReq (t : Tile) (id : Nat) : Tile := { t with reqs := t.reqs.filter fun r => r.id != id }

/-- A store's access is over: it leaves its request, and the last one takes the request with it. -/
def Tile.closeStore (t : Tile) (id idx : Nat) : Tile :=
  let u := t.onReq id fun r => { r with lanes := r.lanes.filter fun l => l.idx != idx }
  { u with reqs := u.reqs.filter fun r => !(r.id == id && r.lanes.isEmpty) }

/-- The access has performed and holds these bytes. -/
def Tile.laneDone (t : Tile) (id idx : Nat) (data : BitVec 1120) : Tile :=
  t.onLane id idx fun l => { l with st := .fin, data := data }

/-- The location word (01 R18). -/
def locWord (kind : Nat) (sv : Bool) (cost bnd die cluster slice : Nat) : W64 :=
  BitVec.ofNat 64 (kind <<< 62 + (if sv then 2 ^ 25 else 0) + cost <<< 22 + bnd <<< 19 + die <<< 16 + cluster <<< 10 + slice)

/-- No location. -/
def locNone : W64 := locWord 3 false 7 0 0 0 0

/-- An access fails (09 R210): a store's is deferred, LOC answers KIND 3, PREF is dropped, any other's is carried. -/
def Tile.laneFail (t : Tile) (r : Req) (l : Lane) (code aux : BitVec 8) : Tile :=
  match r.kind with
  | .store | .storeRel => (t.defer code l.addr aux).closeStore r.id l.idx
  | .loc => t.laneDone r.id l.idx (locNone.setWidth 1120)
  | .pref => t.dropReq r.id
  | _ => t.onLane r.id l.idx fun l => { l with st := .flt code aux }

/-- A fault met as the access is looked up comes only after the release steps: a JOIN's always (08 R183, 19 R430), an AMO.REL's
where its address is not one of space 0x0, whose translation comes before those steps (18 R391). -/
def Req.faultsLate (r : Req) (virt : Bool) : Bool :=
  match r.kind with
  | .join => true
  | .amo _ .rel => !virt
  | _ => false

/-- An access fails as it is looked up: at once, or once the tile's log is published. -/
def Tile.lookFail (t : Tile) (r : Req) (l : Lane) (virt : Bool) (code aux : BitVec 8) : Tile :=
  if r.faultsLate virt then t.onLane r.id l.idx fun l => { l with st := .deny code aux } else t.laneFail r l code aux

/-- What a request needs of a leaf: 0 read, 1 store, 2 atomic, 3 LOC, 4 PREF. -/
def ReqKind.acc : ReqKind → Nat
  | .store | .storeRel => 1
  | .amo _ _ | .join => 2
  | .loc => 3
  | .pref => 4
  | _ => 0

/-- A store or an atomic: it needs W = 1. -/
def needsW (acc : Nat) : Bool := acc == 1 || acc == 2

/-! ### The walk (09 R202 to R204) -/

inductive Walk where
  | leaf (e : Tlb)
  | fault (kind level : Nat)
  | error
  deriving DecidableEq, Repr

/-- Granules per entry of a level, as a shift: a page of 64 KiB, 2 MiB, 1 GiB and up. -/
def levelShift (level : Nat) : Nat := if level = 0 then 0 else 5 + 9 * (level - 1)

def levelIndex (gran level : Nat) : Nat := gran / 2 ^ levelShift level % (if level = 0 then 32 else 512)
def tableSize (level : Nat) : Nat := if level = 0 then 256 else 4096

/-- A present entry is malformed at its level (09 R203). -/
def pteBad (e : W64) (level : Nat) : Bool :=
  let addr := bitsN e 8 32 * 256
  bitsN e 40 21 != 0 || bitsN e 0 8 != 0 ||
    (if e.getLsbD 62 then decide (3 ≤ level) || addr % (65536 * 2 ^ levelShift level) != 0
    else level == 0 || addr % tableSize (level - 1) != 0 || !addressable addr (tableSize (level - 1)))

/-- The walk from the table at `t` of level `level` on. -/
def State.walkFrom (s : State) (gran : Nat) : Nat → Nat → Walk × State
  | level, t =>
    let (bs, bad, s) := s.readHbm (t + 8 * levelIndex gran level) 8
    let e := BitVec.ofNat 64 (ofBytes bs)
    if bad then (.error, s)
    else if !e.getLsbD 63 then (.fault 1 level, s)
    else if pteBad e level then (.fault 3 level, s)
    else if e.getLsbD 62 then
      (.leaf ⟨level, e.getLsbD 61, gran / 2 ^ levelShift level * 2 ^ levelShift level, bitsN e 8 32 * 256⟩, s)
    else
      match level with
      | 0 => (.fault 3 0, s)
      | k + 1 => State.walkFrom s gran k (bitsN e 8 32 * 256)

def State.walk (s : State) (gran : Nat) : Walk × State :=
  let root := bitsN s.dev.ptroot 12 28 * 4096
  if addressable root 4096 then s.walkFrom gran 4 root else (.fault 3 4, s)

/-! ### TLBs (09 R205, R508) -/

def Tlb.covers (e : Tlb) (gran : Nat) : Bool := gran / 2 ^ levelShift e.psz == e.gran / 2 ^ levelShift e.psz

/-- The physical address an entry gives. -/
def Tlb.paOf (e : Tlb) (va : Nat) : Nat := e.pa + va % (65536 * 2 ^ levelShift e.psz)

/-- The entry an access can use. -/
def tlbFind (l : List Tlb) (gran acc : Nat) : Option Tlb := l.find? fun e => e.covers gran && (!needsW acc || e.w)

/-- Held by the L1, the oldest of 32 leaving. -/
def Tile.tlbPut (t : Tile) (e : Tlb) : Tile := { t with tlb := e :: (t.tlb.filter (· != e)).take 31 }

/-- Held by the L2: the entry's set, its lowest free way, else way 0. -/
def Cluster.tlbPut (c : Cluster) (e : Tlb) : Cluster :=
  if c.l2.any fun (_, x) => x == e then c
  else
    let base := 8 * (e.gran % 512)
    let way := ((List.range 8).find? fun w => (look (base + w) c.l2).isNone).getD 0
    { c with l2 := put (base + way) e c.l2 }

/-- L1, then L2, which fills the L1. -/
def State.tlbLook (s : State) (tile gran acc : Nat) : Option Tlb × State :=
  match tlbFind (s.tile tile).tlb gran acc with
  | some e => (some e, s)
  | none =>
    match tlbFind ((s.cluster (clusterOf tile)).l2.map (·.2)) gran acc with
    | some e => (some e, s.onTile tile fun t => t.tlbPut e)
    | none => (none, s)

/-- What an access of space 0x0 or of a peer will read or write: the physical address it translated to, or would by the
TLBs and the tables now (log 78); a peer's address stands for itself. -/
def State.reaches (s : State) (tile : Nat) (l : Lane) : Option Nat :=
  match spaceOf l.addr, l.st with
  | .virt _, .hit pa => some pa
  | .virt va, .issue | .virt va, .miss =>
    match tlbFind ((s.tile tile).tlb ++ (s.cluster (clusterOf tile)).l2.map (·.2)) (va / 65536) 0 with
    | some e => some (e.paOf va)
    | none =>
      match (s.walk (va / 65536)).1 with
      | .leaf e => some (e.paOf va)
      | _ => none
  | .virt _, _ | .nowhere, _ => none
  | .peer _ _, _ | .chip _, _ => some l.addr.toNat

/-! ### Logging a store (10 R212 to R214) -/

/-- A store's bytes by double: the double, its mask, its data. -/
def pieces (pa n : Nat) (data : BitVec 1120) : List (Nat × BitVec 8 × W64) :=
  (List.range ((pa + n - 1) / 8 + 1 - pa / 8)).map fun k =>
    let d := pa / 8 + k
    let on := fun j => decide (pa ≤ 8 * d + j) && decide (8 * d + j < pa + n)
    (d, BitVec.ofNat 8 (packN 1 ((List.range 8).map fun j => if on j then 1 else 0)),
      BitVec.ofNat 64 (packN 8 ((List.range 8).map fun j => if on j then elem data 8 (8 * d + j - pa) else 0)))

/-- The lowest free entry number, the list in order of its numbers. -/
def lowestGap : Nat → List LogEnt → Nat
  | k, [] => k
  | k, e :: l => if e.idx = k then lowestGap (k + 1) l else k

def insertEnt (x : LogEnt) : List LogEnt → List LogEnt
  | [] => [x]
  | e :: l => if x.idx < e.idx then x :: e :: l else e :: insertEnt x l

/-- An overflow record of a tile written at its place in the pool (10 R214), or the cause for which it is not: log-full for an area
that is full and for the handle's check, the place's own for a write that the slices do not take (16 R370, 17 R382). The
records since the last publication count, whether or not an atomic has published some of them (10 R222). -/
def State.ovfPut (s : State) (tile : Nat) (r : OvfRec) : Option (BitVec 8) × State :=
  let k := (s.tile tile).ovfCount
  let off := bitsN s.dev.logpool 20 28 * 2 ^ 20 + tile * 2 ^ 20 + 16 * k
  if Config.overflowRecords ≤ k then (some 0x1B, s)
  else
    let (c, s) := s.handlePut (bitsN s.dev.logpool 48 16) off (bytesOf 8 (logTag r.st.mask r.dbl) ++ bytesOf 8 r.st.data) 0x1B
    (c, if c.isNone then s.onTile tile fun t => { t with ovf := t.ovf ++ [r], ovfCount := k + 1 } else s)

/-- One double's bytes logged, or the cause for which they are not. A new double takes the lowest free entry (log 90). -/
def State.logPut (s : State) (tile id : Nat) (p : Nat × BitVec 8 × W64) : Option (BitVec 8) × State :=
  let t := s.tile tile
  let st : LogStore := ⟨id, p.2.1, p.2.2⟩
  if t.log.any fun e => e.dbl == p.1 then
    (none, s.setTile tile
      { t with log := t.log.map fun e => if e.dbl = p.1 then { e with hist := e.hist ++ [st] } else e })
  else if t.log.length < Config.logEntries && !(t.ovf.any fun r => r.dbl == p.1) then
    (none, s.setTile tile { t with log := insertEnt ⟨lowestGap 0 t.log, p.1, [st]⟩ t.log })
  else s.ovfPut tile ⟨p.1, st⟩

/-- A whole store logged, or nothing of it and the cause. -/
def State.logAll (s : State) (tile id : Nat) (ps : List (Nat × BitVec 8 × W64)) : Option (BitVec 8) × State :=
  let (c, u) := ps.foldl (fun (c, u) p => if c.isNone then u.logPut tile id p else (c, u)) (none, s)
  (c, if c.isNone then u else { s with fresh := u.fresh })

/-- A translated store enters the log, where no byte of it lies in a HASHH region (17 R382, log 77). -/
def State.logStore (s : State) (tile : Nat) (r : Req) (l : Lane) (pa : Nat) : State :=
  if s.hashed pa l.len then s.onTile tile fun t => t.laneFail r l 0x12 0
  else
    let (c, s) := s.logAll tile r.id (pieces pa l.len l.data)
    s.onTile tile fun t =>
      match c with
      | none => t.closeStore r.id l.idx
      | some code => t.laneFail r l code 0

/-- The lanes of a store of space 0x0 enter the log in lane order, up to the first that has not translated (20 R457). -/
def State.logLanes (s : State) (tile : Nat) (r : Req) : List Lane → State
  | [] => s
  | l :: ls =>
    match spaceOf l.addr, l.st with
    | .virt _, .hit pa => State.logLanes (s.logStore tile r l pa) tile r ls
    | .virt _, .issue | .virt _, .miss => s
    | _, _ => State.logLanes s tile r ls

/-- The lanes of a request that may enter the log now, if it is a logged store's. -/
def State.logReady (s : State) (tile id : Nat) : State :=
  match (s.tile tile).req? id with
  | some r => if r.kind == .store then s.logLanes tile r r.lanes else s
  | none => s

/-- An access of space 0x0 fails; a store's later lanes wait for it no longer. -/
def State.failVirt (s : State) (tile : Nat) (r : Req) (l : Lane) (code aux : BitVec 8) : State :=
  (s.onTile tile fun t => t.lookFail r l true code aux).logReady tile r.id

/-! ### LOC (01 R18 to R20) -/

/-- Boundaries between two dies (01 R16). -/
def boundaries (a b : Nat) : Nat :=
  (a % 2 - b % 2) + (b % 2 - a % 2) + (a / 2 - b / 2) + (b / 2 - a / 2)

/-- The cost class of a target `n` boundaries away: `near` on the tile's own die (01 R20). -/
def costFar (n near : Nat) : Nat :=
  match n with
  | 0 => near | 1 => 4 | 2 => 5 | _ => 6

/-- The word of a place in cluster `c`. -/
def locAt (tile kind c near : Nat) (slice : Option Nat) : W64 :=
  let n := boundaries (dieOf (clusterOf tile)) (dieOf c)
  locWord kind slice.isSome (costFar n near) n (dieOf c) c (slice.getD 0)

/-- On-chip state on the tile's die: its own cluster's, or another's. The spec's classes name a tile or a slice of the
issuing tile's cluster, and what lies elsewhere on its die; the window of its own cluster is neither, and takes the class of
its cluster (log 60). -/
def nearChip (tile c : Nat) : Nat := if clusterOf tile = c then 1 else 2

def locChip (tile : Nat) (l : Loc) : W64 :=
  if !l.defined then locNone
  else
    match l with
    | .tile t _ => locAt tile 0 (clusterOf t) (if t = tile then 0 else nearChip tile (clusterOf t)) none
    | .slice k _ => locAt tile 0 (homeCluster k) (nearChip tile (homeCluster k)) (some k)
    | .cluster c _ => locAt tile 0 c (nearChip tile c) none
    | .boundary _ _ | .device _ => locWord 0 false 6 0 0 0 0

/-- HBM at a physical address. -/
def locHbm (tile pa : Nat) : W64 :=
  if addressable pa 1 then locAt tile 1 (homeCluster (sliceOf pa)) 3 (some (sliceOf pa)) else locNone

/-! ### Read-cache fills (10 R216) -/

/-- A line as a tile sees it at its slices now. -/
def State.fillNow (s : State) (tile line : Nat) : Fill × State :=
  let bs := s.seenBy tile (128 * line) (s.hbm.read (128 * line) 128)
  let (lo, s) := s.granuleRead (2 * line)
  let (hi, s) := s.granuleRead (2 * line + 1)
  (⟨line, BitVec.ofNat 1024 (ofBytes bs), lo, hi, false⟩, s)

/-- The line is cached or on its way. -/
def Tile.lineComing (t : Tile) (line : Nat) : Bool :=
  t.cache.any (·.line == line) || t.fills.any fun f => f.line == line && !f.discard

def State.startFill (s : State) (tile line : Nat) : State :=
  if (s.tile tile).lineComing line then s
  else
    let (f, s) := s.fillNow tile line
    s.onTile tile fun t => { t with fills := t.fills ++ [f] }

/-! ### An access translated (09 R204, R210, R211) -/

def State.translated (s : State) (tile : Nat) (r : Req) (l : Lane) (pa : Nat) : State :=
  match r.kind with
  | .loc => s.onTile tile fun t => t.laneDone r.id l.idx ((locHbm tile pa).setWidth 1120)
  | .pref => (if addressable pa 1 then s.startFill tile (pa / 128) else s).onTile tile fun t => t.dropReq r.id
  | _ =>
    if !addressable pa l.len then s.failVirt tile r l 0x10 0
    else (s.onTile tile fun t => t.onLane r.id l.idx fun l => { l with st := .hit pa }).logReady tile r.id

/-! ### Misses (09 R207) -/

/-- The entry of a granule. -/
def Cluster.pendOf (c : Cluster) (gran : Nat) : Option (Nat × Pend) := c.pend.find? fun (_, p) => p.gran == gran

/-- A miss joins its granule's entry, or makes one and starts a walk; it waits where none is free. -/
def State.miss (s : State) (tile : Nat) (r : Req) (l : Lane) (gran : Nat) : State :=
  let n := clusterOf tile
  let c := s.cluster n
  let w : Waiter := ⟨tile, r.id, l.idx, r.kind.acc⟩
  let go := fun (k : Nat) (p : Pend) =>
    (s.setCluster n { c with pend := put k p c.pend }).onTile tile fun t =>
      t.onLane r.id l.idx fun l => { l with st := .miss }
  match c.pendOf gran with
  | some (k, p) => go k { p with waiters := p.waiters ++ [w] }
  | none =>
    match lowestFree 64 c.pend with
    | some k => go k ⟨gran, false, false, 0, true, tile, [w], []⟩
    | none => s

/-- LOC's miss: of a walk in progress it takes the outcome (19 R434). -/
def State.missLoc (s : State) (tile : Nat) (r : Req) (l : Lane) (va : Nat) : State :=
  let n := clusterOf tile
  let c := s.cluster n
  match c.pendOf (va / 65536) with
  | some (k, p) =>
    if p.faulted then s.onTile tile fun t => t.laneDone r.id l.idx (locNone.setWidth 1120)
    else
      (s.setCluster n { c with pend := put k { p with locs := p.locs ++ [⟨tile, r.id, l.idx, 3⟩] } c.pend }).onTile tile fun t =>
        t.onLane r.id l.idx fun l => { l with st := .miss }
  | none =>
    let (w, s) := s.walk (va / 65536)
    match w with
    | .leaf e => s.translated tile r l (e.paOf va)
    | _ => s.onTile tile fun t => t.laneDone r.id l.idx (locNone.setWidth 1120)

/-! ### An access looked up -/

/-- The cause code of a join block's address outside space 0x0 (19 R430). -/
def State.joinCode (s : State) (a : W64) : BitVec 8 :=
  match bitsN a 60 4 with
  | 0xD => if bitsN a 40 20 = s.dev.devid.toNat then 0x10 else 0x12
  | 0xE => 0x12
  | _ => 0x10

/-- An access outside space 0x0 (09 R190, R196, 11 R246, 19 R430). An LDT faults on every address of space 0xE with the
access fault. -/
def State.lookDirect (s : State) (tile : Nat) (r : Req) (l : Lane) : Space → State
  | .peer dev _ =>
    s.onTile tile fun t =>
      match r.kind with
      | .loc => t.laneDone r.id l.idx ((if dev = s.dev.devid.toNat then locNone else locWord 2 false 7 0 0 0 0).setWidth 1120)
      | .pref => t.dropReq r.id
      | .join => t.lookFail r l false (s.joinCode l.addr) 0
      | _ =>
        if dev = s.dev.devid.toNat then t.lookFail r l false 0x10 0
        else t.onLane r.id l.idx fun l => { l with st := .hit l.addr.toNat }
  | .chip x =>
    s.onTile tile fun t =>
      match r.kind with
      | .loc => t.laneDone r.id l.idx ((locChip tile x).setWidth 1120)
      | .pref => t.dropReq r.id
      | .join => t.lookFail r l false (s.joinCode l.addr) 0
      | .ldt _ => t.laneFail r l 0x12 0
      | _ => t.onLane r.id l.idx fun l => { l with st := .hit l.addr.toNat }
  | _ => s.onTile tile fun t =>
      match r.kind with
      | .join => t.lookFail r l false (s.joinCode l.addr) 0
      | .ldt _ => t.laneFail r l (if bitsN l.addr 60 4 = 0xE then 0x12 else 0x10) 0
      | _ => t.lookFail r l false 0x10 0

def State.lookUp (s : State) (tile : Nat) (r : Req) (l : Lane) : State :=
  match spaceOf l.addr with
  | .virt va =>
    let (e, s) := s.tlbLook tile (va / 65536) r.kind.acc
    match e, r.kind with
    | some e, _ => s.translated tile r l (e.paOf va)
    | none, .loc => s.missLoc tile r l va
    | none, .pref => s.onTile tile fun t => t.dropReq r.id
    | none, _ => s.miss tile r l (va / 65536)
  | sp => s.lookDirect tile r l sp

/-- The accesses of a tile in order of issue. -/
def Tile.accesses (t : Tile) : List (Nat × Lane) := t.reqs.flatMap fun r => r.lanes.map fun l => (r.id, l)

/-- An acquiring atomic of an earlier bundle has not been performed (10 R228). -/
def Tile.acqHeld (t : Tile) (nb : Nat) : Bool :=
  t.reqs.any fun r => decide (r.nb < nb) && r.lanes.any (·.open_) &&
    match r.kind with
    | .amo _ .acq => true
    | _ => false

/-- The access has not come to its target. -/
def Lane.untranslated (l : Lane) : Bool := l.st == .issue || l.st == .miss

/-- Every store of a request that `p` names has translated or has failed (09 R211). -/
def Tile.storesSettled (t : Tile) (p : Req → Bool) : Bool :=
  !t.reqs.any fun r => p r && r.kind.isStore && r.lanes.any (·.untranslated)

def ReqKind.isLoad : ReqKind → Bool
  | .load _ _ | .vload _ _ | .gload _ => true
  | _ => false

def ReqKind.isAmo : ReqKind → Bool
  | .amo _ _ => true
  | _ => false

/-- An access of AU that an acquiring atomic before it holds; LOC waits for nothing (19 R434), ENQ and JOIN are SY's. -/
def ReqKind.waitsAcq : ReqKind → Bool
  | .loc | .enq _ _ | .join => false
  | _ => true

/-- The access cannot be looked up now, and those behind it go on: an acquiring atomic holds it (10 R228), it is a load behind a
store that has neither translated nor failed (19 R431), a releasing store whose release steps are to come (20 R467), or it
misses and no pending-miss entry is free (09 R207). -/
def State.stuck (s : State) (tile : Nat) (r : Req) (l : Lane) : Bool :=
  let t := s.tile tile
  let c := s.cluster (clusterOf tile)
  r.kind.waitsAcq && t.acqHeld r.nb ||
    (r.kind.isLoad && !t.storesSettled fun x => decide (x.id < r.id)) || (r.kind == .storeRel && r.sent.isNone) ||
    match spaceOf l.addr with
    | .virt va =>
      r.kind != .loc && r.kind != .pref && (tlbFind (t.tlb ++ c.l2.map (·.2)) (va / 65536) r.kind.acc).isNone &&
        (c.pendOf (va / 65536)).isNone && (lowestFree 64 c.pend).isNone
    | _ => false

/-- The access is next to translate: it can be looked up, and none before it can that has not been (09 R205). -/
def State.nextUp (s : State) (tile : Nat) (r : Req) (l : Lane) : Bool :=
  let first := (s.tile tile).reqs.findSome? fun x =>
    (x.lanes.find? fun y => y.st == .issue && !s.stuck tile x y).map fun y => (x.id, y.idx)
  l.st == .issue && first == some (r.id, l.idx)

/-- TLB_MISS_WALK: the tile's next access looks up the TLBs; a miss joins or starts a walk. -/
def execTlbMissWalk (tile id lane : Nat) (s : State) : Host.Outcome State Fault Refusal :=
  .next (match (s.tile tile).lane? id lane with
    | some (r, l) => if s.nextUp tile r l then s.lookUp tile r l else s
    | none => s)

/-! ### A walk's outcome (09 R208) -/

def State.onCluster (s : State) (c : Nat) (f : Cluster → Cluster) : State := s.setCluster c (f (s.cluster c))

/-- A walk faulted: its entry keeps these waiters, and a fault-buffer entry takes the fault, or DROPPED is set. -/
def State.walkFault (s : State) (n k : Nat) (p : Pend) (kind level : Nat) (ws : List Waiter) : State :=
  let c := s.cluster n
  let acc := if ws.any (·.acc == 1) then 1 else if ws.any (·.acc == 2) then 2 else 0
  let zero := decide (c.fbstat = 0)
  let slot := lowestFree 8 c.fb
  let c := { c with
    pend := put k { p with faulted := true, fb := slot.isSome, kind := kind, walking := false, waiters := ws, locs := [] } c.pend
    fb := match slot with
      | some j => put j ⟨kind, acc, level, p.gran, BitVec.ofNat 32 s.ns, p.starter⟩ c.fb
      | none => c.fb
    dropped := c.dropped || slot.isNone }
  let s := s.setCluster n c
  if zero then s.notify (quadrantOf n) (.faultBuffer n) else s

/-- What a walk gives one waiter. -/
def State.wake (s : State) (w : Waiter) (f : State → Req → Lane → State) : State :=
  match (s.tile w.tile).lane? w.id w.lane with
  | some (r, l) => if l.st = .miss then f s r l else s
  | none => s

/-- The virtual address of an access in space 0x0. -/
def Lane.va (l : Lane) : Nat := bitsN l.addr 0 57

/-- The LOCs that waited for a walk that gave no translation. -/
def State.noLoc (s : State) (p : Pend) : State :=
  p.locs.foldl (fun s w => s.wake w fun s r l => s.onTile w.tile fun t => t.laneDone r.id l.idx (locNone.setWidth 1120)) s

/-- PAGE_WALK_COMPLETE. -/
def execPageWalkComplete (cluster slot : Nat) (s : State) : Host.Outcome State Fault Refusal :=
  .next (match look slot (s.cluster cluster).pend with
    | none => s
    | some p =>
      if !p.walking then s
      else
        let (w, s) := s.walk p.gran
        let free := fun s : State => s.onCluster cluster fun c => { c with pend := drop1 slot c.pend }
        match w with
        | .error =>
          p.waiters.foldl (fun s w => s.wake w fun s r l => s.failVirt w.tile r l 0x14 0) ((free s).noLoc p)
        | .fault kind level => (s.walkFault cluster slot p kind level p.waiters).noLoc p
        | .leaf e =>
          let blocked := fun w : Waiter => needsW w.acc && !e.w
          let rest := p.waiters.filter blocked
          let s := s.onCluster cluster fun c => c.tlbPut e
          let s := if rest.isEmpty then free s else s.walkFault cluster slot p 2 e.psz rest
          ((p.waiters.filter fun w => !blocked w) ++ p.locs).foldl (fun s w =>
            s.wake w fun s r l => (s.onTile w.tile fun t => t.tlbPut e).translated w.tile r l (e.paOf l.va)) s)

/-! ### TLB commands (09 R209) -/

/-- The tiles of a cluster that are not in their reset state. -/
def State.tilesOf (s : State) (cluster : Nat) : List (Nat × Tile) := s.tiles.filter fun (t, _) => clusterOf t == cluster

/-- A command that has not acted yet. -/
def Cluster.commanded (c : Cluster) (op : Nat) : Bool := c.tlbBusy && c.tlbPend && bitsN c.tlbop 60 4 == op

/-- The access translated under one of these entries and has not come to its target. -/
def Lane.under (l : Lane) (out : List Tlb) : Bool :=
  match spaceOf l.addr, l.st with
  | .virt va, .hit pa => out.any fun e => e.covers (va / 65536) && e.paOf va == pa
  | _, _ => false

/-- Entries that satisfy `p` leave every TLB of the cluster; the command's end waits for what translated under them. A lane
of a scatter that waits for an earlier one translates again instead. -/
def State.inval (s : State) (cluster : Nat) (p : Tlb → Bool) : State :=
  let c := s.cluster cluster
  let out := fun t : Tile => (c.l2.map (·.2)).filter p ++ t.tlb.filter p
  let waits := (s.tilesOf cluster).flatMap fun (tid, t) =>
    (t.reqs.filter fun r => r.kind != .store && r.lanes.any (·.under (out t))).map fun r => (tid, r.id)
  let again := fun (t : Tile) (r : Req) =>
    if r.kind = .store then { r with lanes := r.lanes.map fun l => if l.under (out t) then { l with st := .issue } else l } else r
  let s := s.setCluster cluster { c with l2 := c.l2.filter fun (_, e) => !p e, tlbPend := false, tlbWait := waits }
  { s with tiles := s.tiles.map fun (tid, t) =>
      (tid, if clusterOf tid = cluster then
        { t with tlb := t.tlb.filter fun e => !p e, reqs := t.reqs.map (again t) } else t) }

/-- INVAL_ALL. -/
def execInvalAll (cluster : Nat) (s : State) : Host.Outcome State Fault Refusal :=
  .next (if (s.cluster cluster).commanded 1 then s.inval cluster fun _ => true else s)

/-- INVAL_PAGE. -/
def execInvalPage (cluster : Nat) (s : State) : Host.Outcome State Fault Refusal :=
  let c := s.cluster cluster
  .next (if c.commanded 2 then s.inval cluster fun e => e.covers (bitsN c.tlbop 0 41) else s)

/-- REPLAY_ALL. KIND of an entry whose walk begins anew is 0 until that walk ends (log 89). -/
def execReplayAll (cluster : Nat) (s : State) : Host.Outcome State Fault Refusal :=
  let c := s.cluster cluster
  .next (if c.commanded 3 then
      s.setCluster cluster { c with
        fb := []
        dropped := false
        tlbPend := false
        tlbWait := []
        pend := c.pend.map fun (k, p) =>
          (k, if p.faulted then { p with faulted := false, fb := false, kind := 0, walking := true } else p) }
    else s)

/-- FAIL_PAGE. -/
def execFailPage (cluster : Nat) (s : State) : Host.Outcome State Fault Refusal :=
  let c := s.cluster cluster
  let gran := bitsN c.tlbop 0 41
  .next (if !c.commanded 4 then s
    else
      let s := s.setCluster cluster { c with tlbPend := false, tlbWait := [] }
      match c.pendOf gran with
      | some (k, p) =>
        if !p.faulted then s
        else
          let s := s.onCluster cluster fun c =>
            { c with pend := drop1 k c.pend, fb := c.fb.filter fun (_, f) => f.gran != gran }
          p.waiters.foldl (fun s w => s.wake w fun s r l => s.failVirt w.tile r l 0x11 (BitVec.ofNat 8 p.kind)) s
      | none => s)

/-- TLBCMD_DONE. -/
def execTlbcmdDone (cluster : Nat) (s : State) : Host.Outcome State Fault Refusal :=
  let c := s.cluster cluster
  let out := fun (w : Nat × Nat) => ((s.tile w.1).req? w.2).any fun r => r.lanes.any fun l =>
    match spaceOf l.addr, l.st with
    | .virt _, .hit _ => true
    | _, _ => false
  .next (if c.tlbBusy && !c.tlbPend && !c.tlbWait.any out then
      s.setCluster cluster { c with tlbBusy := false, tlbWait := [] }
    else s)

/-! ### Accesses of the dispenser (08 R188) -/

/-- A virtual address translated for a dispenser or a join, or the cause code of its failure. -/
def State.dispTranslate (s : State) (cluster : Nat) (a : W64) (n acc : Nat) : Except (BitVec 8) Nat × State :=
  match spaceOf a with
  | .virt va =>
    let done := fun (e : Tlb) => if addressable (e.paOf va) n then Except.ok (e.paOf va) else .error 0x10
    match tlbFind ((s.cluster cluster).l2.map (·.2)) (va / 65536) acc with
    | some e => (done e, s)
    | none =>
      let (w, s) := s.walk (va / 65536)
      match w with
      | .error => (.error 0x14, s)
      | .fault _ _ => (.error 0x11, s)
      | .leaf e => (if needsW acc && !e.w then .error 0x11 else done e, s.onCluster cluster fun c => c.tlbPut e)
  | _ => (.error (s.joinCode a), s)

end Sys2Proof.Machine
end

