-- ==== Sys2Proof/Machine/Requests.lean ====
section
/-! DEFINITION. Accesses at their targets: loads, stores, atomics, the read cache, the tickets of loads, publication, results, and
the synchronising operations (chapters 09, 10, 11, 16, 18 to 21). -/
namespace Sys2Proof.Machine

/-! ### The write log's bytes (10 R215) -/

/-- The last logged store to a byte among those triggered before `id`. -/
def Tile.ownByte (t : Tile) (id a : Nat) : Option Byte :=
  let mine := fun (h : List LogStore) => histByte (h.filter fun x => decide (x.id < id)) (a % 8)
  match t.log.find? fun e => e.dbl == a / 8 with
  | some e => mine e.hist
  | none => mine ((t.ovf.filter fun r => r.dbl == a / 8).map (·.st))

/-! ### What an access waits for -/

/-- The target an address of space 0xE names: window and selector; of space 0xD: the device. -/
def targetOf (a : W64) : Option Nat :=
  match spaceOf a with
  | .chip _ => some (bitsN a 24 40)
  | .peer d _ => some (0xD * 2 ^ 36 + d)
  | _ => none

/-- An access to a place of space 0xE waits for the tile's earlier ones to the same target (10 R212); a peer's load, atomic
or releasing store for every earlier store of the tile that is not yet performed at that peer (10 R234, R235). Plain peer
stores wait for none (10 R233). -/
def Tile.targetHeld (t : Tile) (r : Req) (l : Lane) : Bool :=
  let before := t.accesses.takeWhile fun (i, x) => !(i == r.id && x.idx == l.idx)
  match spaceOf l.addr with
  | .chip _ => before.any fun (_, x) => x.open_ && targetOf x.addr == targetOf l.addr
  | .peer _ _ =>
    r.kind != .store && before.any fun (i, x) => targetOf x.addr == targetOf l.addr && (t.req? i).any (·.kind.isStore)
  | _ => false

/-- Two accesses reach a common double. -/
def State.meets (s : State) (tile : Nat) (x y : Lane) : Bool :=
  match s.reaches tile x, s.reaches tile y with
  | some a, some b => decide (a / 8 ≤ (b + y.len - 1) / 8) && decide (b / 8 ≤ (a + x.len - 1) / 8)
  | _, _ => false

/-- An earlier access of the tile to a double of this one is open: an atomic waits for the atomics, a load for the atomics
and loads (10 R217, 18 R393, 19 R432), and a lane of a gather for the others of its double to translate (19 R425). -/
def State.doubleHeld (s : State) (tile : Nat) (r : Req) (l : Lane) : Bool :=
  let first := fun x : Req => r.kind.isLoad && x.kind.isLoad || (r.kind.isLoad || r.kind.isAmo) && x.kind.isAmo
  (s.tile tile).reqs.any (fun x => decide (x.id < r.id) && first x && x.lanes.any fun y => y.open_ && s.meets tile y l) ||
    r.kind.isLoad && r.lanes.any fun y => y.idx != l.idx && y.untranslated && s.meets tile y l

/-- The release steps 1 to 3 of 10 R229 for an access triggered in bundle `nb`, the tile's own accesses. -/
def Tile.releaseReady (t : Tile) (nb : Nat) : Bool :=
  !t.reqs.any fun r => decide (r.nb < nb) && r.lanes.any fun l =>
    l.open_ && (l.untranslated || bitsN l.addr 60 4 == 0xE ||
      match r.kind with
      | .load _ _ | .vload _ _ | .gload _ | .amo _ _ | .ldt _ => true
      | _ => false)

/-- The proxy slice of a tile (11 R239). -/
def proxySlice (tid : Nat) : Nat := clusterOf tid * 16 + tid % 16

/-- A peer LDT of the tile's, of a bundle before `nb`, has no value yet (11 R248). -/
def State.fetchOpen (s : State) (tile nb : Nat) : Bool :=
  (s.slice (proxySlice tile)).tickets.any fun (_, e) =>
    e.kind == 4 && !e.done && (e.state == .pending || e.state == .claimed) && e.tid == tile &&
      e.owner == (s.tile tile).gid.setWidth 32 && decide (e.nb < nb)

/-- The release steps 1 to 3 of 10 R229. -/
def State.releaseReady (s : State) (tile nb : Nat) : Bool := (s.tile tile).releaseReady nb && !s.fetchOpen tile nb

/-- An access that has translated and may be performed now. -/
def State.mayPerform (s : State) (tile : Nat) (r : Req) (l : Lane) : Bool :=
  !(s.tile tile).acqHeld r.nb && !(s.tile tile).targetHeld r l && !s.doubleHeld tile r l

/-- An earlier atomic or releasing store of the tile is open at the same slice, or has not translated (19 R433). -/
def State.sliceHeld (s : State) (tile : Nat) (r : Req) (k : Nat) : Bool :=
  (s.tile tile).reqs.any fun x =>
    decide (x.id < r.id) && (x.kind.acc == 2 || x.kind == .storeRel) && x.lanes.any fun l =>
      match spaceOf l.addr with
      | .virt _ => l.untranslated || l.open_ && (s.reaches tile l).any fun pa => sliceOf pa == k
      | _ => false

/-- The place of an LDT of space 0x0 that has taken its logged bytes: its request is on its way to the slice (11 R244). -/
def State.ldtPlace (s : State) (tile : Nat) (r : Req) (l : Lane) : Option Nat :=
  match r.kind, l.st, spaceOf l.addr with
  | .ldt _, .hit pa, .virt _ =>
    if s.mayPerform tile r l && (s.tile tile).storesSettled fun x => decide (x.id < r.id) then some pa else none
  | _, _, _ => none

/-- The place of an LDT on its way that its slice may fetch now: the tile's earlier atomics and releasing stores at that slice
are performed (11 R247). -/
def State.ldtFetch (s : State) (tile : Nat) (r : Req) (l : Lane) : Option Nat :=
  (s.ldtPlace tile r l).filter fun pa => !s.sliceHeld tile r (sliceOf pa)

/-- The doubles of `n` bytes from a physical address. -/
def doublesOf (pa n : Nat) : List Nat := (List.range ((pa + n - 1) / 8 + 1 - pa / 8)).map (pa / 8 + ·)

/-- The doubles of space 0x0 that an LDT is to read and that no slice may fetch yet. -/
def State.ldtWaits (s : State) (tile : Nat) (r : Req) : List Nat :=
  match r.kind with
  | .ldt _ => r.lanes.flatMap fun l =>
    match spaceOf l.addr with
    | .virt _ =>
      if l.open_ && (s.ldtFetch tile r l).isNone then ((s.reaches tile l).map (doublesOf · l.len)).getD [] else []
    | _ => []
  | _ => []

/-- A logged store with identifier `id` to double `d` that an LDT triggered before it must not show, one that `q` names whose
value no slice may fetch yet: the store stays in the log (11 R247, log 98). -/
def State.keptBy (s : State) (tile : Nat) (q : Nat → Bool) (d id : Nat) : Bool :=
  (s.tile tile).reqs.any fun r => decide (r.id < id) && q r.id && (s.ldtWaits tile r).contains d

/-- Such a store is logged to a double that `p` names. -/
def State.keepsBack (s : State) (tile : Nat) (q p : Nat → Bool) : Bool :=
  (s.tile tile).log.any (fun e => p e.dbl && e.hist.any fun x => s.keptBy tile q e.dbl x.id) ||
    (s.tile tile).ovf.any fun r => p r.dbl && s.keptBy tile q r.dbl r.st.id

/-- Whether a store of an identifier that `p` names has stored to a double that is still logged. -/
def Tile.loggedBy (t : Tile) (dbl : Nat) (p : Nat → Bool) : Bool :=
  t.log.any (fun e => e.dbl == dbl && e.hist.any fun x => p x.id) || t.ovf.any fun r => r.dbl == dbl && p r.st.id

/-! ### A ticket's allocation (11 R240, R244 to R247) -/

/-- A refused or failed access leaves its lane with a cause. -/
def State.failLane (s : State) (tile : Nat) (r : Req) (l : Lane) (code : BitVec 8) : State :=
  s.onTile tile fun t => t.laneFail r l code 0

def State.doneLane (s : State) (tile : Nat) (r : Req) (l : Lane) (bs : List Byte) : State :=
  s.onTile tile fun t => t.laneDone r.id l.idx (BitVec.ofNat 1120 (ofBytes bs))

def Slice.setTicket (x : Slice) (k : Nat) (e : Ticket) : Slice := { x with tickets := put k e x.tickets }

def Slice.firstFree (x : Slice) : Option Nat :=
  (List.range Config.ticketEntries).find? fun k => (x.ticket k).state == .free

/-- What an allocation records beside the generation. -/
structure NewTicket where
  kind : Nat
  line : Bool
  det : Bool
  owner : BitVec 32
  tid : Nat
  fcode : BitVec 8
  data : BitVec 1024
  addr : W64
  nb : Nat
  deriving DecidableEq, Repr

/-- The lowest FREE entry allocated, or the null ticket (11 R244, R245). Its data buffer holds from here on what its value will
be, the rest of it zero (log 92). -/
def State.allocTicket (s : State) (k : Nat) (n : NewTicket) : W64 × State :=
  let x := s.slice k
  match x.firstFree with
  | none => (0, s.setSlice k { x with nulls := x.nulls + 1 })
  | some j =>
    let e := x.ticket j
    let y := x.setTicket j { e with
      state := .pending
      kind := n.kind
      det := n.det
      frozen := false
      line := n.line
      age := 0
      owner := n.owner
      fcode := n.fcode
      tid := n.tid
      data := n.data
      done := false
      addr := n.addr
      nb := n.nb
      claimer := none }
    (mkTicket n.kind k j e.gen n.tid x.tkkey, s.setSlice k { y with issued := y.issued + 1 })

/-- DET and gang identifier of a tile's task. -/
def Tile.det (t : Tile) : Bool := t.gshape.getLsbD 44
def Tile.gid32 (t : Tile) : BitVec 32 := t.gid.setWidth 32

/-- The allocation of an LDT, at its line's home slice or, for a peer's line, at the proxy. The value is what the slice holds now,
under the logged bytes that the request took with it. The slice fetches only for an entry (11 R244, R245, R247). -/
def State.allocLoad (s : State) (tile id : Nat) : State :=
  let t := s.tile tile
  match t.lane? id 0 with
  | some (r, l) =>
    match r.kind, l.st with
    | .ldt line, .hit pa =>
      if !(s.mayPerform tile r l && t.storesSettled fun x => decide (x.id < r.id)) then s
      else
        match spaceOf l.addr with
        | .peer dev _ =>
          if s.route dev = .none_ then s.failLane tile r l 0x13
          else
            let (w, s) := s.allocTicket (proxySlice tile) ⟨4, line, t.det, t.gid32, tile, 0, 0, l.addr, r.nb⟩
            s.onTile tile fun t => t.laneDone id 0 (w.setWidth 1120)
        | _ =>
          if s.sliceHeld tile r (sliceOf pa) then s
          else
            let k := sliceOf pa
            let (bs, bad, s) := if (s.slice k).firstFree.isSome then s.readHbm pa l.len else ([], false, s)
            let own := r.sent.getD ((List.range l.len).map fun k => t.ownByte id (pa + k))
            let v := (bs.zip own).map fun (b, o) => o.getD b
            let (w, s) := s.allocTicket k
              ⟨1, line, t.det, t.gid32, tile, if bad then 0x14 else 0, BitVec.ofNat 1024 (ofBytes v), l.addr, r.nb⟩
            s.onTile tile fun t => t.laneDone id 0 (w.setWidth 1120)
    | _, _ => s
  | none => s

/-- The LDTs on their way whose value a publication of the doubles that `p` names would change are fetched before it: a store
that was triggered after the LDT has stored there, and no later store changes the value (11 R247, log 98). -/
def State.fetchFirst (s : State) (tile : Nat) (p : Nat → Bool) : State :=
  (s.tile tile).reqs.foldl (fun s r =>
    let due := r.lanes.any fun l =>
      match s.ldtFetch tile r l with
      | some pa => (doublesOf pa l.len).any fun d => p d && (s.tile tile).loggedBy d fun id => decide (r.id < id)
      | none => false
    if due then s.allocLoad tile r.id else s) s

/-! ### Publication (10 R219) -/

/-- The tile's gang has had an effect outside itself. -/
def State.exposeOf (s : State) (tile : Nat) : State :=
  match s.gangOf tile with
  | some g => s.expose g.gid.toNat
  | none => s

/-- Cached lines that `p` names go, and fills of them are discarded on arrival. -/
def Tile.dropLines (t : Tile) (p : Nat → Bool) : Tile :=
  { t with
    cache := t.cache.filter fun l => !p l.line
    fills := t.fills.map fun f => if p f.line then { f with discard := true } else f }

/-- The whole read cache invalidated. -/
def Tile.acquire (t : Tile) : Tile := t.dropLines fun _ => true

/-- An acquire point of a tile within a phase of its gang (10 R218). -/
def State.acquire (s : State) (tile : Nat) : State := (s.sees tile fun _ => true).onTile tile Tile.acquire

/-- A parked tile, and a stopped one of a failed gang, publish nothing: the supervisor discards their logs (08 R186,
15 R343). -/
def State.withholds (s : State) (tile : Nat) : Bool :=
  let run := (s.tile tile).run
  run == .parked || (run != .running && (s.gangOf tile).any fun g => !g.runsOn)

/-- What a publication performs of an entry, the stores that `stays` names staying behind. -/
def LogEnt.goes (e : LogEnt) (stays : LogStore → Bool) : Option LogEnt :=
  let left := e.hist.filter stays
  if left.isEmpty then some e else if left = e.hist then none else some { e with hist := e.hist.filter fun x => !stays x }

/-- What it leaves in the log. -/
def LogEnt.stays (e : LogEnt) (stays : LogStore → Bool) : Option LogEnt :=
  let left := e.hist.filter stays
  if left.isEmpty then none else some { e with hist := left }

/-- A logged double performed at its slice, which refuses it in a HASHH region: then nothing is written, and no publication
faults (10 R219, 17 R382, log 77). -/
def State.publishDouble (s : State) (dbl : Nat) (mask : BitVec 8) (data : W64) : State :=
  if s.hashed (8 * dbl) 8 then s else s.writeMasked dbl mask data

/-- An atomic or releasing store of the tile to a double, triggered before `id`, is still to be performed. -/
def State.atomicOpen (s : State) (tile id d : Nat) : Bool :=
  (s.tile tile).reqs.any fun x =>
    decide (x.id < id) && (x.kind.acc == 2 || x.kind == .storeRel) && x.lanes.any fun l =>
      l.open_ && (s.reaches tile l).any fun pa => pa / 8 == d

/-- The logged bytes that an LDT takes with it to the slice (11 R244), where it is on its way: none of a double that an earlier
atomic or releasing store of the tile is still to publish and to change. -/
def State.ldtSent (s : State) (tile : Nat) (r : Req) : Req :=
  match r.sent, r.lanes.findSome? fun l => (s.ldtPlace tile r l).map fun pa => (pa, l.len) with
  | none, some (pa, n) => { r with sent := some ((List.range n).map fun k =>
      if s.atomicOpen tile r.id ((pa + k) / 8) then none else (s.tile tile).ownByte r.id (pa + k)) }
  | _, _ => r

/-- The logged doubles that `p` names performed at their slices; they leave the log, and their lines the cache. An LDT that is on
its way keeps the logged bytes it took with it; a store that it must not show stays in the log. -/
def State.publishSome (s : State) (tile : Nat) (p : Nat → Bool) : State :=
  let t := s.tile tile
  let stays := s.keptBy tile fun _ => true
  let ents := (t.log.filter fun e => p e.dbl).filterMap fun e => e.goes fun x => stays e.dbl x.id
  let recs := t.ovf.filter fun r => p r.dbl && !stays r.dbl r.st.id
  if s.withholds tile || (ents.isEmpty && recs.isEmpty) then s
  else
    let s := s.fetchFirst tile p
    let reqs := (s.tile tile).reqs.map (s.ldtSent tile)
    let s := (s.onTile tile fun t => { t with reqs := reqs }).exposeOf tile
    let s := ents.foldl (fun s e => s.publishDouble e.dbl (histMask e.hist) (histData e.hist)) s
    let s := recs.foldl (fun s r => s.publishDouble r.dbl r.st.mask r.st.data) s
    let dbls := ents.map (·.dbl) ++ recs.map (·.dbl)
    (s.sees tile dbls.contains).onTile tile fun t =>
      { t.dropLines (dbls.map (· / 16)).contains with
        log := t.log.filterMap fun e => if p e.dbl then e.stays fun x => stays e.dbl x.id else some e
        ovf := t.ovf.filter fun r => !p r.dbl || stays r.dbl r.st.id }

/-- The write log published; PHN.OVF counts anew. -/
def State.publish (s : State) (tile : Nat) : State :=
  if s.withholds tile then s else (s.publishSome tile fun _ => true).onTile tile fun t => { t with ovfCount := 0 }

/-- The doubles in a tile's log, each once. -/
def Tile.loggedDoubles (t : Tile) : List Nat := (t.log.map (·.dbl) ++ t.ovf.map (·.dbl)).eraseDups

/-- What a tile's gang-mates that are still in the phase go on seeing of the logged doubles that `p` names once those are
published: each as it stands now (10 R217, R224, log 72). -/
def State.heldOf (s : State) (tile : Nat) (p : Nat → Bool) : List Held :=
  match s.gangOf tile with
  | some g =>
    let t := s.tile tile
    if s.withholds tile then []
    else (t.loggedDoubles.filter fun d => p d && !s.hashed (8 * d) 8).map fun d => ⟨g.gid, d, s.hbm.double (8 * d), [t.rank]⟩
  | none => []

/-- The write log published by a PHASE.G: until its barrier has completed, the gang-mates that are still in the phase see what
stood there before, each double of each such publication as it stood at that publication (10 R224). -/
def State.publishAhead (s : State) (tile : Nat) : State :=
  let ahead := s.heldOf tile fun _ => true
  let s := s.publish tile
  { s with held := s.held ++ ahead }

/-- Every member sees what the gang's members published: its barrier has completed, or the gang is gone. -/
def State.unveil (s : State) (gid : BitVec 32) : State := { s with held := s.held.filter (·.gid != gid) }

/-! ### Loads (10 R215 to R217, 19 R431) -/

/-- A byte from the cache, or from a fill in flight. -/
def Tile.lineByte (t : Tile) (a : Nat) : Byte × Bool :=
  let k := 8 * (a % 128)
  match t.cache.find? (·.line == a / 128) with
  | some l => (l.data.extractLsb' k 8, false)
  | none =>
    match t.fills.find? fun f => f.line == a / 128 && !f.discard with
    | some f => (f.data.extractLsb' k 8, if a % 128 < 64 then f.badLo else f.badHi)
    | none => (0, false)

/-- The bytes a load of space 0x0 returns, and whether a granule that holds one of them gave an error. -/
def State.loadBytes (s : State) (tile id pa n : Nat) : List Byte × Bool × State :=
  let t := s.tile tile
  let as_ := (List.range n).map (pa + ·)
  let need := (as_.filter fun a => (t.ownByte id a).isNone).map (· / 128)
  let s := need.eraseDups.foldl (fun s line => s.startFill tile line) s
  let u := s.tile tile
  let got := as_.map fun a =>
    match t.ownByte id a with
    | some b => (b, false)
    | none => u.lineByte a
  (got.map (·.1), got.any (·.2), s)

/-- A load of this device's at its target. -/
def State.loadLane (s : State) (tile : Nat) (r : Req) (l : Lane) : State :=
  match spaceOf l.addr, l.st with
  | .chip x, _ =>
    match s.chipCheck (.tile tile) false x l.len with
    | some code => s.failLane tile r l code
    | none =>
      let (bs, bad) := s.chipRead x l.len
      if bad then s.failLane tile r l 0x14 else s.doneLane tile r l bs
  | _, .hit pa =>
    let (bs, bad, s) := s.loadBytes tile r.id pa l.len
    if bad then s.failLane tile r l 0x14 else s.doneLane tile r l bs
  | _, _ => s

/-- What a peer answers for `n` bytes at `base` given to the loads that lie there. -/
def State.loadPeer (s : State) (tile : Nat) (r : Req) (ls : List Lane) (dev base n : Nat) : State :=
  match s.route dev with
  | .none_ => ls.foldl (fun s l => s.failLane tile r l 0x13) s
  | .down => s
  | .up =>
    let (a, s) := s.peerRead (base % 2 ^ 40) n .read
    ls.foldl (fun s l =>
      match a with
      | .ok bs => s.doneLane tile r l ((bs.drop (l.addr.toNat - base)).take l.len)
      | .error code => s.failLane tile r l code) s

/-- A load at its target. -/
def State.loadAt (s : State) (tile : Nat) (r : Req) (l : Lane) : State :=
  match spaceOf l.addr with
  | .peer dev _ => s.loadPeer tile r [l] dev l.addr.toNat l.len
  | _ => s.loadLane tile r l

/-- The lanes of a gather that read one double with lane `l`: it is read once for all of them (19 R425). -/
def State.fellows (s : State) (tile : Nat) (r : Req) (l : Lane) : List Lane :=
  r.lanes.filter fun x => x.open_ && !x.untranslated && s.meets tile x l

/-- Lanes of a gather at their double. -/
def State.gatherAt (s : State) (tile : Nat) (r : Req) (l : Lane) : State :=
  let ls := s.fellows tile r l
  match spaceOf l.addr with
  | .peer dev _ => s.loadPeer tile r ls dev (l.addr.toNat / 8 * 8) 8
  | _ => ls.foldl (fun s x => s.loadLane tile r x) s

/-- LOAD_AT_TARGET. -/
def execLoadAtTarget (tile id lane : Nat) (s : State) : Host.Outcome State Fault Refusal :=
  let t := s.tile tile
  .next (match t.lane? id lane with
    | some (r, l) =>
      match l.st with
      | .hit _ =>
        if r.kind.isLoad && s.mayPerform tile r l && t.storesSettled fun x => decide (x.id < r.id) then
          match r.kind with
          | .gload _ => s.gatherAt tile r l
          | _ => s.loadAt tile r l
        else s
      | _ => s
    | none => s)

/-- READ_CACHE_FILL: a fill is installed, the oldest of 256 lines leaving, or discarded. -/
def execReadCacheFill (tile line : Nat) (s : State) : Host.Outcome State Fault Refusal :=
  let t := s.tile tile
  .next (match t.fills.find? (·.line == line) with
    | some f =>
      let u := { t with fills := t.fills.erase f }
      s.setTile tile (if f.discard || f.badLo || f.badHi then u
        else { u with cache := ⟨f.line, f.data⟩ :: (u.cache.filter (·.line != f.line)).take 255 })
    | none => s)

/-- READ_CACHE_EVICTION. -/
def execReadCacheEviction (tile line : Nat) (s : State) : Host.Outcome State Fault Refusal :=
  .next (s.onTile tile fun t => { t with cache := t.cache.filter (·.line != line) })

/-! ### Atomics (18 R391, R392) -/

/-- The new value of an atomic, none where it writes nothing. -/
def amoNew (op : AmoOp) (old v c : W64) : Option W64 :=
  let le := if c.getLsbD 0 then decide (old.toNat ≤ v.toNat) else decide (old.toInt ≤ v.toInt)
  let ge := if c.getLsbD 0 then decide (v.toNat ≤ old.toNat) else decide (v.toInt ≤ old.toInt)
  match op with
  | .add => some (old + v)
  | .min => some (if le then old else v)
  | .max => some (if ge then old else v)
  | .and => some (old &&& v)
  | .or => some (old ||| v)
  | .xor => some (old ^^^ v)
  | .xchg => some v
  | .cas => if old = c then some v else none

/-- The atomic of a request on a double. -/
def Req.amo (r : Req) (old : W64) : Option W64 :=
  match r.kind with
  | .amo op _ => amoNew op old r.ops.o0.lo r.ops.o1.lo
  | _ => none

def ReqKind.isRel : ReqKind → Bool
  | .amo _ .rel | .storeRel => true
  | _ => false

/-- A performed atomic: its old value delivered, its line or the whole cache invalidated. -/
def State.amoDone (s : State) (tile : Nat) (r : Req) (l : Lane) (old : W64) (line : Option Nat) : State :=
  let s := (s.doneLane tile r l (bytesOf 8 old)).onTile tile fun t =>
    match line with
    | some k => t.dropLines (· == k)
    | none => t
  match r.kind with
  | .amo _ .acq => s.acquire tile
  | _ => s

/-- One grant entry carries both the R and the W right for the master (18 R392). -/
def grantCarries (g : W64) (m : Master) (off n : Nat) : Bool := grantAllows g m false off n && grantAllows g m true off n

/-- An atomic at a scratchpad. -/
def State.amoChip (s : State) (tile : Nat) (r : Req) (l : Lane) (x : Loc) : State :=
  match x with
  | .tile tid off =>
    match s.chipCheck (.tile tile) false x 8, s.chipCheck (.tile tile) true x 8 with
    | some code, _ => s.failLane tile r l code
    | none, some code => s.failLane tile r l code
    | none, none =>
      if 0x40000 ≤ off || !(vlist (s.tile tid).grants).any fun g => grantCarries g (.tile tile) off 8 then s.failLane tile r l 0x12
      else if (s.tile tid).spmBad off 8 then s.failLane tile r l 0x14
      else
        let old := (s.tile tid).spm.double off
        let s := match r.amo old with
          | some y => s.onTile tid fun t => t.spmStore off 8 y
          | none => s
        (s.exposeOf tile).amoDone tile r l old none
  | _ => s.failLane tile r l (if x.rangeOk 8 then 0x12 else 0x10)

/-- An atomic at its target, its release steps behind it. The logged bytes of its double are published first (10 R228): that is
none of the publications within a phase that 10 R224 lets the gang-mates see. -/
def State.amoAt (s : State) (tile : Nat) (r : Req) (l : Lane) (pa : Nat) : State :=
  match spaceOf l.addr with
  | .chip x => s.amoChip tile r l x
  | .peer dev _ =>
    match s.route dev with
    | .none_ => s.failLane tile r l 0x13
    | .down => s
    | .up =>
      let (a, s) := s.peerRead (bitsN l.addr 0 40) 8 .atomic
      match a with
      | .ok bs => (s.exposeOf tile).amoDone tile r l (BitVec.ofNat 64 (ofBytes bs)) none
      | .error code => s.failLane tile r l code
  | _ =>
    let ahead := s.heldOf tile (· == pa / 8)
    let s := s.publishSome tile (· == pa / 8)
    let s := { s with held := s.held ++ ahead }
    if s.hashed pa 8 then s.failLane tile r l 0x12 else
    let (bs, bad, s) := (s.sees tile (· == pa / 8)).readHbm pa 8
    let old := BitVec.ofNat 64 (ofBytes bs)
    if bad then s.failLane tile r l 0x14
    else
      let s := match r.amo old with
        | some y => s.writeHbm pa (bytesOf 8 y)
        | none => s
      (s.exposeOf tile).amoDone tile r l old (some (pa / 128))

/-- No publication that an atomic makes of the double at its target would show a later store to an LDT before it (11 R247). -/
def State.amoFree (s : State) (tile : Nat) (r : Req) (l : Lane) : Bool :=
  match l.st with
  | .hit pa => !s.keepsBack tile (fun i => decide (i < r.id)) (· == pa / 8)
  | _ => true

/-- An atomic may be performed now, an AMO.REL's release steps 1 to 3 done. -/
def State.amoReady (s : State) (tile : Nat) (r : Req) (l : Lane) (o : AmoOrd) : Bool :=
  s.mayPerform tile r l && ((s.tile tile).storesSettled fun x => decide (x.id < r.id)) &&
    if o = .rel then s.releaseReady tile r.nb else s.amoFree tile r l

/-- AMO_AT_SLICE; of an AMO.REL whose address is none of its targets, the publication and then the fault (18 R391). -/
def execAmoAtSlice (tile id : Nat) (s : State) : Host.Outcome State Fault Refusal :=
  let t := s.tile tile
  .next (match t.lane? id 0 with
    | some (r, l) =>
      match r.kind, l.st with
      | .amo _ o, .hit pa => if s.amoReady tile r l o then (if o = .rel then s.publish tile else s).amoAt tile r l pa else s
      | .amo _ o, .deny code aux =>
        if s.amoReady tile r l o then (s.publish tile).onTile tile fun t => t.laneFail r l code aux else s
      | _, _ => s
    | none => s)

/-! ### Stores at their targets (10 R212, R229, R233 to R235) -/

/-- A store at its target: to the map and, a releasing one, to a slice at once; to a peer posted, its acknowledgement
still to come. -/
def State.storeAt (s : State) (tile : Nat) (r : Req) (l : Lane) (pa : Nat) : State :=
  let bs := bytesOf l.len l.data
  match spaceOf l.addr with
  | .chip x =>
    match s.chipCheck (.tile tile) true x l.len with
    | some code => s.failLane tile r l code
    | none =>
      match x with
      | .tile tid off =>
        let s := if r.kind = .storeRel then s.exposeOf tile else s
        (s.tileWrite tid off bs).onTile tile fun t => t.closeStore r.id l.idx
      | _ => s.failLane tile r l 0x12
  | .peer dev _ =>
    match s.route dev with
    | .none_ => s.failLane tile r l 0x13
    | .down => s
    | .up => (s.exposeOf tile).onTile tile fun t => t.onLane r.id l.idx fun l => { l with st := .fin }
  | _ =>
    if s.hashed pa bs.length then s.failLane tile r l 0x12
    else (((s.exposeOf tile).sees tile (· == pa / 8)).writeHbm pa bs).onTile tile fun t => t.closeStore r.id l.idx

/-- A releasing store may publish now: steps 1 to 3 of 10 R229 are done, and it has not published yet. -/
def State.relReady (s : State) (tile : Nat) (r : Req) : Bool :=
  let t := s.tile tile
  r.kind == .storeRel && r.sent.isNone && !t.acqHeld r.nb && s.releaseReady tile r.nb &&
    t.storesSettled fun x => decide (x.nb < r.nb)

/-- A releasing store publishes, and may be looked up from now on (20 R467). -/
def State.relPublish (s : State) (tile : Nat) (r : Req) : State :=
  (s.publish tile).onTile tile fun t => t.onReq r.id fun r => { r with sent := some [] }

/-- POSTED_STORE_PERFORM: a store outside the log is performed. A releasing one (ST_D_REL) first publishes, before it is looked
up, and is performed by a second event (20 R467, log 95). -/
def execPostedStorePerform (tile id lane : Nat) (s : State) : Host.Outcome State Fault Refusal :=
  let t := s.tile tile
  .next (match t.lane? id lane with
    | some (r, l) =>
      match l.st with
      | .issue => if s.relReady tile r then s.relPublish tile r else s
      | .hit pa =>
        let logged := match spaceOf l.addr with
          | .virt _ => r.kind != .storeRel
          | _ => false
        if r.kind.isStore && !logged && s.mayPerform tile r l then s.storeAt tile r l pa else s
      | _ => s
    | none => s)

/-- A posted peer store that its peer has performed. -/
def awaitsAck (r : Req) (l : Lane) : Bool := r.kind.isStore && l.st == .fin

/-- PEER_STORE_ACK: the peer reports the store performed, or the cause for which it is not. -/
def execPeerStoreAck (tile id : Nat) (s : State) : Host.Outcome State Fault Refusal :=
  .next (match (s.tile tile).req? id with
    | some r =>
      match r.lanes.find? (awaitsAck r) with
      | some l =>
        let (c, s) := s.peerCause (bitsN l.addr 0 40) l.len .store
        s.onTile tile fun t =>
          match c with
          | none => t.closeStore r.id l.idx
          | some code => t.laneFail r l code 0
      | none => s
    | none => s)

/-- PEER_REQUEST_TIMEOUT (16 R360). An atomic may have been performed at the peer: the task counts as exposed. -/
def execPeerRequestTimeout (tile id lane : Nat) (s : State) : Host.Outcome State Fault Refusal :=
  .next (match (s.tile tile).lane? id lane with
    | some (r, l) =>
      match spaceOf l.addr, l.st, r.kind with
      | .peer _ _, .hit _, .ldt _ => s
      | .peer _ _, .hit _, .amo _ _ => (s.exposeOf tile).failLane tile r l 0x13
      | .peer _ _, .hit _, _ => s.failLane tile r l 0x13
      | .peer _ _, .fin, _ => if r.kind.isStore then s.failLane tile r l 0x13 else s
      | _, _, _ => s
    | none => s)

/-! ### A peer's request on this device (09 R196) -/

/-- The lowest valid peer-table entry of a requester. -/
def State.peerEntry (s : State) (peer : Nat) : Option (W64 × W64) :=
  (s.dev.peers.find? fun (_, x) => x.1.getLsbD 63 && bitsN x.1 0 20 == peer).map (·.2)

/-- The requester has the right of a bit of its entry. -/
def State.peerRight (s : State) (peer right : Nat) : Bool := (s.peerEntry peer).any fun x => x.1.getLsbD right

/-- The requester has the right, and the offset lies in the memory exposed to it. -/
def State.peerAllows (s : State) (peer right off : Nat) : Bool :=
  s.peerRight peer right && (s.peerEntry peer).any fun x =>
    decide (bitsN x.2 16 10 ≤ off / 2 ^ 30) && decide (off / 2 ^ 30 < bitsN x.2 16 10 + bitsN x.2 0 11)

/-- A SEND.P of tile `sender` of another device, send word `w`, payload `ws`, at its target (13 R304, R305): into a bound
stream queue or the inbox, where there is room, or discarded where no gang is resident. -/
def State.foreignSend (s : State) (peer sender : Nat) (w : W64) (ws : List W64) : State :=
  let dst := sendTid w
  let t := s.tile dst
  let q := sendQ w
  if t.toStream w then
    if (t.strmAt q).accepts ws (sendEos w) then
      s.onTile dst fun t => { t with strm := vput t.strm q ((t.strmAt q).append ws (sendEos w)) }
    else s
  else if !t.resident then s.onTile dst fun t => { t with disc := t.disc + 1 }
  else if t.inboxFull then s
  else s.inboxTake dst ⟨msgHeader (if sendStr w then 2 else 0) ws.length peer (bitsN w 16 16) sender, ws⟩

/-- The atomic a kind number names. -/
def amoOfNum (k : Nat) : AmoOp :=
  match k with
  | 0 => .add | 1 => .min | 2 => .max | 3 => .and | 4 => .or | 5 => .xor | 6 => .xchg | _ => .cas

/-- PEER_ACCESS_CHECK: device `peer` asks for the double at physical offset `addr`. Kind 0 is a load or ticket fetch, 1 a
store of the bytes that bits [71:64] of `value` select, 2 to 9 an atomic on `value` with the O1 operand in bits
[127:64], 10 a SEND.P of its tile `addr`: the send word in the low 64 bits of `value`, the payload above them (log 80). What
is answered to the peer is outside the module. -/
def execPeerAccessCheck (peer addr kind value : Nat) (s : State) : Host.Outcome State Fault Refusal :=
  let pa := addr / 8 * 8
  let right := if kind = 0 then 61 else if kind = 1 then 62 else 60
  .next (if kind = 10 then
      let w := BitVec.ofNat 64 value
      if s.peerRight peer 62 && decide (bitsN w 56 4 ≤ 8) then
        s.foreignSend peer (addr % 16384) w ((List.range (bitsN w 56 4)).map fun k => BitVec.ofNat 64 (value / 2 ^ (64 * (k + 1))))
      else s
    else if decide (pa < 2 ^ 40) && addressable pa 8 && s.peerAllows peer right pa && (kind == 0 || !s.hashed pa 8) then
      if kind = 1 then s.writeMasked (pa / 8) (BitVec.ofNat 8 (value / 2 ^ 64)) (BitVec.ofNat 64 value)
      else
        let (bs, bad, s) := s.readHbm pa 8
        if bad || kind == 0 then s
        else
          match amoNew (amoOfNum (kind - 2)) (BitVec.ofNat 64 (ofBytes bs)) (BitVec.ofNat 64 value)
            (BitVec.ofNat 64 (value / 2 ^ 64)) with
          | some y => s.writeHbm pa (bytesOf 8 y)
          | none => s
    else s)

/-! ### Results (02 R42 to R45) -/

/-- What a request's result delivers once every access of it is over. -/
def Req.value (r : Req) : Val :=
  let d : BitVec 1120 := (r.lanes.head?.map (·.data)).getD 0
  let x : W64 := d.setWidth 64
  match r.kind with
  | .load n signed =>
    let y := if signed then BitVec.ofInt 64 (signedN (8 * n) x.toNat) else BitVec.ofNat 64 (x.toNat % 2 ^ (8 * n))
    { Val.ofScalar y with tag := if signed then .i64 else .ui64 }
  | .vload _ tag =>
    let x := Val.ofRow (d.setWidth 1024) tag
    if tag.bfm.isSome then { x.filled with side := (d.extractLsb' 1024 96).setWidth 192 } else x
  | .gload tag =>
    let w := tag.width.getD 64
    Val.ofRow (packRow w ((List.range (1024 / w)).map fun i => ((r.lane? i).map fun l => l.data.toNat).getD 0)) tag
  | .rdm =>
    if (r.lanes.head?.map (·.len)).getD 8 = 128 then Val.ofRow (d.setWidth 1024) (Tag.ofCode (r.ops.o0.lo.setWidth 6))
    else .ofScalar x
  | _ => .ofScalar x

/-- The request takes a result place. -/
def ReqKind.places : ReqKind → Bool
  | .store | .storeRel | .pref => false
  | _ => true

/-- A ticket operation answers only through an access that its slice gives it. -/
def ReqKind.needsLane : ReqKind → Bool
  | .rdm | .rdmS _ | .tkq | .tkx => true
  | _ => false

/-- The queue that a request's result enters. -/
def ReqKind.queue : ReqKind → Nat
  | .enq _ _ | .join => 1
  | _ => 0

/-- The fault a request carries: its lowest failed access's. -/
def Req.fault (r : Req) : Option FaultRep :=
  r.lanes.findSome? fun l =>
    match l.st with
    | .flt code aux => some ⟨code, l.addr, aux, 0⟩
    | _ => none

/-- RESULT_ARRIVE: the result of a request whose accesses are over. -/
def execResultArrive (tile id : Nat) (s : State) : Host.Outcome State Fault Refusal :=
  .next (match (s.tile tile).req? id with
    | some r =>
      if r.kind.places && !(r.lanes.any (·.open_)) && !(r.kind.needsLane && r.lanes.isEmpty) then
        s.onTile tile fun t =>
          let u := t.dropReq id
          match r.fault with
          | some f => u.arriveFault r.kind.queue id f
          | none => u.arrive r.kind.queue id r.value 0
      else s
    | none => s)

/-! ### The synchronising operations (10 R221, R223) -/

/-- What a synchronising operation waits for. -/
def Tile.syncReady (t : Tile) (x : Sync) : Bool :=
  (t.storesSettled fun r => decide (r.nb ≤ x.nb)) &&
    !t.reqs.any fun r => decide (r.nb ≤ x.nb) && r.lanes.any fun l =>
      (l.open_ && bitsN l.addr 60 4 == 0xE) || (x.kind != .bar && r.kind.isStore && bitsN l.addr 60 4 == 0xD)

/-- The end of a synchronising operation. -/
def Tile.syncEnd (t : Tile) (x : Sync) : Tile :=
  let phase := x.kind == .phaseT || x.kind == .phaseG
  let u := if phase then { t.acquire with phCount := t.phCount + 1 } else t
  { u with
    sync := u.sync.filter (·.id != x.id)
    syncFault := u.syncFault || (x.kind != .bar && !x.hp && decide (x.faults < (u.deferred.map (·.count)).getD 0))
    arr := if x.kind == .phaseG || x.kind == .bar then false else u.arr }

/-- A member arrives at its barrier. -/
def Tile.arriveBarrier (t : Tile) (x : Sync) : Tile :=
  { t with
    sync := t.sync.map fun y => if y.id = x.id then { y with arrived := true } else y
    arr := true
    barCount := t.barCount + 1 }

/-- No publication by a PHASE would show a later store to an LDT of its tile (11 R247, log 98). -/
def State.phaseFree (s : State) (tile : Nat) (x : Sync) : Bool :=
  (x.kind != .phaseT && x.kind != .phaseG) || !s.keepsBack tile (fun _ => true) fun _ => true

/-- SYNC_OP_COMPLETE: the steps of a PHASE, BAR or FENCE up to its end, or up to its barrier. A parked tile publishes
nothing (15 R343). -/
def execSyncOpComplete (tile : Nat) (s : State) : Host.Outcome State Fault Refusal :=
  .next (match (s.tile tile).sync.find? fun x => !x.arrived with
    | some x =>
      if (s.tile tile).syncReady x && s.phaseFree tile x && (s.tile tile).run != .parked then
        let s := match x.kind with
          | .phaseT => (s.publish tile).sees tile fun _ => true
          | .phaseG => s.publishAhead tile
          | _ => s
        s.onTile tile fun t => if x.kind == .phaseG || x.kind == .bar then t.arriveBarrier x else t.syncEnd x
      else s
    | none => s)

/-- The members of a gang that are not released. -/
def State.members (s : State) (g : Gang) : List Nat :=
  g.tiles.filter fun t => (s.tile t).resident && (s.tile t).gidN == g.gid.toNat

/-- A member's barrier operation that has arrived. -/
def Tile.atBarrier (t : Tile) : Option Sync := t.sync.find? (·.arrived)

/-- The kind of every member's barrier, once all have arrived: none while one has not, `some none` where they differ. -/
def State.barrierKind (s : State) (ms : List Nat) : Option (Option SyncKind) :=
  let ks := ms.map fun t => (s.tile t).atBarrier.map (·.kind)
  match ks with
  | [] => none
  | k :: _ =>
    if ks.any (·.isNone) then none
    else if ks.all (· == k) then some k else some none

/-- CKPT of the record (08 R171). -/
def Gang.ckpt (g : Gang) : Bool := g.record.getLsbD 227

/-- The barrier completes on every member, and every member sees what they published. -/
def State.barrierEnd (s : State) (gid : BitVec 32) (ms : List Nat) : State :=
  ms.foldl (fun s m => s.onTile m fun t =>
    match t.atBarrier with
    | some x => t.syncEnd x
    | none => t) (s.unveil gid)

/-- BARRIER_COMPLETE: every member has arrived, the released ones counted in (18 R397); different kinds are a fatal fault
of every member that has arrived, one that drains after END among them (19 R412). A PHASE.G of a gang with CKPT ends with its checkpoint instead. -/
def execBarrierComplete (gang : Nat) (s : State) : Host.Outcome State Fault Refusal :=
  .next (match s.gang? gang with
    | none => s
    | some g =>
      let ms := s.members g
      match s.barrierKind ms with
      | none => s
      | some (some k) => if k == .phaseG && g.ckpt then s else s.barrierEnd g.gid ms
      | some none =>
        ms.foldl (fun s m =>
          let t := (s.tile m).undo
          if t.run = .running ∨ t.run = .stopping ∨ t.run = .draining then
            s.putTile m { t.fatal m 0x30 0 t.pc 0 with sync := t.sync.filter fun x => !x.arrived }
          else s) s)

end Sys2Proof.Machine
end

