-- ==== Sys2Proof/Machine/Tickets.lean ====
section
/-! DEFINITION. Fetches, redeems and reclamation of load tickets, the engines' tickets at the slices, and SY's WAIT (11 R236 to
R258, 21 R495, R496). -/
namespace Sys2Proof.Machine

/-! ### The table (11 R240, R241) -/

/-- A retirement with its counter. -/
def Slice.retire (x : Slice) (k why : Nat) : Slice :=
  let e := x.ticket k
  let y := x.setTicket k { e with
    retgen := e.gen
    retwhy := why
    gen := e.gen + 1
    state := .free
    age := 0
    frozen := false
    done := false
    claimer := none }
  match why with
  | 0 => { y with redeemed := y.redeemed + 1 }
  | 1 => { y with cancelled := y.cancelled + 1 }
  | 2 => { y with reclaimed := y.reclaimed + 1 }
  | _ => { y with expired := y.expired + 1 }

/-- A ticket of the copy unit (kind 2) or of Confluence (kind 3) at the issuer's proxy slice. -/
def State.engineTicket (s : State) (tile kind : Nat) : W64 × State :=
  let t := s.tile tile
  s.allocTicket (proxySlice tile) ⟨kind, false, t.det, t.gid32, tile, 0, 0, 0, 0⟩

/-- The fetch or engine of an entry has finished with a fault code or a value. -/
def Ticket.finish (e : Ticket) (fcode : BitVec 8) : Ticket :=
  { e with
    done := true
    fcode := fcode
    state := if e.state = .pending then (if fcode = 0 then .ready else .faulted) else e.state }

/-- An engine's status word placed, unless the entry has moved on (11 R241, R258). -/
def State.engineDone (s : State) (t status : W64) : State :=
  let x := s.slice (tkSlice t)
  let e := x.ticket (tkEntry t)
  if t ≠ 0 ∧ e.gen = tkGen t ∧ e.state ≠ .free then
    s.setSlice (tkSlice t) (x.setTicket (tkEntry t) ({ e with data := status.setWidth 1024 }.finish 0))
  else s

/-! ### Fetches (11 R244 to R248) -/

/-- What a peer load of a proxy brings: data or a fault code (11 R248). -/
def State.proxyFetch (s : State) (e : Ticket) : BitVec 8 × BitVec 1024 × State :=
  match spaceOf e.addr with
  | .peer dev _ =>
    if s.route dev = .up then
      let (a, s) := s.peerRead (bitsN e.addr 0 40) (if e.line then 128 else 8) .read
      match a with
      | .ok bs => (0, BitVec.ofNat 1024 (ofBytes bs), s)
      | .error code => (code, 0, s)
    else (0x13, 0, s)
  | _ => (0x13, 0, s)

/-- TICKET_FETCH_COMPLETE: the fetch of a load ticket, or of a peer's proxy. -/
def execTicketFetchComplete (slice entry : Nat) (s : State) : Host.Outcome State Fault Refusal :=
  let e := (s.slice slice).ticket entry
  .next (if e.done || !(e.state == .pending || e.state == .claimed) then s
    else
      match e.kind with
      | 1 => s.onSlice slice fun x => x.setTicket entry (e.finish e.fcode)
      | 4 =>
        let (code, d, s) := s.proxyFetch e
        s.onSlice slice fun x => x.setTicket entry ({ e with data := d }.finish code)
      | _ => s)

/-! ### Classification and redeem (11 R249 to R253) -/

/-- The status code of TKQ and TKX. -/
def TkClass.code : TkClass → Nat
  | .is .pending => 0 | .is .ready => 1 | .is .faulted => 2 | .is _ => 3
  | .spent => 3 | .expired => 4 | .invalid => 5 | .null => 6

/-- The fault a redeem takes: cause and AUX. -/
def TkClass.fault : TkClass → Option (BitVec 8 × BitVec 8)
  | .is _ => none
  | .spent => some (0x16, 0)
  | .expired => some (0x17, 0)
  | .invalid => some (0x15, 0)
  | .null => some (0x15, 1)

/-- A request's answer, as the one access it then has. -/
def State.answer (s : State) (tile id : Nat) (l : Lane) : State :=
  s.onTile tile fun t => t.onReq id fun r => { r with lanes := [l] }

/-- The scratchpad offset of RDM.S. -/
def ReqKind.redeemOff : ReqKind → Option Nat
  | .rdmS off => some off
  | _ => none

def ReqKind.isRedeem : ReqKind → Bool
  | .rdm | .rdmS _ => true
  | _ => false

/-- A ticket operation. -/
def ReqKind.isTicket : ReqKind → Bool
  | .rdm | .rdmS _ | .tkq | .tkx => true
  | _ => false

/-- The slice a ticket operation asks: TKQ and TKX of the null ticket ask the proxy (21 R473). -/
def Req.asks (r : Req) (tile : Nat) : Nat :=
  if r.ops.t.lo = 0 ∧ r.kind.isRedeem = false then proxySlice tile else tkSlice r.ops.t.lo

/-- An earlier ticket operation of the tile at the same slice has not been performed there (21 R473). -/
def Tile.ticketHeld (t : Tile) (tile : Nat) (r : Req) : Bool :=
  t.reqs.any fun x => decide (x.id < r.id) && x.kind.isTicket && x.lanes.isEmpty && x.asks tile == r.asks tile

/-- REDEEM_AT_SLICE. An RDM.S beyond the task's scratchpad faults before its request leaves. -/
def execRedeemAtSlice (tile id : Nat) (s : State) : Host.Outcome State Fault Refusal :=
  let t := s.tile tile
  .next (match t.req? id with
    | some r =>
      let w := r.ops.t.lo
      if !r.kind.isRedeem || !r.lanes.isEmpty || t.acqHeld r.nb then s
      else if r.kind.redeemOff.any fun off => decide (t.limit ≤ off) then
        s.answer tile id ⟨0, BitVec.ofNat 64 (r.kind.redeemOff.getD 0), 8, .flt 0x12 0, 0⟩
      else if t.ticketHeld tile r then s
      else
        let k := tkSlice w
        let x := s.slice k
        match (x.classify w).fault with
        | some (code, aux) =>
          (s.setSlice k { x with badRedeem := x.badRedeem + 1 }).answer tile id ⟨0, w, 8, .flt code aux, 0⟩
        | none =>
          let e := x.ticket (tkEntry w)
          let e := { e with state := .claimed, claimer := some (t.gid32, bitsN t.grank 0 8, id) }
          (s.setSlice k (x.setTicket (tkEntry w) e)).answer tile id ⟨0, w, 8, .hit (2048 * k + tkEntry w), 0⟩
    | none => s)

/-- The tile on which the claimer's member runs now. -/
def State.claimerTile (s : State) (gid : BitVec 32) (rank : Nat) : Option Nat :=
  (s.gang? gid.toNat).bind fun g => (s.members g).find? fun t => bitsN (s.tile t).grank 0 8 == rank

/-- A ticket of the copy unit or of Confluence, whose redeem is an acquire point. -/
def Ticket.engine (e : Ticket) : Bool := e.kind == 2 || e.kind == 3

/-- A claimed value at its redeemer (11 R250, R251). -/
def Tile.redeemed (t : Tile) (id : Nat) (e : Ticket) : Tile :=
  let n := if e.engine = false ∧ e.line = true then 128 else 8
  let u := if e.engine then t.acquire else t
  match (t.req? id).bind fun r => r.kind.redeemOff with
  | some off =>
    (u.spmStore off n e.data).onReq id fun r => { r with lanes := r.lanes.map fun l =>
      { l with len := n, st := .fin, data := BitVec.ofNat 1120 n } }
  | none => u.onReq id fun r => { r with lanes := r.lanes.map fun l =>
      { l with len := n, st := .fin, data := BitVec.ofNat 1120 (e.data.toNat % 2 ^ (8 * n)) } }

/-- The request waits for the value of this entry. -/
def Req.redeems (r : Req) (slice entry : Nat) : Bool :=
  r.kind.isRedeem && r.lanes.any fun l => l.st == .hit (2048 * slice + entry)

/-- The tag that RSOL 1 gives the place of a redeem whose fetch faulted (20 R450): the answer of the slice carries LINE. -/
def Tile.lineTag (t : Tile) (id : Nat) : Tile :=
  t.setQueue 0 ((t.queue 0).map fun p => if p.id = id then { p with rtag := Tag.ofCode (p.ops.o0.lo.setWidth 6) } else p)

/-- A claimed entry's fetch fault at its redeemer. -/
def Tile.redeemFault (t : Tile) (id : Nat) (e : Ticket) : Tile :=
  let plain := (t.req? id).any fun r => r.kind == .rdm
  (if plain && e.line then t.lineTag id else t).onReq id fun r => { r with lanes := r.lanes.map fun l =>
    { l with st := .flt e.fcode 0 } }

/-- REDEEM_DELIVER: the value of a claimed entry goes to its redeemer, wherever its gang now runs; to no one when the
redeem is no more; it waits while the gang is saved. -/
def execRedeemDeliver (slice entry : Nat) (s : State) : Host.Outcome State Fault Refusal :=
  let e := (s.slice slice).ticket entry
  let retired := s.onSlice slice fun x => x.retire entry 0
  .next (if !(e.state == .claimed && e.done) then s
    else
      match e.claimer with
      | some (gid, rank, id) =>
        if (s.gang? gid.toNat).isNone && s.saves.any fun v => v.gang.gid == gid then s
        else
          match (s.claimerTile gid rank).filter fun tile => ((s.tile tile).req? id).any fun r => r.redeems slice entry with
          | some tile =>
            (if e.engine then retired.sees tile fun _ => true else retired).onTile tile fun t =>
              if e.fcode = 0 then t.redeemed id e else t.redeemFault id e
          | none => retired
      | none => retired)

/-- A gang resumed: its redeems that the save holds are triggered again (15 R346). One whose claim the entry still records
goes on waiting for its value; any other is classified anew. A claim of the run before that no redeem holds has no
redeemer left. -/
def State.reclaimRedeems (s : State) (gid : BitVec 32) (ts : List Nat) : State :=
  let claims := fun (s : State) (tid : Nat) (r : Req) (slice entry : Nat) =>
    r.redeems slice entry && ((s.slice slice).ticket entry).claimer == some (gid, (s.tile tid).rank, r.id)
  let again := fun (tid : Nat) (r : Req) =>
    if r.kind.isRedeem && r.lanes.any (·.open_) && !claims s tid r (tkSlice r.ops.t.lo) (tkEntry r.ops.t.lo) then
      { r with lanes := [] }
    else r
  let held := fun (slice entry : Nat) => ts.any fun tid => (s.tile tid).reqs.any fun r => claims s tid r slice entry
  let s' := ts.foldl (fun s tid => s.onTile tid fun t => { t with reqs := t.reqs.map (again tid) }) s
  { s' with slices := s'.slices.map fun (j, x) => (j, { x with tickets := x.tickets.map fun (k, e) =>
      (k, if (e.claimer.any fun c => c.1 == gid) && !held j k then { e with claimer := none } else e) }) }

/-- TICKET_CLASSIFY_AT_SLICE: TKQ, and TKX, which cancels. -/
def execTicketClassifyAtSlice (tile id : Nat) (s : State) : Host.Outcome State Fault Refusal :=
  let t := s.tile tile
  .next (match t.req? id with
    | some r =>
      if !(r.kind == .tkq || r.kind == .tkx) || !r.lanes.isEmpty || t.acqHeld r.nb || t.ticketHeld tile r then s
      else
        let w := r.ops.t.lo
        let k := r.asks tile
        let cl := (s.slice k).classify w
        let s := if r.kind == .tkx && cl.code < 3 then s.onSlice k fun x => x.retire (tkEntry w) 1 else s
        s.answer tile id ⟨0, w, 8, .fin, BitVec.ofNat 1120 cl.code⟩
    | none => s)

/-! ### Reclamation (11 R254 to R256) -/

/-- An entry that may be reclaimed. -/
def Ticket.idle (e : Ticket) : Bool := e.state == .pending || e.state == .ready || e.state == .faulted

/-- TICKET_WATCHDOG_PASS. -/
def execTicketWatchdogPass (slice : Nat) (s : State) : Host.Outcome State Fault Refusal :=
  .next (s.onSlice slice fun x => x.tickets.foldl (fun x (k, e) =>
    if e.idle && !e.frozen then
      let age := min (e.age + 8) 0xFFFFF
      if s.dev.tkttl ≤ age then x.retire k 3 else x.setTicket k { e with age := age }
    else x) x)

/-- Every entry of a gang's that is not DET and not claimed is retired. -/
def State.reclaim (s : State) (gid : BitVec 32) : State :=
  { s with slices := s.slices.map fun (j, x) => (j, x.tickets.foldl (fun x (k, e) =>
      if e.idle && !e.det && e.owner == gid then x.retire k 2 else x) x) }

/-- FROZEN of every entry of a gang's that is not FREE: a FREE one's OWNER is what a task before left there (log 97). -/
def State.freeze (s : State) (gid : BitVec 32) (b : Bool) : State :=
  { s with slices := s.slices.map fun (j, x) =>
      (j, { x with tickets := x.tickets.map fun (k, e) =>
        (k, if e.owner == gid && e.state != .free then { e with frozen := b } else e) }) }

/-! ### WAIT (21 R495, R496) -/

/-- WAIT_COMPLETE. -/
def execWaitComplete (tile : Nat) (s : State) : Host.Outcome State Fault Refusal :=
  let t := s.tile tile
  .next (match t.waits.find? fun w => !w.over && s.waitHolds t w with
    | some w => s.waitEnd tile w false
    | none => s)

/-- WAIT_TIMEOUT. -/
def execWaitTimeout (tile : Nat) (s : State) : Host.Outcome State Fault Refusal :=
  .next (match (s.tile tile).waits.find? (·.over) with
    | some w => s.waitEnd tile w true
    | none => s)

end Sys2Proof.Machine
end

