-- ==== Sys2Proof/Machine/Dispenser.lean ====
section
/-! DEFINITION. Continuation records, hardware queues, ENQ and JOIN, placement and launch, retirement
(08 R165 to R184, R188). -/
namespace Sys2Proof.Machine

/-! ### The record (08 R171, R172) -/

def recEntry (r : BitVec 256) : Nat := bitsN r 0 30
def recImage (r : BitVec 256) : Nat := bitsN r 32 32
def recFrame (r : BitVec 256) : W64 := r.extractLsb' 64 64
def recJoin (r : BitVec 256) : W64 := r.extractLsb' 128 64
def recShape (r : BitVec 256) : Nat := bitsN r 192 4
def recSpadk (r : BitVec 256) : Nat := bitsN r 208 9
def recPrio (r : BitVec 256) : Nat := bitsN r 224 3
def recInstat (r : BitVec 256) : BitVec 8 := r.extractLsb' 248 8

/-- The record with INSTAT replaced. -/
def recWith (r : BitVec 256) (instat : BitVec 8) : BitVec 256 := (instat ++ r.extractLsb' 0 248 : BitVec 256)

/-- A JOIN field that R172 allows. -/
def joinOk (a : W64) : Bool := bitsN a 57 7 == 0 && a.toNat % 64 == 0

def recStatic (r : BitVec 256) : Bool :=
  bitsN r 229 19 == 0 && bitsN r 217 7 == 0 && bitsN r 196 12 == 0 && bitsN r 30 2 == 0 && decide (recShape r ≤ 8) &&
    decide (recSpadk r ≤ 256) && bitsN (recFrame r) 57 7 == 0 && (recFrame r).toNat % 8 == 0 && joinOk (recJoin r)

/-- The entry a record launches, when it is launchable. -/
def State.launchable (s : State) (r : BitVec 256) : Option Entry :=
  match s.named (recImage r) with
  | none => none
  | some x =>
    if !recStatic r || x.rev then none
    else
      match x.entries.find? fun e => e.offset == recEntry r with
      | none => none
      | some e =>
        if e.shape == recShape r && decide (e.frame ≤ recSpadk r * 1024) && (e.frame == 0 || recFrame r != 0) then some e
        else none

/-! ### Enqueuing (08 R173, R181) -/

/-- A record enqueued: its status (0 accepted, 1 full, 2 disabled) and slot; 4 where the slices refuse the write of the slot (17
R382, log 76). -/
def State.enqueue (s : State) (q : Nat) (r : BitVec 256) : Nat × Nat × State :=
  let d := s.queueDesc q
  match s.ringBase q with
  | none => (2, 0, s)
  | some b =>
    if !d.en then (2, 0, s)
    else if (d.prod - d.retire).toNat = 2 ^ d.log2 then (1, 0, s)
    else
      let i := d.prod.toNat % 2 ^ d.log2
      if s.hashed (b + 64 * i) 64 then (4, i, s) else
      let bs := bytesOf 32 r ++ bytesOf 8 (1 : W64) ++ bytesOf 8 (0 : W64) ++ bytesOf 8 (BitVec.ofNat 64 s.ns) ++
        bytesOf 8 (0 : W64)
      let s := s.writeHbm (b + 64 * i) bs
      (0, i, s.setQueueDesc q { d with prod := d.prod + 1 })

/-- ENQ or JOIN may go ahead: its release steps are done (10 R229), and earlier ENQs of the tile to the queue, or earlier
JOINs (08 R181, 19 R430). -/
def State.enqReady (s : State) (tile : Nat) (r : Req) : Bool :=
  let t := s.tile tile
  s.releaseReady tile r.nb && (t.storesSettled fun x => decide (x.nb < r.nb)) &&
    !t.reqs.any fun x => decide (x.id < r.id) && x.lanes.any (·.open_) &&
      match x.kind, r.kind with
      | .enq a _, .enq b _ => a == b
      | .join, .join => true
      | _, _ => false

/-- ENQ_AT_SLICE. -/
def execEnqAtSlice (tile id : Nat) (s : State) : Host.Outcome State Fault Refusal :=
  let t := s.tile tile
  .next (match t.lane? id 0 with
    | some (r, l) =>
      match r.kind, l.st with
      | .enq q _, .hit _ =>
        if !s.enqReady tile r then s
        else
          let s := s.publish tile
          let rec_ := recWith (l.data.setWidth 256) 0
          if !recStatic rec_ then s.doneLane tile r l [3]
          else
            let (st, i, s) := s.enqueue q rec_
            let s := if st = 0 then s.exposeOf tile else s
            if st = 4 then s.failLane tile r l 0x12
            else s.doneLane tile r l (bytesOf 8 (BitVec.ofNat 64 (st + i <<< 16)))
      | _, _ => s
    | none => s)

/-! ### The join (08 R183) -/

/-- Steps that a chain of joins of successors may take: one for each join block of memory. -/
def joinFuel : Nat := 2 ^ 34

/-- The cluster and quadrant of a physical address's slice. -/
def paCluster (pa : Nat) : Nat := homeCluster (sliceOf pa)

/-- The join of 08 R183 at a block whose address is `a`: the old counter word, or a cause code. A counter word in a HASHH
region is not written (17 R382). -/
def State.joinAt : Nat → State → W64 → Nat → BitVec 8 → Except (BitVec 8) W64 × State
  | 0, s, _, _, _ => (.error 0x19, s)
  | fuel + 1, s, a, pa, bits =>
    if s.hashed pa 8 then (.error 0x12, s) else
    let (bs, bad, s) := s.readHbm pa 64
    let old := BitVec.ofNat 64 (ofBytes (bs.take 8))
    let target := BitVec.ofNat 64 (ofBytes ((bs.drop 8).take 8))
    let count := bitsN old 0 32
    if bad then (.error 0x14, s)
    else if count = 0 then (.error 0x19, s)
    else
      let status : BitVec 8 := old.extractLsb' 32 8 ||| bits
      let word := fun (pend : Bool) => BitVec.ofNat 64 ((count - 1) + status.toNat <<< 32 + (if pend then 2 ^ 40 else 0))
      let s := s.writeHbm pa (bytesOf 8 (word (old.getLsbD 40)))
      if count ≠ 1 then (.ok old, s)
      else if target.getLsbD 63 then (.ok old, s.notify (quadrantOf (paCluster pa)) (.jobDone a status 0))
      else
        let succ := recWith (BitVec.ofNat 256 (ofBytes (bs.drop 32))) status
        let q := bitsN target 0 8
        if recStatic succ then
          let (st, _, s) := s.enqueue q succ
          if st = 0 then (.ok old, s)
          else
            let c := paCluster pa
            let s := s.writeHbm pa (bytesOf 8 (word true))
            (.ok old, s.setCluster c { s.cluster c with handover := (s.cluster c).handover ++ [⟨succ, q, pa⟩] })
        else
          -- a successor that is not statically valid completes at once with BADREC
          let up := recJoin succ
          let st := status ||| 8
          if !joinOk up then (.ok old, s.notify (quadrantOf (paCluster pa)) (.jobDone a st 6))
          else if up = 0 then (.ok old, s)
          else
            match s.dispTranslate (paCluster pa) up 64 2 with
            | (.error code, s) =>
              (.ok old, s.notify (quadrantOf (paCluster pa)) (.jobDone up st code))
            | (.ok upPa, s) =>
              match State.joinAt fuel s up upPa st with
              | (.ok _, s) => (.ok old, s)
              | (.error code, s) => (.ok old, s.notify (quadrantOf (paCluster pa)) (.jobDone up st code))

/-- A JOIN ends with a fault on its result, its log published and its task exposed (08 R182, 19 R430). -/
def State.joinFail (s : State) (tile : Nat) (r : Req) (l : Lane) (code aux : BitVec 8) : State :=
  (s.exposeOf tile).onTile tile fun t => t.onLane r.id l.idx fun l => { l with st := .flt code aux }

/-- JOIN_AT_SLICE: the log published, the task exposed, and the join made; or, of a T that faulted, its fault. -/
def execJoinAtSlice (tile id : Nat) (s : State) : Host.Outcome State Fault Refusal :=
  let t := s.tile tile
  .next (match t.lane? id 0 with
    | some (r, l) =>
      if !s.enqReady tile r then s
      else
        match r.kind, l.st with
        | .join, .hit pa =>
          match (s.publish tile).joinAt joinFuel l.addr pa (r.ops.o0.lo.setWidth 8) with
          | (.ok old, s) => (s.exposeOf tile).doneLane tile r l (bytesOf 8 old)
          | (.error code, s) => s.joinFail tile r l code 0
        | .join, .deny code aux => (s.publish tile).joinFail tile r l code aux
        | _, _ => s
    | none => s)

/-- The successors handed over to a cluster's supervisor, in the order received. -/
def Cluster.handed (c : Cluster) : List Handover := c.owed ++ c.handover

/-- The first of them that is this one taken out. -/
def Cluster.handOn (c : Cluster) (h : Handover) : Cluster :=
  if c.owed.contains h then { c with owed := c.owed.erase h } else { c with handover := c.handover.erase h }

/-- HANDOVER_ENQUEUE: the first handed-over successor whose queue accepts it; PEND is cleared, where the slices take the write
(17 R382). -/
def execHandoverEnqueue (cluster : Nat) (s : State) : Host.Outcome State Fault Refusal :=
  .next (match (s.cluster cluster).handed.find? fun h => (s.enqueue h.queue h.record).1 == 0 with
    | some h =>
      let (_, _, s) := s.enqueue h.queue h.record
      let w := s.hbm.double h.joinPa
      let s := (s.readGranules (granules h.joinPa 8)).2
      let s := if s.hashed h.joinPa 8 then s else s.writeHbm h.joinPa (bytesOf 8 (w &&& ~~~(BitVec.ofNat 64 (2 ^ 40))))
      s.onCluster cluster fun c => c.handOn h
    | none => s)

/-- A reservation ends when its record is placed (08 R178). -/
def Cluster.unreserve (c : Cluster) (q i : Nat) : Cluster :=
  match c.rsv with
  | some r => if r.queue = q ∧ r.slot = i then { c with rsv := none } else c
  | none => c

/-- A record placed, or completed without a placement: no cluster holds a reservation for it, whichever dispenser served it
(08 R178, log 69). -/
def State.unreserve (s : State) (q i : Nat) : State :=
  { s with clusters := s.clusters.map fun (k, c) => (k, c.unreserve q i) }

/-! ### Retirement (08 R184, R188) -/

/-- Slots at RETIRE that are RETIRED become EMPTY, each read before (16 R370). -/
def State.advanceRetire : Nat → State → Nat → Nat → State
  | 0, s, _, _ => s
  | n + 1, s, q, b =>
    let d := s.queueDesc q
    let i := d.retire.toNat % 2 ^ d.log2
    let s := s.touchSlot b i
    let w := s.slotWord b i 4
    if slotState w = 4 ∧ s.hashed (b + 64 * i) 64 = false then
      State.advanceRetire n ((s.setSlotWord b i 4 (w &&& ~~~7)).setQueueDesc q { d with retire := d.retire + 1 }) q b
    else s

/-- Steps 3 and 4: the slot RETIRED with its STATUS, or left to be retired when the slot can be written. -/
def State.retireSlot (s : State) (c q i : Nat) (status : BitVec 8) : State :=
  match s.slotBase q i with
  | some b =>
    let w := s.slotWord b i 4
    let s := (s.touchSlot b i).setSlotWord b i 4 (merge64 0xFF0007 w (BitVec.ofNat 64 (status.toNat <<< 16 + 4)))
    s.advanceRetire (2 ^ (s.queueDesc q).log2) q b
  | none => s.setCluster c { s.cluster c with unretired := (s.cluster c).unretired ++ [(q, i, status)] }

/-- A record retires with a status: tickets reclaimed, the join made, the slot retired. A record that was not launchable may
name a join block at no multiple of 64: that join faults, as JOIN's does (08 R183). -/
def State.retireRecord (s : State) (c q i : Nat) (r : BitVec 256) (gid : BitVec 32) (status : BitVec 8) : State :=
  let s := (s.reclaim gid).unreserve q i
  let a := recJoin r
  let fail := fun (s : State) (code : BitVec 8) => s.notify (quadrantOf c) (.jobDone a status code)
  let s :=
    if a = 0 then s
    else if a.toNat % 64 ≠ 0 then fail s 0x06
    else
      match s.dispTranslate c a 64 2 with
      | (.error code, s) => fail s code
      | (.ok pa, s) =>
        match s.joinAt joinFuel a pa status with
        | (.ok _, s) => s
        | (.error code, s) => fail s code
  s.retireSlot c q i status

/-! ### Placement (08 R165, R176, R178) -/

/-- The origins of the rectangles of a size in a cluster, rising. -/
def rectsOf (c log2n : Nat) : List Nat :=
  (List.range (16 / gangH log2n)).flatMap fun y => (List.range (16 / gangW log2n)).map fun x =>
    tileAt c (16 * (y * gangH log2n) + x * gangW log2n)

/-- The tile may be placed on by a record of `k` KiB, its residency aside. -/
def State.tileAllowed (s : State) (k tid : Nat) : Bool :=
  (s.tile tid).run != .quarantined && !(s.row (rowOfTile tid)).withheld && decide (k ≤ s.usableKib tid)

def State.rectFree (s : State) (k origin log2n : Nat) : Bool :=
  (rectTiles origin log2n).all fun t => s.tileAllowed k t && (s.tile t).run == .idle

/-- Where a record would be placed now. -/
def State.place (s : State) (c q i : Nat) (r : BitVec 256) : Option Nat :=
  let k := recSpadk r
  match (s.cluster c).rsv with
  | some v =>
    if v.queue = q ∧ v.slot = i ∧ v.log2n = recShape r then (if s.rectFree k v.origin v.log2n then some v.origin else none)
    else (rectsOf c (recShape r)).find? fun o =>
      s.rectFree k o (recShape r) && !(rectTiles o (recShape r)).any fun t => inRect v.origin v.log2n t
  | none => (rectsOf c (recShape r)).find? fun o => s.rectFree k o (recShape r)

/-! ### Launch (08 R168 to R170, R175) -/

/-- GRANK of a rank. -/
def grankWord (log2n rank : Nat) : W64 :=
  BitVec.ofNat 64 ((rank / gangW log2n) <<< 12 + (rank % gangW log2n) <<< 8 + rank)

/-- GSHAPE. -/
def gshapeWord (r : BitVec 256) (origin : Nat) (resumed : Bool) : W64 :=
  let n := recShape r
  BitVec.ofNat 64 ((if resumed then 2 ^ 45 else 0) + (if r.getLsbD 228 then 2 ^ 44 else 0) +
    (if r.getLsbD 227 then 2 ^ 43 else 0) + recPrio r <<< 40 + (recInstat r).toNat <<< 32 + (origin / 128) <<< 24 +
    (origin % 128) <<< 16 + ((n + 1) / 2) <<< 8 + (n / 2) <<< 4 + n)

/-- GID. -/
def gidWord (q i : Nat) (gid : BitVec 32) : W64 := BitVec.ofNat 64 (i <<< 40 + q <<< 32 + gid.toNat)

/-- Grant entry 0 of a member (09 R199). -/
def launchGrant (origin log2n spadk : Nat) : W64 :=
  BitVec.ofNat 64 (2 ^ 63 + 2 ^ 62 + 2 ^ 61 + origin <<< 44 + log2n <<< 40 + spadk)

def launchGrants (origin log2n spadk : Nat) : Vector W64 4 := #v[launchGrant origin log2n spadk, 0, 0, 0]

/-- What outlives a launch: scratchpad and frames as they stand, TLB, links, SF's banks, the discard counts, what is left of
the Weir's response, and the model's counts of bundles and triggers. SFM's CM does not outlive it: 14 R333 gives it 0 at launch,
where 15 R353's row calls the whole of SFM kept (log 108). LE and LS, for which no rule gives a value at launch, are zero
(log 111). -/
def Tile.fresh (t : Tile) (tid : Nat) : Tile :=
  let u := t.resync tid
  { Tile.reset with
    spm := t.spm
    badSpm := t.badSpm
    frames := t.frames
    tlb := t.tlb
    links := u.links
    disc := t.disc
    sf := { t.sf with cm := false, queue := [] }
    weir := t.weir
    nb := t.nb
    nextId := t.nextId }

/-- The launch state of a member (08 R175, step 2), which runs nothing yet. -/
def Tile.staged (t : Tile) (tid : Nat) (g : Gang) (rank : Nat) (e : Entry) : Tile :=
  { t.fresh tid with
    gid := gidWord g.queue g.slot g.gid
    grank := grankWord g.log2n rank
    gshape := gshapeWord g.record g.origin false
    flm := e.flm.setWidth 64 &&& 0x4F0E
    rrc := BitVec.ofNat 64 (e.ld <<< 8)
    img := recImage g.record
    spadk := recSpadk g.record
    grants := launchGrants g.origin g.log2n (recSpadk g.record) }

/-- The links between members resynchronised to the end before any member starts (02 R54, 08 R167, R175, log 105): queues empty,
eight credits, nothing under way; a word that was under way is discarded by its receiver and counted. A link to another tile
stays under way with its notice. -/
def State.meshLinks (s : State) (ms : List Nat) : State :=
  ms.foldl (fun u m => u.onTile m fun t =>
    (List.range 4).foldl (fun t d =>
      if edgeAt m d || !ms.contains (neighbour m d) then t
      else
        let lost := ((s.inWire m d).filter fun x => x != .marker).length
        { t.setLink d .reset with linkDisc := t.linkDisc + lost }) t) s

/-- A staged member's scratchpad filled, and the member started (08 R175, steps 3 and 4). -/
def Tile.start (t : Tile) (g : Gang) (frame : List Byte) : Tile :=
  { t.spmWrite 0 (frame ++ List.replicate (recSpadk g.record * 1024 - frame.length) 0) with
    dirty := dirtyMask 0 frame.length
    pc := recEntry g.record
    run := .running }

/-- What is left of the Weir's response for a tile of a row that starts to run: what its row has left. Where no tile of the row
runs its cycles go by unseen, and any number of them may have gone by (16 R366, log 45). -/
def State.weirNow (s : State) (row : Nat) : Nat × State :=
  let left := (rowTiles row).foldl (fun n k => min n (s.tile k).weir) 70
  if (s.row row).weir = .idle then (0, s)
  else if (rowTiles row).any fun k => (s.tile k).run == .running then (left, s)
  else
    let (w, s) := s.freeWord
    (min left (bitsN w 0 7), s)

/-- A tile changed that starts to run. -/
def State.startTile (s : State) (tid : Nat) (f : Tile → Tile) : State :=
  let (w, s) := s.weirNow (rowOfTile tid)
  s.onTile tid fun t => { f t with weir := w }

/-- Bytes read at a virtual address for a dispenser, granule by granule. -/
def State.readVirt : Nat → State → Nat → W64 → Nat → Except (BitVec 8) (List Byte) × State
  | 0, s, _, _, _ => (.ok [], s)
  | fuel + 1, s, c, a, n =>
    if n = 0 then (.ok [], s)
    else
      let m := min n (65536 - a.toNat % 65536)
      match s.dispTranslate c a m 0 with
      | (.error code, s) => (.error code, s)
      | (.ok pa, s) =>
        let (bs, bad, s) := s.readHbm pa m
        if bad then (.error 0x14, s)
        else
          match State.readVirt fuel s c (a + BitVec.ofNat 64 m) (n - m) with
          | (.ok rest, s) => (.ok (bs ++ rest), s)
          | x => x

/-- A claimed record launched on a rectangle: the members take their launch state, the links between them ready, then the frame is read; a read that faults
retires the record with FAULT, its members released (08 R175, R188). -/
def State.launch (s : State) (c q i : Nat) (r : BitVec 256) (gid : BitVec 32) (e : Entry) (origin : Nat) : State :=
  let s := s.unreserve q i
  let status := match s.ringBase q with
    | some b => slotStatus (s.slotWord b i 4)
    | none => 0
  let g : Gang := ⟨gid, q, i, origin, recShape r, r, none, status, false⟩
  let s := ((g.tiles.zipIdx).foldl (fun s (tid, rank) => s.onTile tid fun t => t.staged tid g rank e) s).meshLinks g.tiles
  match s.readVirt (e.frame + 1) c (recFrame r) e.frame with
  | (.error _, s) => (g.tiles.foldl State.releaseTile s).retireRecord c q i r gid (status ||| 2)
  | (.ok frame, s) =>
    let s := g.tiles.foldl (fun s tid => s.startTile tid fun t => t.start g frame) s
    { s with gangs := s.gangs ++ [g] }

/-! ### Choosing (08 R177) -/

/-- The head of a queue for the dispenser of cluster `c`: ring base and slot. -/
def State.head (s : State) (c q : Nat) : Option (Nat × Nat) :=
  let d := s.queueDesc q
  if d.en && d.cmask.getLsbD c then
    let i := d.claim.toNat % 2 ^ d.log2
    match s.slotBase q i with
    | some b =>
      if d.claim ≠ d.prod ∧ slotState (s.slotWord b i 4) = 1 then some (b, i) else none
    | none => none
  else none

/-- How long a slot has been READY. -/
def State.waited (s : State) (b i : Nat) : Nat := s.ns - (s.slotWord b i 6).toNat

/-- L of a slot. -/
def State.level (s : State) (b i : Nat) : Nat :=
  min 7 (recPrio (s.slotRecord b i) + (if 2000000 ≤ s.waited b i then 1 else 0))

/-- The identifier that the next claim of a cluster gives (08 R168). -/
def State.nextGid (s : State) (c : Nat) : BitVec 32 := (BitVec.ofNat 6 c ++ (s.cluster c).ser : BitVec 32)

/-- A head claimed: CLAIM and the serial counted up, the slot CLAIMED; GANG takes the new identifier where the record is
launched, and else stays that of its last launch (08 R174). -/
def State.claim (s : State) (c q b i : Nat) (launch : Bool) : BitVec 32 × State :=
  let x := s.cluster c
  let gid := s.nextGid c
  let d := s.queueDesc q
  let w := s.slotWord b i 4
  let w := if launch then (w &&& 0xFFFFFFFF) ||| BitVec.ofNat 64 (gid.toNat <<< 32) else w
  let s := (s.touchSlot b i).setSlotWord b i 4 ((w &&& ~~~7) ||| 2)
  let s := s.setQueueDesc q { d with claim := d.claim + 1 }
  (gid, s.setCluster c { x with ser := x.ser + 1 })

/-- A head served: launched where it can be placed, completed with BADREC where it is not launchable. A launch waits while a
gang of the identifier that the claim would give is resident (log 85). -/
def State.serve (s : State) (c q b i : Nat) : Option State :=
  let r := s.slotRecord b i
  match s.launchable r with
  | none =>
    let (gid, s) := s.claim c q b i false
    some (s.retireRecord c q i r gid (slotStatus (s.slotWord b i 4) ||| 8))
  | some e =>
    match s.place c q i r with
    | none => none
    | some o =>
      if (s.gang? (s.nextGid c).toNat).isSome then none
      else
        let (gid, s) := s.claim c q b i true
        some (s.launch c q i r gid e o)

/-- A record left by a failure served: it keeps its identifier, and waits while another gang of it is resident (log 85). -/
def State.serveRedo (s : State) (c : Nat) (x : Redo) : Option State :=
  match s.slotBase x.queue x.slot with
  | none => none
  | some b =>
    let r := s.slotRecord b x.slot
    let gone := (s.touchSlot b x.slot).onCluster c fun y => { y with redo := y.redo.erase x }
    match s.launchable r with
    | none => some (gone.retireRecord c x.queue x.slot r x.gid (slotStatus (s.slotWord b x.slot 4) ||| 8))
    | some e =>
      match s.place c x.queue x.slot r with
      | none => none
      | some o =>
        if (s.gang? x.gid.toNat).isSome then none else
        let gone := gone.onSlot x.queue x.slot fun w => (w &&& ~~~7) ||| 2
        some (gone.launch c x.queue x.slot r x.gid e o)

/-- The queues of a level in round-robin order after the last served. -/
def State.queuesAt (s : State) (c level : Nat) : List (Nat × Nat × Nat) :=
  let last := (vget 0 (s.cluster c).rrptr level).toNat
  ((s.dev.queues.filter fun (q, _) => last < q) ++ s.dev.queues.filter fun (q, _) => q ≤ last).filterMap fun (q, _) =>
    match s.head c q with
    | some (b, i) => if s.level b i = level then some (q, b, i) else none
    | none => none

end Sys2Proof.Machine
end

