-- ==== Sys2Proof/Machine/Save.lean ====
section
/-! DEFINITION. The saved state of a gang and its form in the checkpoint pool (15 R346 to R349). -/
namespace Sys2Proof.Machine

/-! ### The coded scratchpad (15 R348) -/

/-- Length of the run of `x` at the front. -/
def runLength (x : W64) : List W64 → Nat
  | [] => 0
  | y :: ys => if y = x then runLength x ys + 1 else 0

/-- Length of the literal run at the front: up to the next zero double or pair of equal doubles. -/
def litLength : List W64 → Nat
  | [] => 0
  | [x] => if x = 0 then 0 else 1
  | x :: y :: ys => if x = 0 ∨ x = y then 0 else litLength (y :: ys) + 1

/-- A token. -/
def runToken (kind n : Nat) : W64 := BitVec.ofNat 64 (kind <<< 62 + (n - 1))

/-- A block's doubles as tokens and doubles. -/
def codeRuns : Nat → List W64 → List W64
  | 0, _ => []
  | _, [] => []
  | fuel + 1, x :: xs =>
    let l := x :: xs
    if x = 0 then
      let n := runLength 0 l
      runToken 0 n :: codeRuns fuel (l.drop n)
    else if xs.head? = some x then
      let n := runLength x l
      runToken 1 n :: x :: codeRuns fuel (l.drop n)
    else
      let n := litLength l
      runToken 2 n :: (l.take n ++ codeRuns fuel (l.drop n))

/-- The dirty map, then the coded blocks in ascending order. -/
def Tile.saveSpm (t : Tile) : List W64 :=
  (List.range 4).map (chunk t.dirty) ++
    (List.range 256).flatMap fun b => if t.dirty.getLsbD b then codeRuns 128 (t.doubles (1024 * b) 128) else []

/-! ### Sections of a member record (15 R347) -/

/-- The doubles of a record of 15 R352. -/
def Rec.doubles (r : Rec) (mx : Bool) : List W64 := (List.range (if mx then 64 else 32)).map (r.double mx)

def Val.rowDoubles (x : Val) : List W64 := (List.range 36).map (chunk x.rowBits)

/-- The operand entries in the order of the map. -/
def Tile.saveOpnd (t : Tile) : List W64 :=
  (List.range 120).flatMap fun i =>
    let x := vget .zero t.opnd i
    match entryKind (i / 8) (i / 2 % 4) with
    | .scalar => [x.lo]
    | .row => (List.range 18).map (chunk x.vreg.record)
    | .mx => x.rowDoubles
    | .absent => []

def natW (n : Nat) : W64 := BitVec.ofNat 64 n

/-- A bound or none, in the form of R353's TWB. -/
def boundW : Option Nat → W64
  | some b => BitVec.ofNat 64 (2 ^ 63 + b % 2 ^ 63)
  | none => 0

/-- How many records of a fixed-latency socket a trap's capture fills: its port's and its shadows'. MX's shadows are its results
in flight. -/
def Tile.capturedRecs (t : Tile) (i : Nat) : Nat :=
  if !t.inh then 0 else if i = 8 then 1 else 1 + (t.fixedAt i).shadows.length

/-- Each fixed-latency socket: how many records a trap captured and how many results are in flight; its port, what was captured,
and the results in flight with their offsets from the waiting bundle (02 R35), or for MX from the bundle at which a handler has
frozen it (log 13). -/
def Tile.savePorts (t : Tile) : List W64 :=
  (List.range 9).flatMap fun i =>
    let f := t.fixedAt i
    let n := t.capturedRecs i
    let flying := f.pipe.map fun x : Flight => { x.shown with off := x.due - (if i == 8 then t.mxNow else t.nb) }
    [natW n, natW f.pipe.length] ++
      ((List.range (n + 1)).map (t.fixedRec i) ++ flying).flatMap fun r => r.doubles (i == 8)

/-- A place's record in a save; what waits is saved as its trigger (15 R346). -/
def Place.saved (p : Place) : List W64 :=
  ({ p.shown with rt := p.rt || !p.ready, retrig := if p.ready then none else some p.ops } : Rec).doubles false

/-- GPST's report on the last predicate (14 R323): 19 doubles. -/
def Gp.saveLast (g : Gp) : List W64 :=
  match g.last with
  | some r => [1, natW r.cycles, r.opc.setWidth 64] ++ (List.range 16).map fun k => (r.stages[k]?).getD 0
  | none => List.replicate 19 0

/-- The result queues, each with its count of places. With them goes what else R347 names no place for (log 13): the pending TWNS
bound and what is left of the bound of each of SY's places (21 R478, R496), what is left of SLNS, and GPST's report. -/
def Tile.saveQueues (t : Tile) : List W64 :=
  ((List.range 7).flatMap fun q => natW (t.queue q).length :: (t.queue q).flatMap Place.saved) ++
    boundW t.twb :: ((t.queue 1).map fun p => boundW ((t.waits.find? fun w => w.id == p.id).bind (·.bound))) ++
    [natW t.slns, natW t.slnsH] ++ t.gp.saveLast

def MxFile.save (f : MxFile) : List W64 := BitVec.ofNat 64 f.width :: (vlist f.rows).flatMap (·.rowDoubles)

/-- An MX operation (log 13). -/
def MxOp.save : MxOp → List W64
  | .mlda f w ix => [1, boolW f, natW w] ++ (List.range 8).map (chunk ix)
  | .mldb f w e off cap copy bad =>
    [2, boolW f, natW w, boolW e, natW off, natW ((copy.map (· + 1)).getD 0), boolW bad, natW cap.length] ++
      cap.flatMap (·.rowDoubles)
  | .mma a b acc => [3, boolW a, boolW b, natW acc]
  | .mzro m => [4, m.setWidth 64]
  | .mrd hi f r a md => [5, boolW hi, natW f, natW r, natW a, md.setWidth 64]
  | .mqrd p w r a md => [6, boolW p, natW w, natW r, natW a, md.setWidth 64]

/-- What is queued in MX and how far its units are, in bundles from the waiting one, or from a handler's entry, and the cursor, RP
and WP that a TRET restores (log 13). -/
def Tile.saveMxUnits (t : Tile) : List W64 :=
  let m := t.mx
  let left := fun n : Nat => natW (n - t.mxNow)
  natW m.queue.length :: (m.queue.flatMap fun q => [natW q.id, natW (t.nb - q.at_)] ++ q.op.save) ++
    (match m.load with
      | some x => [1, left x.busyTo, left x.ready, boolW x.bad] ++ x.op.save ++ (vlist x.rows).flatMap (·.rowDoubles)
      | none => [0]) ++
    [natW ((m.arrayTo.map (· - t.mxNow)).getD 0), natW ((m.lastStart.map (t.mxNow + 1 - ·)).getD 0), natW m.runs.length] ++
    (m.runs.flatMap fun r => [natW r.id, boolW r.useA, boolW r.useB, natW r.acc, left r.arrayTo, left r.done] ++ r.a.save ++ r.b.save) ++
    match t.mxKept with
    | some (c, r, w) => [1, natW c, natW r, natW w]
    | none => [0]

def Tile.saveMx (t : Tile) : List W64 :=
  let m := t.mx
  (vlist m.acc).flatMap vlist ++ m.a0.save ++ m.a1.save ++ m.b0.save ++ m.b1.save ++ m.latch.save ++
    [m.latchTag.code.setWidth 64, natW m.cursor, natW m.rp, natW m.wp] ++ t.saveMxUnits

/-- A circular buffer's state (18 R406). -/
def CBuf.save (b : CBuf) : List W64 :=
  [b.desc, natW b.free, natW b.filled, natW b.taken, natW b.inflight, natW b.claimAt, natW b.fillAt, natW b.takeAt, natW b.owed,
    natW b.ended.length] ++ b.ended.map natW

/-- The counts of messages, of the words that `inbox` has read of the first, and of each link's words; then the messages, the
words and the buffers (log 13). -/
def Tile.saveInbox (t : Tile) : List W64 :=
  [natW t.inboxAll.length, natW ((t.taking.map (·.2)).getD 0)] ++
    ((List.range 4).map fun d => natW (t.link d).queue.length) ++
    t.inboxAll.flatMap (fun m => (List.range 16).map fun k => (m.all[k]?).getD 0) ++
    ((List.range 4).flatMap fun d => (t.link d).queue) ++ (vlist t.cbufs).flatMap CBuf.save

def Tile.saveLog (t : Tile) : List W64 := t.log.flatMap fun e => [logTag (histMask e.hist) e.dbl, histData e.hist]

/-- The control section before its section offsets. -/
def Tile.saveControl (t : Tile) : List W64 :=
  [BitVec.ofInt 64 (t.pc % 2 ^ 30)] ++ vlist t.lc ++ vlist t.le ++ vlist t.ls ++
    [t.rrc, t.flm, t.fpc, t.phn, t.tvec, t.tpc, t.tcause, t.taddr, t.tstat, boolW t.sf.cm,
      BitVec.ofNat 64 (t.barCount.toNat + (if t.arr then 2 ^ 32 else 0)),
      BitVec.ofNat 64 (packN 4 ((List.range 4).map fun d => (t.link d).credit))]

/-- g0 to g31, then the rotating positions in order. -/
def Tile.saveG (t : Tile) : List W64 :=
  (List.range 32).map (vget 0 t.g) ++ (List.range t.ld).map fun i => vget 0 t.g (32 + (i + t.rrb) % 32)

def Tile.sections (t : Tile) : List (List W64) :=
  [t.saveG, t.p.setWidth 64 :: vlist t.q, (vlist t.v).flatMap fun r => (List.range 18).map (chunk r.record), t.saveOpnd,
    t.savePorts, t.saveQueues, t.saveMx, t.saveInbox, t.saveLog, t.saveSpm]

/-- A section padded to 64 bytes. -/
def pad8 (l : List W64) : List W64 := l ++ List.replicate ((8 - l.length % 8) % 8) 0

/-- Offsets of sections one after the other from `o`. -/
def offsetsFrom (o : Nat) : List (List W64) → List Nat
  | [] => []
  | l :: ls => o :: offsetsFrom (o + 8 * l.length) ls

/-- A member's record. -/
def Tile.saveRecord (t : Tile) : List W64 :=
  let ss := t.sections.map pad8
  let c := t.saveControl
  let n := (pad8 (c ++ List.replicate ss.length 0)).length
  pad8 (c ++ (offsetsFrom (8 * n) ss).map (BitVec.ofNat 64)) ++ ss.flatten

/-! ### The pool -/

/-- Bytes reserved for a save: its header and directory, and at most 512 KiB a member (log 13). -/
def saveSize (n : Nat) : Nat := 4096 + 0x80000 * 2 ^ n

/-- The lowest room in a queue's checkpoint pool: a multiple of 4 KiB, not 0, clear of the other saves. -/
def State.saveRoom (s : State) (q size : Nat) : Option Nat :=
  let d := s.queueDesc q
  let held := (s.saves.filter fun v => v.gang.queue == q).map fun v => (v.offset, v.size)
  let starts := 4096 :: held.map fun (o, n) => o + n
  let reach := fun o =>
    match s.handlePa d.ckpool.toNat o size true with
    | some (pa, none) => addressable pa size && !s.hashed pa size
    | some (_, some dev) => s.route dev == .up
    | none => false
  let ok := fun o => decide (o + size ≤ d.cksize.toNat * 2 ^ 20) && decide (d.ckpool.toNat < 65536) && reach o &&
    !held.any fun (p, n) => overlaps o size p n
  (starts.filter ok).foldl (fun m o =>
    match m with
    | none => some o
    | some k => some (min k o)) none

/-- Doubles written in the pool, and whether the writes so far were performed. -/
def State.poolWrite (ok : Bool) (s : State) (q off : Nat) (l : List W64) : Bool × State :=
  let (b, s) := s.handleWrite (s.queueDesc q).ckpool.toNat off (l.flatMap (bytesOf 8))
  (ok && b, s)

/-- The members' records with their ranks, each at its offset. -/
def memberParts : Nat → List (Nat × Tile) → List (Nat × Nat × List W64)
  | _, [] => []
  | o, (rank, t) :: ms => (rank, o, t.saveRecord) :: memberParts (o + 8 * t.saveRecord.length) ms

/-- The gang header. -/
def Save.header (v : Save) : List W64 :=
  let g := v.gang
  [BitVec.ofNat 64 (1 + g.log2n <<< 8 + (if v.checkpoint then 4096 else 0)), gidWord g.queue g.slot g.gid,
    gshapeWord g.record g.origin (v.members.any fun (_, t) => t.gshape.getLsbD 45), 0, 0, 0, 0, 0]

/-- The directory. -/
def Save.directory (v : Save) : List W64 :=
  let ms := memberParts 2112 v.members
  (List.range 256).map fun r => natW (((ms.find? fun m => m.1 == r).map (·.2.1)).getD 0)

/-- A save's parts with their offsets in it: header and directory, and the members' records (15 R347). -/
def Save.parts (v : Save) : List (Nat × List W64) :=
  (0, v.header ++ v.directory) :: (memberParts 2112 v.members).map fun m => m.2

/-- A save written in its pool. -/
def State.poolSave (s : State) (v : Save) : Bool × State :=
  v.parts.foldl (fun (ok, s) (o, l) => s.poolWrite ok v.gang.queue (v.offset + o) l) (true, s)

/-! ### A member saved and restored -/

/-- Cycles at a clock as nanoseconds, rounded up (20 R463). -/
def cyclesNs (mhz n : Nat) : Nat := (n * 1000 + mhz - 1) / mhz

/-- What a save keeps of a tile at a clock: streams are unbound, the cache is left behind, blocks that are not dirty come back
as zero, and intervals stand in nanoseconds. -/
def Tile.saved (t : Tile) (mhz : Nat) : Tile :=
  let u := t.undo.rescale (cyclesNs mhz)
  { u with
    strm := Vector.replicate 6 .empty
    cache := []
    fills := []
    tlb := []
    frames := Vector.replicate 16 .empty
    stopReq := false
    relReq := false
    parkReq := false
    sends := []
    spm := u.spm.filter fun (a, _) => u.dirty.getLsbD (a / 1024) }

/-- Link `k` of a resumed member, which stood as `d` on its tile (15 R349, log 82): its queue holds the saved words. Toward a
gang-mate it stands as it was saved, credits and all, with nothing under way; toward another tile it is resynchronised. -/
def Link.restore (saved d : Link) (edge mate : Bool) : Link :=
  if edge then { d with queue := saved.queue }
  else if mate then { saved with wire := [], back := [], await := 0 }
  else d.resync saved.queue

/-- A saved member placed on tile `tid` of a clock, which stood as `d` (15 R349): what no section holds is as at a launch, but the
model's own marks, the failed fills of registers among them (05 R123, log 118).
`mates` are the tiles of the gang's members. -/
def Tile.restore (saved d : Tile) (mates : List Nat) (tid origin log2n mhz : Nat) : Tile :=
  let u := d.fresh tid
  let gs := saved.gshape &&& ~~~(0x7F7F0000 : W64)
  { saved.rescale (nsCycles mhz) with
    frames := u.frames
    tlb := u.tlb
    links := vofList 4 .reset ((List.range 4).map fun k =>
      (saved.link k).restore (d.link k) (edgeAt tid k) (mates.contains (neighbour tid k)))
    linkDisc := u.linkDisc
    disc := u.disc
    sf := { u.sf with cm := saved.sf.cm }
    nests := Vector.replicate 8 0
    gp := ⟨[], none, saved.gp.last⟩
    weir := d.weir
    badSpm := []
    gshape := gs ||| BitVec.ofNat 64 (2 ^ 45 + (origin / 128) <<< 24 + (origin % 128) <<< 16)
    grants := launchGrants origin log2n saved.spadk
    cyc := 0
    rel := false
    report := none
    run := .running }

end Sys2Proof.Machine
end

