-- ==== Sys2Proof/Machine/Recall.lean ====
section
/-! DEFINITION. What a resumption reads of a save in its pool (15 R347 to R349): the sections of a member's record, each put
back as it stands there. -/
namespace Sys2Proof.Machine

/-! ### Doubles read -/

/-- `n` doubles from number `o` as one value. -/
def recBits (rd : Nat → W64) (o n w : Nat) : BitVec w :=
  BitVec.ofNat w (packN 64 ((List.range n).map fun k => (rd (o + k)).toNat))

/-- A bound, as `boundW` writes it. -/
def boundOf (x : W64) : Option Nat := if x.getLsbD 63 then some (bitsN x 0 63) else none

/-- A row of an MX file or operand entry. -/
def rowFrom (rd : Nat → W64) (o : Nat) : Val := Val.ofRowBits (recBits rd o 36 2304)

/-- These doubles stand from number `o`. -/
def standsAt (rd : Nat → W64) (o : Nat) (l : List W64) : Bool := l.zipIdx.all fun (x, k) => rd (o + k) == x

/-- A count read, of at most `top` things. -/
def countOf (x : W64) (top : Nat) : Nat := min x.toNat top

/-! ### Result records -/

/-- The record of 15 R352 that stands from double `o`. -/
def recFrom (mx : Bool) (rd : Nat → W64) (o : Nat) : Rec :=
  let nd := if mx then 32 else 16
  let ns := if mx then 4 else 2
  let st := rd (o + nd + ns)
  let side : List Nat := [(rd (o + nd)).toNat, if mx then (rd (o + nd + 1)).toNat else bitsN (rd (o + nd + 1)) 0 32,
    if mx then (rd (o + nd + 2)).toNat else 0]
  let k := rd (o + 25)
  let ops : Opnds :=
    { t := .ofScalar (rd (o + 20)), e00 := rd (o + 21), e01 := rd (o + 22), e10 := rd (o + 23), e11 := rd (o + 24)
      o0 := .ofScalar (if k.getLsbD 6 then rd (o + 22) else rd (o + 21))
      o1 := .ofScalar (if k.getLsbD 6 then rd (o + 24) else rd (o + 23)), e := k.getLsbD 6, opc := k.setWidth 6 }
  { v := st.getLsbD 63, val := ⟨recBits rd o nd 2048, Tag.ofCode (st.setWidth 6), BitVec.ofNat 192 (packN 64 side)⟩
    fl := st.extractLsb' 56 7, off := bitsN st 40 16, code := st.extractLsb' 32 8, rt := st.getLsbD 26, hp := st.getLsbD 25
    fault := st.getLsbD 24, ready := st.getLsbD 23, unread := st.getLsbD 22, opc := st.extractLsb' 8 6
    faddr := rd (o + nd + ns + 1), retrig := if st.getLsbD 26 && !mx then some ops else none }

def Rec.rep (r : Rec) : FaultRep := ⟨r.code, r.faddr, 0, 0⟩

def Rec.port (r : Rec) : Port := if r.v then ⟨r.val, r.unread, r.opc, true, r.fl, r.fault, r.rep⟩ else .empty

/-- A result in flight whose offset counts from bundle `b`. -/
def Rec.flight (b : Nat) (r : Rec) : Flight := ⟨b + r.off, 0, r.val, r.fl, r.opc, r.unread, r.fault, r.rep⟩

/-- A queue place with an operation's number. -/
def Rec.place (id : Nat) (r : Rec) : Place :=
  ⟨id, r.ready, r.val, r.fault, r.rep, r.fl, r.hp, false, r.val.tag, r.retrig.getD { Opnds.zero with opc := r.opc }⟩

/-! ### The sections but MX's and the queues' -/

/-- The control section. -/
def Tile.readControl (t : Tile) (rd : Nat → W64) : Tile :=
  { t with
    pc := (bitsN (rd 0) 0 30 : Nat)
    lc := vofList 4 0 ((List.range 4).map fun k => rd (1 + k) &&& 0x80000000FFFFFFFF)
    le := vofList 4 0 ((List.range 4).map fun k => rd (5 + k) &&& 0x3FFFFFFC)
    ls := vofList 4 0 ((List.range 4).map fun k => rd (9 + k) &&& 0x3FFFFFFC)
    rrc := rrcMask (rd 13)
    flm := rd 14 &&& 0x4F0E
    fpc := rd 15 &&& 0x7F03
    phCount := (rd 16).setWidth 32
    ovfCount := bitsN (rd 16) 32 16
    tvec := rd 17 &&& 0x3FFFFFFD
    tpc := rd 18 &&& 0x3FFFFFFF
    tcause := rd 19 &&& 0xFFFF7EFF
    taddr := rd 20
    tstat := rd 21 &&& 0xE0FFFFFFFFFF0000
    sf := { t.sf with cm := (rd 22).getLsbD 0 }
    barCount := (rd 23).setWidth 32
    arr := (rd 23).getLsbD 32
    links := vofList 4 .reset ((List.range 4).map fun d => { t.link d with credit := min 8 (bitsN (rd 24) (4 * d) 4) }) }

/-- g0 to g31 and the rotating positions in order; dead positions are zero. -/
def Tile.readG (t : Tile) (rd : Nat → W64) : Tile :=
  { t with
    g := vofList 64 0 ((List.range 64).map fun k =>
      if k = 0 then 0
      else if k < 32 then rd k
      else
        let i := (k + 32 - t.rrb) % 32
        if i < t.ld then rd (32 + i) else 0) }

def Tile.readPreds (t : Tile) (rd : Nat → W64) : Tile :=
  { t with p := ((rd 0).setWidth 16 &&& 0xFFFC) ||| 1, q := vofList 8 0 ((List.range 8).map fun k => rd (1 + k)) }

def Tile.readV (t : Tile) (rd : Nat → W64) : Tile :=
  { t with v := vofList 32 .zero ((List.range 32).map fun k => VReg.ofRecord (recBits rd (18 * k) 18 1152)) }

/-- The operand entries in the order of the map. -/
def Tile.readOpnd (t : Tile) (rd : Nat → W64) : Tile :=
  ((List.range 120).foldl (fun (t, o) i =>
    let put := fun (x : Val) => { t with opnd := vput t.opnd i x }
    match entryKind (i / 8) (i / 2 % 4) with
    | .scalar => (put (.ofScalar (rd o)), o + 1)
    | .row => (put (VReg.ofRecord (recBits rd o 18 1152)).val, o + 18)
    | .mx => (put (rowFrom rd o), o + 36)
    | .absent => (t, o)) (t, 0)).1

/-- The ports, shadows and results in flight. -/
def Tile.readPorts (t : Tile) (rd : Nat → W64) : Tile :=
  ((List.range 9).foldl (fun (t, o) i =>
    let mx := i == 8
    let n := countOf (rd o) 64
    let m := countOf (rd (o + 1)) 64
    let size := if mx then 64 else 32
    let at_ := fun k => recFrom mx rd (o + 2 + size * k)
    let b := if mx then t.mxNow else t.nb
    let f : Fixed :=
      { port := (at_ 0).port
        pipe := (List.range m).foldl (fun l k => insertFlight ((at_ (n + 1 + k)).flight b) l) []
        shPort := if n = 0 then none else some (at_ 1).port
        shadows := if mx then (t.fixedAt i).shadows else (List.range (n - 1)).map fun k => (at_ (2 + k)).flight 0 }
    (t.setFixed i f, o + 2 + size * (n + 1 + m))) (t, 0)).1

/-- The messages, the inbound link queues and the circular buffers. -/
def Tile.readInbox (t : Tile) (rd : Nat → W64) : Tile :=
  let n := countOf (rd 0) 64
  let taken := countOf (rd 1) 16
  let len := fun d => countOf (rd (2 + d)) 8
  let msg := fun k =>
    let h := rd (6 + 16 * k)
    (⟨h, (List.range (min (bitsN h 56 4) 15)).map fun j => rd (7 + 16 * k + j)⟩ : Msg)
  let ms := (List.range n).map msg
  let word0 := fun d => 6 + 16 * n + ((List.range d).map len).foldl (· + ·) 0
  let t := { t with
    inbox := if taken = 0 then ms else ms.drop 1
    taking := if taken = 0 then none else ms.head?.map fun m => (m, taken)
    links := vofList 4 .reset ((List.range 4).map fun d =>
      { t.link d with queue := (List.range (len d)).map fun k => rd (word0 d + k) }) }
  ((List.range 4).foldl (fun (t, o) k =>
    let x := fun j => (rd (o + j)).toNat
    let e := countOf (rd (o + 9)) 64
    let b : CBuf := ⟨rd o, x 1, x 2, x 3, x 4, x 5, x 6, x 7, x 8, (List.range e).map fun j => x (10 + j)⟩
    ({ t with cbufs := vput t.cbufs k b }, o + 10 + e)) (t, word0 4)).1

/-- The write log: the valid entries of a section that has room for `n`. -/
def Tile.readLog (t : Tile) (n : Nat) (rd : Nat → W64) : Tile :=
  { t with
    log := (List.range (min n 4096)).filterMap fun k =>
      let w := rd (2 * k)
      if w.getLsbD 63 then some ⟨k, bitsN w 3 52, [⟨0, w.extractLsb' 55 8, rd (2 * k + 1)⟩]⟩ else none }

/-- A block's `need` doubles from its tokens (15 R348), and where the next block's tokens begin. A token of kind 3, which the
coder never writes, is read as a literal run (log 39). -/
def readRuns (rd : Nat → W64) : Nat → Nat → Nat → List W64 × Nat
  | 0, _, o => ([], o)
  | fuel + 1, need, o =>
    if need = 0 then ([], o)
    else
      let n := min (bitsN (rd o) 0 8 + 1) need
      let (l, p) : List W64 × Nat :=
        match bitsN (rd o) 62 2 with
        | 0 => (List.replicate n 0, o + 1)
        | 1 => (List.replicate n (rd (o + 1)), o + 2)
        | _ => ((List.range n).map fun k => rd (o + 1 + k), o + 1 + n)
      let (r, e) := readRuns rd fuel (need - n) p
      (l ++ r, e)

/-- The dirty map and the coded blocks; a block that is not dirty is zero. -/
def Tile.readSpm (t : Tile) (rd : Nat → W64) : Tile :=
  let d : BitVec 256 := recBits rd 0 4 256
  ((List.range 256).foldl (fun (t, o) b =>
    if d.getLsbD b then
      let (l, e) := readRuns rd 128 128 o
      ({ t with spm := t.spm.write (1024 * b) (l.flatMap (bytesOf 8)) }, e)
    else (t, o)) ({ t with spm := [], dirty := d }, 4)).1

/-! ### MX's section -/

def mxFileFrom (rd : Nat → W64) (o : Nat) : MxFile :=
  ⟨vofList 8 .zero ((List.range 8).map fun k => rowFrom rd (o + 1 + 36 * k)), (rd o).toNat⟩

/-- An MX operation, and how many doubles it takes. -/
def mxOpFrom (rd : Nat → W64) (o : Nat) : MxOp × Nat :=
  let b := fun k => rd (o + k) != 0
  let n := fun k => (rd (o + k)).toNat
  match n 0 with
  | 1 => (.mlda (b 1) (n 2) (recBits rd (o + 3) 8 512), 11)
  | 2 =>
    let c := countOf (rd (o + 7)) 8
    (.mldb (b 1) (n 2) (b 3) (n 4) ((List.range c).map fun k => rowFrom rd (o + 8 + 36 * k))
      (if n 5 = 0 then none else some (n 5 - 1)) (b 6), 8 + 36 * c)
  | 3 => (.mma (b 1) (b 2) (n 3), 4)
  | 4 => (.mzro ((rd (o + 1)).setWidth 4), 2)
  | 5 => (.mrd (b 1) (n 2) (n 3) (n 4) ((rd (o + 5)).setWidth 2), 6)
  | _ => (.mqrd (b 1) (n 2) (n 3) (n 4) ((rd (o + 5)).setWidth 2), 6)

/-- The operations waiting in MX's queue, `n` of them, and where they end. -/
def mxQueueFrom (rd : Nat → W64) (nb : Nat) : Nat → Nat → List MxQueued × Nat
  | 0, o => ([], o)
  | n + 1, o =>
    let (op, k) := mxOpFrom rd (o + 2)
    let (l, e) := mxQueueFrom rd nb n (o + 2 + k)
    (⟨(rd o).toNat, nb - (rd (o + 1)).toNat, op⟩ :: l, e)

/-- A load's unit, or none, and where it ends; its moments count from bundle `now`. -/
def mxLoadFrom (rd : Nat → W64) (now o : Nat) : Option MxLoad × Nat :=
  if rd o = 0 then (none, o + 1)
  else
    let (op, k) := mxOpFrom rd (o + 4)
    (some ⟨op, now + (rd (o + 1)).toNat, now + (rd (o + 2)).toNat,
      vofList 8 .zero ((List.range 8).map fun j => rowFrom rd (o + 4 + k + 36 * j)), rd (o + 3) != 0⟩, o + 4 + k + 288)

/-- A run of the array: 6 doubles and two files. -/
def mxRunFrom (rd : Nat → W64) (now o : Nat) : MxRun :=
  ⟨(rd o).toNat, mxFileFrom rd (o + 6), mxFileFrom rd (o + 295), rd (o + 1) != 0, rd (o + 2) != 0, (rd (o + 3)).toNat,
    now + (rd (o + 4)).toNat, now + (rd (o + 5)).toNat⟩

/-- The matrix section (log 13). -/
def Tile.readMx (t : Tile) (rd : Nat → W64) : Tile :=
  let now := t.mxNow
  let file := fun k => mxFileFrom rd (4096 + 289 * k)
  let u := 4096 + 289 * 5
  let (queue, o) := mxQueueFrom rd t.nb (countOf (rd (u + 4)) 8) (u + 5)
  let (load, o) := mxLoadFrom rd now o
  let r := countOf (rd (o + 2)) 64
  let e := o + 3 + 584 * r
  let ago := (rd (o + 1)).toNat
  { t with
    mx :=
      { acc := vofList 128 (Vector.replicate 32 0) ((List.range 128).map fun k =>
          vofList 32 0 ((List.range 32).map fun j => rd (32 * k + j)))
        a0 := file 0, a1 := file 1, b0 := file 2, b1 := file 3, latch := file 4
        latchTag := Tag.ofCode ((rd u).setWidth 6)
        cursor := (rd (u + 1)).toNat % 8, rp := (rd (u + 2)).toNat, wp := (rd (u + 3)).toNat
        queue := queue, load := load
        arrayTo := if rd o = 0 then none else some (now + (rd o).toNat)
        lastStart := if ago = 0 then none else some (now + 1 - ago)
        runs := (List.range r).map fun k => mxRunFrom rd now (o + 3 + 584 * k) }
    mxKept := if rd e = 0 then none else some ((rd (e + 1)).toNat, (rd (e + 2)).toNat, (rd (e + 3)).toNat) }

/-! ### The result queues -/

/-- The socket of a result queue. -/
def queueSock (q : Nat) : Sock :=
  match q with
  | 0 => .au | 1 => .sy | 2 => .ch | 3 => .cp | 6 => .sf | _ => .gp

/-- The places of queue `q` from double `o`: each as it was kept where its record is as it was written, else by its record and
marked, under a new number where it was no place before. -/
def Tile.placesFrom (t : Tile) (rd : Nat → W64) (q o : Nat) : List (Bool × Place) :=
  (List.range (countOf (rd o) 64)).map fun k =>
    let at_ := o + 1 + 32 * k
    let fresh := (recFrom false rd at_).place (t.nextId + 64 * q + k)
    match (t.queue q)[k]? with
    | some p => if standsAt rd at_ p.saved then (false, p) else (true, { fresh with id := p.id })
    | none => (true, fresh)

/-- The operations that wait under numbers, gone. -/
def Tile.dropWaiting (t : Tile) (ids : List Nat) : Tile :=
  { t with
    waits := t.waits.filter fun x => !ids.contains x.id
    recvs := t.recvs.filter fun x => !ids.contains x.id
    takes := t.takes.filter fun x => !ids.contains x.id
    reqs := t.reqs.filter fun x => !ids.contains x.id }

/-- The result queues, and what stands with them. A place whose record has changed has no operation of before; where it holds a
saved wait, that is triggered (15 R346, R349). -/
def Tile.readQueues (env : Env) (t : Tile) (rd : Nat → W64) : Tile :=
  let read : List (List (Bool × Place)) × Nat := (List.range 7).foldl (fun (l, o) q =>
    (l ++ [t.placesFrom rd q o], o + 1 + 32 * countOf (rd o) 64)) ([], 0)
  let qs := read.1
  let o := read.2
  let kept := qs.flatMap fun l => (l.filter fun x => !x.1).map fun x => x.2.id
  let gone := ((vlist t.queues).flatMap fun q => q.map (·.id)).filter fun n => !kept.contains n
  let u : Tile := { t.dropWaiting gone with
    queues := vofList 7 [] (qs.map fun l => l.map (·.2))
    nextId := t.nextId + 448 }
  let u := qs.zipIdx.foldl (fun u (l, q) =>
    (l.filter fun x => x.1 && !x.2.ready).foldl (fun u x => u.reissue env (queueSock q) x.2) u) u
  let sy := ((qs[1]?).getD []).map fun x => x.2.id
  let last := o + 1 + sy.length
  let gp := last + 2
  { u with
    twb := boundOf (rd o)
    waits := u.waits.map fun w =>
      match sy.findIdx? (· == w.id) with
      | some k => { w with bound := boundOf (rd (o + 1 + k)) }
      | none => w
    slns := (rd last).toNat
    slnsH := (rd (last + 1)).toNat
    gp := { u.gp with
      last := if rd gp = 0 then none
        else some ⟨(List.range 16).map fun k => rd (gp + 3 + k), (rd (gp + 1)).toNat, (rd (gp + 2)).setWidth 6⟩ } }

/-! ### A member and a save -/

/-- A saved member as its record in the pool says: a part that stands there as it was written is as it was kept, and any other is
put back from what stands there now. `rd` are the save's doubles, `base` the number of the record's first. -/
def Tile.recall (env : Env) (t : Tile) (rd : Nat → W64) (base : Nat) : Tile :=
  let ctl := t.saveControl
  let off := fun i => (rd (base + ctl.length + i)).toNat / 8
  let at_ := fun i k => rd (base + off i + k)
  let ss := t.sections
  let part := fun (i : Nat) (f : Tile → (Nat → W64) → Tile) (u : Tile) =>
    if standsAt (at_ i) 0 ((ss[i]?).getD []) then u else f u (at_ i)
  let u := if standsAt rd base ctl then t else t.readControl fun k => rd (base + k)
  let u := if u.rrc = t.rrc then part 0 Tile.readG u else u.readG (at_ 0)
  part 9 Tile.readSpm (part 8 (fun u => u.readLog ((off 9 - off 8) / 2)) (part 7 Tile.readInbox (part 6 Tile.readMx
    (part 5 (Tile.readQueues env) (part 4 Tile.readPorts (part 3 Tile.readOpnd (part 2 Tile.readV (part 1 Tile.readPreds u))))))))

/-- These doubles stand at an address, the whole range at once. -/
def Mem.holds (m : Mem) (a : Nat) (l : List W64) : Bool :=
  let cells := (l.flatMap (bytesOf 8)).zipIdx.filterMap fun (b, k) => if b = 0 then none else some (a + k, b)
  m.filter (fun (k, _) => decide (a ≤ k) && decide (k < a + 8 * l.length)) == cells

/-- A save stands at an address as it was written. -/
def State.saveStands (s : State) (v : Save) (pa : Nat) : Bool := v.parts.all fun (o, l) => s.hbm.holds (pa + o) l

/-- How many bytes a save has. -/
def Save.length (v : Save) : Nat := v.parts.foldl (fun n (o, l) => max n (o + 8 * l.length)) 0

/-- Where a save can be read: its address in this device's memory, or none of one on a peer; nothing where its handle's check
fails. -/
def State.savePlace (s : State) (v : Save) : Option (Option Nat) :=
  match s.handlePa (s.queueDesc v.gang.queue).ckpool.toNat v.offset v.length false with
  | some (pa, none) => if addressable pa v.length then some (some pa) else none
  | some (_, some dev) => if s.route dev = .up then some none else none
  | none => none

/-- The members of a save that can be read, for the rectangle at `origin`: none where an error of its granules cannot be
corrected. Of a save on a peer, whose memory is no part of this module, what was written (log 39). -/
def State.recallMembers (s : State) (v : Save) (at_ : Option Nat) (origin : Nat) : Option (List (Nat × Tile)) × State :=
  match at_ with
  | none => (some v.members, s)
  | some pa =>
    let (bad, s) := s.readGranules (granules pa v.length)
    if bad then (none, s)
    else if s.saveStands v pa then (some v.members, s)
    else
      let rd := fun k => s.hbm.double (pa + 8 * k)
      let ts := rectTiles origin v.gang.log2n
      (some (v.members.map fun (rank, t) =>
        (rank, t.recall (s.env ((ts[rank]?).getD 0)) rd ((rd (8 + rank)).toNat / 8))), s)

end Sys2Proof.Machine
end

