-- ==== Sys2Proof/Machine/Gangs.lean ====
section
/-! DEFINITION. Release, retirement and failure of gangs, quarantine, gang-stop and resumption, checkpoints, the
dispenser's choice (07 R160, 08 R177, R184 to R187, 15 R344 to R350). -/
namespace Sys2Proof.Machine

/-! ### What a stop waits for (15 R343, R346) -/

/-- A request that may wait for ever: a redeem that its slice has accepted. -/
def Req.maySave (r : Req) : Bool :=
  r.kind.isRedeem && !r.lanes.isEmpty && r.lanes.all (·.open_)

/-- The tile's engines have nothing left that will complete by itself; a peer's line that one of its tickets waits for has
come. -/
def State.quiet (s : State) (tid : Nat) : Bool :=
  let t := s.tile tid
  t.reqs.all (·.maySave) && t.spill.isEmpty && t.sends.isEmpty && t.cpys.isEmpty && t.gp.run.isNone && t.gp.queue.isEmpty &&
    t.sf.queue.isEmpty && !s.fetchOpen tid (t.nb + 1) &&
    !(s.cluster (clusterOf tid)).jobs.any fun (_, j) => j.tid == tid && j.st != .ended

/-- The engines of a parked tile are done with all that completes by itself: what only another agent can end (a WAIT, a RECV, a
TAKE, a pending redeem) does not keep it (log 83). -/
def State.atRest (s : State) (tile : Nat) : Bool := s.drained tile || s.quiet tile

/-- A parked tile is released, or as soon as its engines are done (15 R343, R353). -/
def State.ctlRelease (s : State) (tile : Nat) : State :=
  if (s.tile tile).run ≠ .parked then s
  else if s.atRest tile = true then s.releaseTile tile
  else s.onTile tile fun t => { t with relReq := true }

/-- CTL_RELEASE. -/
def execCtlRelease (tile : Nat) (s : State) : Host.Outcome State Fault Refusal := .next (s.served (s.ctlRelease tile))

/-! ### END (07 R160) -/

/-- A report of a fault at END; the task is marked with FAULT. -/
def State.endFault (s : State) (tile : Nat) (r : Report) : State :=
  let s := s.onCluster (clusterOf tile) fun c => c.report r
  s.onGang (s.tile tile).gidN fun g => { g with status := g.status ||| 2 }

/-- The faults left at release: the deferred record, and responses that came faulted during the drain. Their TPC is the
address of END's bundle (log 65). A GP fault gives a report for each of its two places, the deferred record, however many stores
it counts, one with the cause of the first, and word 1 holds CODE alone (log 84). -/
def Tile.endReports (t : Tile) (tid : Nat) : List Report :=
  (match t.deferred with
    | some d => [mkReport tid 0x1A d.cause t.pc d.addr]
    | none => []) ++
  (vlist t.queues).flatMap fun q => (q.filter fun x => x.ready && x.flt).map fun x =>
    mkReport tid x.rep.code x.rep.aux t.pc x.rep.addr

/-- TILE_RELEASE: a tile that has drained after END; or a parked one whose RELEASE waited for its engines, which publishes
nothing (15 R343). -/
def execTileRelease (tile : Nat) (s : State) : Host.Outcome State Fault Refusal :=
  let t := s.tile tile
  .next (if t.run = .draining ∧ s.drained tile = true ∧ t.sync.isEmpty = true then
      let s := s.publish tile
      ((t.endReports tile).foldl (fun s r => s.endFault tile r) s).releaseTile tile
    else if t.run = .parked ∧ t.relReq = true ∧ s.atRest tile = true then s.releaseTile tile
    else s)

/-! ### Retirement (08 R184) -/

def State.dropGang (s : State) (gid : BitVec 32) : State := { s with gangs := s.gangs.filter fun g => g.gid != gid }

/-- The gang of the same record: a claim serial that has come round, or begun anew at a module reset, gives a gang's identifier
again, so its ring slot tells too (08 R189). -/
def Gang.same (g h : Gang) : Bool := g.gid == h.gid && g.queue == h.queue && g.slot == h.slot

def State.dropSaves (s : State) (g : Gang) : State := { s with saves := s.saves.filter fun v => !v.gang.same g }

/-- A gang's record waits to be placed again no longer. -/
def State.dropRedo (s : State) (g : Gang) : State :=
  { s with clusters := s.clusters.map fun (c, x) =>
      (c, { x with redo := x.redo.filter fun r => r != ⟨g.queue, g.slot, g.gid⟩ }) }

/-- What a gang that stops running leaves behind: no byte is held for it (10 R224), no ticket of its is frozen (11 R256), and
no claim of the run has a redeemer. -/
def State.leaveRun (s : State) (gid : BitVec 32) : State := ((s.unveil gid).freeze gid false).reclaimRedeems gid []

/-- The cluster in which a gang runs or last ran: its dispenser retires it, and its supervisor decides on it. -/
def Gang.home (g : Gang) : Nat := clusterOf g.origin

/-- A gang gone for good, its record retired with a status. -/
def State.retireGang (s : State) (g : Gang) (status : BitVec 8) : State :=
  ((((s.leaveRun g.gid).dropGang g.gid).dropSaves g).dropRedo g).retireRecord g.home g.queue g.slot g.record g.gid status

/-- GANG_RETIRE: a fault at END adds TORN when the task is exposed. -/
def execGangRetire (gang : Nat) (s : State) : Host.Outcome State Fault Refusal :=
  .next (match s.gang? gang with
    | some g =>
      if (s.members g).isEmpty && g.runsOn then
        s.retireGang g (if g.status.getLsbD 1 && g.exposed then g.status ||| 1 else g.status)
      else s
    | none => s)

/-- Messages in flight to the tile have come, and what is under way to it on its links. -/
def State.arrived (s : State) (tid : Nat) : Bool :=
  ((List.range 4).all fun d => (s.inWire tid d).isEmpty && (s.inBack tid d).isEmpty) &&
    ((s.tile tid).inboxFull || !s.tiles.any fun (_, u) => u.sends.any fun x => !x.delivered && !x.peer && sendTid x.word == tid)

/-- A member that issues no bundle. -/
def Tile.halted (t : Tile) : Bool := t.run == .stopping || t.run == .parked

/-- The members told to stop at their next bundle boundary. -/
def State.stopAll (s : State) (ms : List Nat) : State :=
  ms.foldl (fun s m => s.onTile m fun t => if t.run = .running then { t with stopReq := true } else t) s

/-! ### Failure (08 R186, R187, 15 R345) -/

/-- A valid grant that a driver gave a tile outside the gang. -/
def outsideGrant (g : Gang) (x : W64) (tid : Nat) : Bool :=
  x.getLsbD 63 && grantMatches x (.tile tid) && !g.tiles.contains tid

/-- Tiles outside the gang that its members' entries 1 to 3 name. -/
def State.granted (s : State) (g : Gang) (ms : List Nat) : List Nat :=
  let xs := (ms.flatMap fun m => (vlist (s.tile m).grants).drop 1).filter (·.getLsbD 63)
  if xs.isEmpty then [] else (List.range Config.tiles).filter fun tid => xs.any fun x => outsideGrant g x tid

/-- The stopped members released, or quarantined while granted tiles outside go on. -/
def State.clearMembers (s : State) (g : Gang) (ms : List Nat) : State :=
  let outside := s.granted g ms
  if outside.isEmpty then ms.foldl State.releaseTile s
  else
    let watch := (outside.filter fun t => (s.tile t).resident).map fun t => (t, (s.tile t).phCount)
    let s := ms.foldl (fun s m =>
      let gr := (s.tile m).grants
      (s.releaseTile m).onTile m fun t => { t with run := .quarantined, grants := gr }) s
    { s with quar := s.quar ++ [⟨g.gid, ms, watch⟩] }

/-- The status a stopped gang gains in the third row of R186, and whether it must take that row. -/
def Gang.tornStatus (g : Gang) (fatal : Bool) : BitVec 8 :=
  match g.why with
  | some .integrity => 0x05 ||| (if fatal then 2 else 0)
  | some .cancelled => 0x11
  | some (.failed f) => if f then 3 else 1
  | _ => 1

def Gang.mustRetire (g : Gang) : Bool := g.exposed || g.why == some .integrity || g.why == some .cancelled

/-- A reservation of room for a save that was not made goes with it. -/
def State.dropRoom (s : State) (g : Gang) : State :=
  { s with saves := s.saves.filter fun v => !v.gang.same g || v.checkpoint }

/-- The outcome of R186's table, its members stopped. A task marked for a fault at END is not run again (07 R160, log 104).
Where the slot cannot be reached RETRY reads 0, and the failure is not counted (log 43). Word 6 of a slot that is READY again keeps the time at which it first
became READY (log 68). A record to be placed again goes to the cluster in which its gang failed (log 41). -/
def State.decide_ (s : State) (g : Gang) (fatal : Bool) : State :=
  let s := ((s.reclaim g.gid).leaveRun g.gid).dropRoom g
  if g.mustRetire then s.retireGang g (g.status ||| g.tornStatus fatal)
  else if g.status.getLsbD 1 then s.retireGang g g.status
  else if (s.launchable g.record).isNone then s.retireGang g (g.status ||| 8)
  else
    let w := match s.ringBase g.queue with
      | some b => s.slotWord b g.slot 4
      | none => 0
    let s := s.peekSlot g.queue g.slot
    let n := slotRetry w + 1
    let s := s.onSlot g.queue g.slot fun w => merge64 0xF00 w (BitVec.ofNat 64 (n <<< 8))
    if 4 ≤ n then s.retireGang g (g.status ||| 2)
    else if s.saves.any fun v => v.gang.same g && v.checkpoint then
      -- its checkpoint waits to be resumed
      s.dropGang g.gid
    else
      let s := (s.dropGang g.gid).onSlot g.queue g.slot fun w => (w &&& ~~~7) ||| 1
      s.onCluster g.home fun c => { c with redo := c.redo ++ [⟨g.queue, g.slot, g.gid⟩] }

/-- A member's fatal-fault report has not reached the supervisor's ring yet (08 R179). -/
def State.reportWaits (s : State) (ms : List Nat) : Bool :=
  s.clusters.any fun (_, c) => c.supWait.any fun r => ms.contains (bitsN r.w0 0 14)

/-- GANG_FAIL: the supervisor stops every member; once all have stopped, it decides and releases them. -/
def execGangFail (gang : Nat) (s : State) : Host.Outcome State Fault Refusal :=
  .next (match s.gang? gang with
    | none => s
    | some g =>
      if g.runsOn then s
      else
        let ms := s.members g
        if ms.any fun m => (s.tile m).run == .running then s.stopAll ms
        else if ms.all s.quiet && !s.reportWaits ms then
          let fatal := ms.any fun m => (s.tile m).report.any fun r => r.w1 != 0x35
          (s.clearMembers g ms).decide_ g fatal
        else s)

/-- RECORD_CANCEL: a resident gang is stopped for it; a saved or failed one retires with TORN and CANCELLED. -/
def execRecordCancel (queue slot : Nat) (s : State) : Host.Outcome State Fault Refusal :=
  let of_ := fun g : Gang => g.queue == queue && g.slot == slot
  .next (s.served (if s.gangs.any of_ then
      { s with gangs := s.gangs.map fun g =>
          if of_ g && g.why != some .integrity then { g with why := some .cancelled } else g }
    else
      match s.saves.find? fun v => of_ v.gang with
      | some v => (s.reclaim v.gang.gid).retireGang v.gang (v.gang.status ||| 0x11)
      | none =>
        match s.clusters.findSome? fun (c, x) => (x.redo.find? fun r => r.queue == queue && r.slot == slot).map fun r => (c, r) with
        | some (c, r) =>
          match s.ringBase queue with
          | some b =>
            ((s.peekSlot queue slot).onCluster c fun x => { x with redo := x.redo.erase r }).retireRecord c queue slot
              (s.slotRecord b slot) r.gid
              (slotStatus (s.slotWord b slot 4) ||| 0x11)
          | none => s
        | none => s))

/-- A result waits for an unlocked tile. -/
def Tile.pending (t : Tile) : Bool :=
  (vlist t.fixed).any (fun f => !f.pipe.isEmpty || f.port.unread) || (vlist t.queues).any fun q => q.any (·.ready)

/-- UNRESPONSIVE_TIMEOUT: the fatal fault 0x34 (15 R344). -/
def execUnresponsiveTimeout (tile : Nat) (s : State) : Host.Outcome State Fault Refusal :=
  let t := (s.tile tile).undo
  .next (if t.run = .running ∧ s.lockBits tile = 0 ∧ t.pending = true then s.putTile tile (t.fatal tile 0x34 0 t.pc 0) else s)

/-- QUARANTINE_END: every watched tile has raised its COUNT or been released (15 R345). -/
def execQuarantineEnd (gang : Nat) (s : State) : Host.Outcome State Fault Refusal :=
  .next (match s.quar.find? fun q => q.gid.toNat == gang with
    | some q =>
      if q.watch.all fun (t, n) => (s.tile t).phCount != n then
        let s := q.tiles.foldl (fun s m => s.onTile m fun t =>
          { t with run := .idle, grants := Vector.replicate 4 0, spm := [], badSpm := [], dirty := BitVec.allOnes 256 }) s
        { s with quar := s.quar.erase q }
      else s
    | none => s)

/-! ### Gang-stop and checkpoints (15 R346, 08 R185) -/

/-- The members with their ranks, as a save keeps them. -/
def State.memberSaves (s : State) (g : Gang) (ms : List Nat) : List (Nat × Tile) :=
  g.tiles.zipIdx.filterMap fun (t, rank) =>
    if ms.contains t then some (rank, (s.tile t).saved (s.env t).mhz) else none

/-- The members saved, released, the slot PREEMPTED. A save that the pool does not take is tried again. -/
def State.preempt (s : State) (g : Gang) (ms : List Nat) (off : Nat) : State :=
  let v : Save := ⟨{ g with why := none }, false, off, saveSize g.log2n, s.memberSaves g ms⟩
  let (ok, s) := s.poolSave v
  if !ok then s
  else
    let s := ms.foldl State.releaseTile s
    { (s.dropRoom g).dropGang g.gid with saves := (s.dropRoom g).saves ++ [v] }.onSlot g.queue g.slot fun w =>
      (w &&& ~~~7) ||| 3

/-- GANG_STOP: room reserved and every member told to stop, or refused; then, when all have halted, the gang's tickets frozen; then,
when all have drained, the members saved. -/
def execGangStop (gang : Nat) (s : State) : Host.Outcome State Fault Refusal :=
  .next (s.served (match s.gang? gang with
    | none => s
    | some g =>
      let ms := s.members g
      match g.why with
      | none =>
        match s.saveRoom g.queue (saveSize g.log2n) with
        | none => s
        | some off =>
          let s := s.onGang gang fun g => { g with why := some .preempt }
          let v : Save := ⟨g, false, off, saveSize g.log2n, []⟩
          let s := { s with saves := s.saves ++ [v] }
          s.stopAll ms
      | some .preempt =>
        if ms.any fun m => (s.tile m).run == .running then s.stopAll ms
        else if ms.isEmpty || !ms.all fun m => (s.tile m).halted then s
        else
          let still := s.freeze g.gid true
          match s.saves.find? fun v => v.gang.same g && !v.checkpoint with
          | some v =>
            if ms.all fun m => (s.tile m).sync.all (·.arrived) && s.quiet m && s.arrived m then still.preempt g ms v.offset
            else still
          | none => still
      | _ => s))

/-- A checkpoint that is due cannot be written: the old one is discarded and CKMISS set. -/
def State.missCheckpoint (s : State) (g : Gang) : State :=
  let s := (s.dropSaves g).onSlot g.queue g.slot fun w => w ||| 0x80
  match s.slotBase g.queue g.slot with
  | some b => s.setSlotWord b g.slot 5 0
  | none => s

/-- CHECKPOINT: every member has arrived at its PHASE.G; until their engines are quiet the gang's tickets are frozen. The save holds the members with the phase
complete; without room, or where the pool does not take it, the phase completes without one. -/
def execCheckpoint (gang : Nat) (s : State) : Host.Outcome State Fault Refusal :=
  .next (match s.gang? gang with
    | none => s
    | some g =>
      let ms := s.members g
      let done := fun s : State => (s.barrierEnd g.gid ms).freeze g.gid false
      if !(g.ckpt && g.why == none && s.barrierKind ms == some (some .phaseG)) then s
      else if !ms.all fun m => s.quiet m && s.arrived m then s.freeze g.gid true
      else
        match s.saveRoom g.queue (saveSize g.log2n) with
        | none => done (s.missCheckpoint g)
        | some off =>
          let after := s.barrierEnd g.gid ms
          let v : Save := ⟨{ g with exposed := false }, true, off, saveSize g.log2n, after.memberSaves g ms⟩
          let (ok, s) := (s.dropSaves g).poolSave v
          if !ok then done (s.missCheckpoint g)
          else
            let s := { s with saves := s.saves ++ [v] }
            let s := (s.onGang gang fun g => { g with exposed := false }).onSlot g.queue g.slot fun w => w &&& ~~~0xF40
            let s := match s.slotBase g.queue g.slot with
              | some b => s.setSlotWord b g.slot 5 (BitVec.ofNat 64 off)
              | none => s
            done s)

/-! ### Resumption (15 R349) -/

/-- A save whose gang is not resident and whose queue the cluster serves. -/
def State.resumable (s : State) (c : Nat) (v : Save) : Bool :=
  (s.gang? v.gang.gid.toNat).isNone && !v.members.isEmpty && (s.queueDesc v.gang.queue).cmask.getLsbD c

/-- The members of a save placed on the rectangle at `o` and restored, and the gang resident again. Resumption is an acquire point
of every member: no byte is held for the gang any more (10 R218). -/
def State.putBack (s : State) (v : Save) (members : List (Nat × Tile)) (o : Nat) : State :=
  let g := v.gang
  let ts := rectTiles o g.log2n
  let mates := members.map fun (rank, _) => (ts[rank]?).getD 0
  let s := members.foldl (fun s (rank, t) =>
    let tid := (ts[rank]?).getD 0
    s.startTile tid fun d => t.restore d mates tid o g.log2n (s.env tid).mhz) s
  let s := { s with
    gangs := s.gangs ++ [{ g with origin := o, why := none }]
    saves := if v.checkpoint then s.saves else s.saves.filter fun w => !w.gang.same g || w.checkpoint }
  let s := (((s.unveil g.gid).freeze g.gid false).reclaimRedeems g.gid ts).unreserve g.queue g.slot
  s.onSlot g.queue g.slot fun w => (w &&& ~~~7) ||| 2

/-- A saved gang placed and restored from its save; one that is no longer launchable retires with BADREC. A pre-emption's save
goes, a checkpoint stays. A save that its handle does not let be read waits; one whose read meets an error that cannot be
corrected is read anew at the next choice (log 39). -/
def State.resume (s : State) (c : Nat) (v : Save) : Option State :=
  let g := v.gang
  if g.why == some .integrity then some ((s.reclaim g.gid).retireGang g (g.status ||| 0x05))
  else if (s.launchable g.record).isNone then some (s.retireGang g (g.status ||| 8))
  else
    match s.savePlace v, s.place c g.queue g.slot g.record with
    | some at_, some o =>
      match s.recallMembers v at_ o with
      | (some ms, s) => some (s.putBack v ms o)
      | (none, s) => some s
    | _, _ => none

/-- The save that is resumed of a gang: its pre-emption's, else its checkpoint. -/
def State.resumeSaves (s : State) (c : Nat) : List Save :=
  (s.saves.filter fun v => s.resumable c v && !v.checkpoint) ++
    s.saves.filter fun v => s.resumable c v && v.checkpoint && !s.saves.any fun w => w.gang.same v.gang && !w.checkpoint

/-- GANG_RESUME: the first saved gang that the cluster can place; none while EN is 0 or DRAIN is 1 (log 117). -/
def execGangResume (cluster : Nat) (s : State) : Host.Outcome State Fault Refusal :=
  .next (if bitsN (s.cluster cluster).dspctl 0 2 ≠ 1 then s
    else ((s.resumeSaves cluster).findSome? (s.resume cluster)).getD s)

/-! ### The dispenser (08 R177) -/

/-- The level of a failed or saved record. -/
def State.slotLevel (s : State) (q i : Nat) (r : BitVec 256) : Nat :=
  match s.ringBase q with
  | some b => s.level b i
  | none => recPrio r

/-- What the dispenser does at a level: failed and saved records first, then the heads in round-robin order. That the failed ones
come before the saved ones is the model's choice (log 116). -/
def State.atLevel (s : State) (c level : Nat) : Option State :=
  let redo := fun _ : Unit => (s.cluster c).redo.findSome? fun x =>
    if s.slotLevel x.queue x.slot 0 = level then s.serveRedo c x else none
  let saved := fun _ : Unit => (s.resumeSaves c).findSome? fun v =>
    if s.slotLevel v.gang.queue v.gang.slot v.gang.record = level then s.resume c v else none
  let heads := fun _ : Unit => (s.queuesAt c level).findSome? fun (q, b, i) =>
    (s.serve c q b i).map fun s => s.onCluster c fun x => { x with rrptr := vput x.rrptr level (BitVec.ofNat 8 q) }
  match redo () with
  | some s => some s
  | none =>
    match saved () with
    | some s => some s
    | none => heads ()

/-- The slots, each with its ring, that the dispenser of a cluster reads to choose: the heads of its queues, and those of
failed and saved records (08 R177). -/
def State.choiceSlots (s : State) (c : Nat) : List (Nat × Nat) :=
  let heads := s.dev.queues.filterMap fun (q, d) =>
    let i := d.claim.toNat % 2 ^ d.log2
    if d.en && d.cmask.getLsbD c && d.claim != d.prod then (s.slotBase q i).map fun b => (b, i) else none
  let slots := (s.cluster c).redo.map (fun x => (x.queue, x.slot)) ++
    (s.resumeSaves c).map fun v => (v.gang.queue, v.gang.slot)
  heads ++ slots.filterMap fun (q, i) => (s.ringBase q).map fun b => (b, i)

/-- Those slots read, an error in one of them corrected or counted (16 R370). -/
def State.touchChoices (s : State) (c : Nat) : State :=
  (s.choiceSlots c).foldl (fun s (b, i) => s.touchSlot b i) s

/-- The records that have waited 2 ms for the dispenser of a cluster and cannot be placed: heads, failed and saved ones, each
with its wait (08 R178). -/
def State.starved (s : State) (c : Nat) : List (Nat × Nat × Nat × BitVec 256) :=
  let heads := s.dev.queues.filterMap fun (q, _) => (s.head c q).map fun (b, i) => (q, i, s.slotRecord b i)
  let redo := (s.cluster c).redo.filterMap fun x =>
    (s.ringBase x.queue).map fun b => (x.queue, x.slot, s.slotRecord b x.slot)
  let saved := (s.resumeSaves c).map fun v => (v.gang.queue, v.gang.slot, v.gang.record)
  (heads ++ redo ++ saved).filterMap fun (q, i, r) =>
    (s.ringBase q).bind fun b =>
      if 2000000 ≤ s.waited b i ∧ (s.launchable r).isSome = true ∧ s.place c q i r = none then some (s.waited b i, q, i, r)
      else none

/-- The first element of a list that no other beats. -/
def bestOf {α : Type} (better : α → α → Bool) : List α → Option α
  | [] => none
  | x :: xs => some (xs.foldl (fun y z => if better z y then z else y) x)

/-- RESERVATION_TAKE: of the records that have waited 2 ms and cannot be placed, the longest waiting takes the
reservation of the allowed rectangle with the fewest resident tiles (08 R178). Of records that have waited equally long, the
first of `State.starved` takes it (log 115). -/
def execReservationTake (cluster : Nat) (s : State) : Host.Outcome State Fault Refusal :=
  let s := s.touchChoices cluster
  let c := s.cluster cluster
  .next (match c.rsv, bestOf (fun x y => decide (y.1 < x.1)) (s.starved cluster) with
    | none, some (_, q, i, r) =>
      let n := recShape r
      let load := fun o => ((rectTiles o n).filter fun t => (s.tile t).resident).length
      let rects := (rectsOf cluster n).filter fun o => (rectTiles o n).all (s.tileAllowed (recSpadk r))
      match bestOf (fun o p => decide (load o < load p)) rects with
      | some o => s.setCluster cluster { c with rsv := some ⟨q, i, n, o⟩ }
      | none => s
    | _, _ => s)

/-- DISPENSER_SELECT: a retirement that the ring held up is completed first. EN = 0 or DRAIN = 1 holds failed and saved records as
it holds claims (log 117). -/
def execDispenserSelect (cluster : Nat) (s : State) : Host.Outcome State Fault Refusal :=
  let c := s.cluster cluster
  .next (match c.unretired.find? fun (q, i, _) => (s.slotBase q i).isSome with
    | some (q, i, st) =>
      (s.setCluster cluster { c with unretired := c.unretired.erase (q, i, st) }).retireSlot cluster q i st
    | none =>
      if bitsN c.dspctl 0 2 ≠ 1 then s
      else
        let s := s.touchChoices cluster
        ([7, 6, 5, 4, 3, 2, 1, 0].findSome? (s.atLevel cluster)).getD s)

/-! ### The supervisor's ring (08 R179) -/

/-- The `n` oldest reports removed; reports that waited at their tiles take the places. -/
def Cluster.ack (c : Cluster) (n : Nat) : Cluster :=
  let k := min n c.supring.length
  let room := 64 - (c.supring.length - k)
  { c with
    supring := c.supring.drop k ++ c.supWait.take room
    supWait := c.supWait.drop room
    supAt := (c.supAt + k) % 64 }

/-- SUPACK. -/
def execSupack (cluster n : Nat) (s : State) : Host.Outcome State Fault Refusal :=
  .next (s.served (if 1 ≤ n ∧ n ≤ 64 then s.onCluster cluster fun c => c.ack n else s))

end Sys2Proof.Machine
end

