-- ==== Sys2Proof/Machine/CopyJobs.lean ====
section
/-! DEFINITION. Copy jobs from their tickets to their ends, circular-buffer slots, collectives (11 R239, R245, R258,
13 R288 to R302, 12 R280, 18 R404 to R408). -/
namespace Sys2Proof.Machine

/-! ### Tickets of CPY, CPYM and COLL (13 R289, 18 R404, R408) -/

/-- The copy that a CPYM's MLDB waits for has ended. -/
def Tile.copyEnded (t : Tile) (id : Nat) (fault : Bool) : Tile :=
  { t with
    mx := t.mx.copyEnded id fault
    pre := t.pre.map fun p => { p with mx := p.mx.copyEnded id fault } }

/-- A place of the cluster's job queue: one that no job holds or whose job has ended. -/
def Cluster.jobPlace (c : Cluster) : Option Nat :=
  (List.range Config.jobEntries).find? fun k =>
    match look k c.jobs with
    | none => true
    | some j => j.st == .ended

/-- The tile's oldest copy enters the job queue, where a place is free; its result is its ticket. -/
def State.enterCopy (s : State) (tile : Nat) : State :=
  let c := s.cluster (clusterOf tile)
  match (s.tile tile).cpys.head?, c.jobPlace with
  | some x, some k =>
    match x.ticket with
    | some w =>
      let j : Job :=
        { seqNo := c.jobSeq, card := x.card, ticket := w, tid := tile, gid := (s.tile tile).gid32, id := x.id, st := .waiting
          attempt := 0, cbSlot := none, status := 0, src := (0, 0), dst := (0, 0), staged := none, written := false }
      let s := s.setCluster (clusterOf tile) { c with jobs := put k j c.jobs, jobSeq := c.jobSeq + 1 }
      s.onTile tile fun t => { t with cpys := t.cpys.filter fun y => y.id != x.id }.arrive 3 x.id (.ofScalar w) 0
    | none => s
  | _, _ => s

/-- A CPY or CPYM is accepted with its ticket, and then waits for a place of the job queue; with no FREE entry at the proxy
it has the null ticket and no job (18 R408). -/
def State.allocCopy (s : State) (tile : Nat) (x : CpySub) : State :=
  let (w, s) := s.engineTicket tile 2
  if w = 0 then
    s.onTile tile fun t =>
      ({ t with cpys := t.cpys.filter fun y => y.id != x.id }.copyEnded x.id true).arrive 3 x.id (.ofScalar w) 0
  else
    (s.onTile tile fun t =>
      { t with cpys := t.cpys.map fun y => if y.id = x.id then { y with ticket := some w } else y }).enterCopy tile

/-- A COLL is over: its DST holds again what lies under it. -/
def Tile.collOver (t : Tile) (x : CollSub) : Tile :=
  let others := t.colls.filter fun y => y.id != x.id
  { t with spm := x.restore others t.spm, colls := others }

/-- A COLL receives its ticket and its number; with the null ticket it is over, and is not counted. -/
def State.allocColl (s : State) (tile : Nat) (x : CollSub) : State :=
  let (w, s) := s.engineTicket tile 3
  s.onTile tile fun t =>
    let u :=
      if w = 0 then t.collOver x
      else
        { t with
          colls := t.colls.map fun y => if y.id = x.id then { y with ticket := some w, seqNo := t.collCount } else y
          collCount := t.collCount + 1 }
    u.arrive 2 x.id (.ofScalar w) 0

/-- TICKET_ALLOCATE: the tile's oldest copy or COLL that has no ticket yet, a copy that waits for the job queue, or an
LDT. -/
def execTicketAllocate (tile id : Nat) (s : State) : Host.Outcome State Fault Refusal :=
  let t := s.tile tile
  let copy := (t.cpys.find? fun x => x.ticket.isNone).filter fun x => x.id == id
  let coll := (t.colls.find? fun x => x.ticket.isNone).filter fun x => x.id == id
  .next (match copy, coll with
    | some x, _ => s.allocCopy tile x
    | none, some x => s.allocColl tile x
    | none, none => if t.cpys.any fun x => x.id == id then s.enterCopy tile else s.allocLoad tile id)

/-! ### The start of a job (13 R289, R290, R297, 09 R201, 15 R350) -/

def State.onJob (s : State) (c k : Nat) (j : Job) : State :=
  s.onCluster c fun x => { x with jobs := put k j x.jobs }

/-- Edges to the job have gone, and its tile's earlier stores to the map are performed. -/
def State.jobMayStart (s : State) (c : Cluster) (j : Job) : Bool :=
  !(c.jobs.any fun (_, i) => i.st != .ended && s.edge i j) &&
    !(s.tile j.tid).reqs.any fun r => decide (r.id < j.id) && r.kind.isStore &&
      r.lanes.any fun l => l.open_ && bitsN l.addr 60 4 == 0xE

/-- The gang of the job runs a revoked image. -/
def State.jobRevoked (s : State) (j : Job) : Bool := (s.env j.tid).revoked

/-- A slot claimed for a CB job. -/
def CBuf.claim (b : CBuf) : CBuf :=
  { b with free := b.free - 1, inflight := b.inflight + 1, claimAt := (b.claimAt + 1) % cbSlots b.desc }

/-- COPY_JOB_START. A queued job of a revoked image is discarded. -/
def execCopyJobStart (cluster slot : Nat) (s : State) : Host.Outcome State Fault Refusal :=
  let c := s.cluster cluster
  .next (match look slot c.jobs with
    | none => s
    | some j =>
      let b := (s.tile j.tid).cbuf j.card.buf
      let run := { j with
        st := .running
        src := handleAt s.dev.handles (bitsN j.card.sb 48 16)
        dst := handleAt s.dev.handles (bitsN j.card.db 48 16) }
      if j.st ≠ .waiting then s
      else if s.jobRevoked j then (s.onTile j.tid fun t => t.copyEnded j.id true).onJob cluster slot { j with st := .ended }
      else if !s.jobMayStart c j then s
      else if !j.card.cb then s.onJob cluster slot run
      else if b.free = 0 then s
      else
        (s.onTile j.tid fun t => t.setCbuf j.card.buf b.claim).onJob cluster slot { run with cbSlot := some b.claimAt })

/-! ### An attempt (13 R288, R291 to R294) -/

/-- An attempt under way: the module, the bytes written, the FCODE it has ended with, and a reduction's staged elements
by destination address. -/
structure Attempt where
  s : State
  bytes : Nat
  stop : Option (BitVec 8)
  staged : List (Int × List Byte)
  deriving DecidableEq, Repr

/-- One side of a job: where it stands, its base, its handle's entry, its regions relative to the base. -/
structure Side where
  oc : Bool
  base : W64
  entry : W64 × W64
  regions : List (Int × Nat)
  deriving DecidableEq, Repr

def Job.source (j : Job) : Side := ⟨j.card.srcOc, j.card.sb, j.src, j.card.reads⟩

/-- The destination: for a CB job its slot, with regions relative to the buffer. -/
def Job.dest (j : Job) (b : CBuf) : Side :=
  if j.card.cb then
    let off := j.cbSlot.getD 0 * cbSize b.desc
    ⟨true, BitVec.ofNat 64 (spmAddr j.tid (cbBase b.desc + off)), (0, 0), j.card.writes.map fun (o, n) => (o - off, n)⟩
  else ⟨j.card.dstOc, j.card.db, j.dst, j.card.writes⟩

/-- Every byte of an element lies in a region. -/
def Side.inPrint (x : Side) (o : Int) (n : Nat) : Bool :=
  (List.range n).all fun k => x.regions.any fun (lo, len) => decide (lo ≤ o + k) && decide (o + k < lo + len)

/-- The element is aligned to its size. -/
def Side.aligned (x : Side) (o : Int) (n : Nat) : Bool := ((x.base.toNat : Int) + o) % n == 0

/-- Where an element stands: in the map, in this device's HBM, or at a peer. -/
inductive Elem where
  | chip (l : Loc)
  | hbm (pa : Nat)
  | peer (dev pa : Nat)
  deriving DecidableEq, Repr

/-- The place of an element, or the FCODE of the access: 0x01 handle, 0x02 access, 0x08 address space. -/
def State.copyPlace (s : State) (m : Master) (x : Side) (write : Bool) (o : Int) (n : Nat) : Except (BitVec 8) Elem :=
  if x.oc then
    match spaceOf (BitVec.ofInt 64 (x.base.toNat + o)) with
    | .chip l =>
      match s.chipCheck m write l n with
      | some code => .error (if code = 0x10 then 0x08 else 0x02)
      | none => .ok (.chip l)
    | _ => .error 0x08
  else
    let off := (bitsN x.base 0 48 : Int) + o
    let pa := handleBase x.entry + off.toNat
    let right := x.entry.1.getLsbD (if write then 62 else 61)
    if x.entry.1.getLsbD 63 && right && decide (0 ≤ off) && decide (off + n ≤ handleSize x.entry) && decide (pa + n ≤ 2 ^ 40) then
      match handlePeer x.entry with
      | some d => .ok (.peer d pa)
      | none =>
        if !addressable pa n then .error 0x08 else if write && s.hashed pa n then .error 0x02 else .ok (.hbm pa)
    else .error 0x01

/-- The FCODE of the cause a peer answers: an error in its memory, an address that reaches none, a HASHH region, its refusal (09
R210). -/
def peerCode (code : BitVec 8) : BitVec 8 :=
  if code = 0x14 then 0x05 else if code = 0x10 then 0x08 else if code = 0x12 then 0x02 else 0x03

/-- An element read. -/
def State.copyRead (s : State) (m : Master) (x : Side) (o : Int) (n : Nat) : Except (BitVec 8) (List Byte) × State :=
  match s.copyPlace m x false o n with
  | .error code => (.error code, s)
  | .ok (.chip l) =>
    let (bs, bad) := s.chipRead l n
    (if bad then .error 0x05 else .ok bs, s)
  | .ok (.hbm pa) =>
    let (bs, bad, s) := s.readHbm pa n
    (if bad then .error 0x05 else .ok bs, s)
  | .ok (.peer d pa) =>
    if s.route d = .up then
      let (a, s) := s.peerRead pa n .read
      (match a with
        | .ok bs => .ok bs
        | .error code => .error (peerCode code), s)
    else (.error 0x03, s)

/-- The destination lies in a scratchpad of the job's own gang. -/
def State.ownScratch (s : State) (j : Job) (l : Loc) : Bool :=
  match l with
  | .tile tid off => decide (off < 0x40000) && (s.gang? j.gid.toNat).any fun g => g.tiles.contains tid
  | _ => false

/-- An element written; a write outside the gang's own scratchpads makes the task exposed first (08 R182). -/
def State.copyWrite (s : State) (j : Job) (m : Master) (x : Side) (o : Int) (bs : List Byte) : Option (BitVec 8) × State :=
  match s.copyPlace m x true o bs.length with
  | .error code => (some code, s)
  | .ok (.chip l) =>
    let s := if s.ownScratch j l then s else s.expose j.gid.toNat
    (none, match l with
      | .tile tid off => s.tileWrite tid off bs
      | _ => s)
  | .ok (.hbm pa) => (none, (s.expose j.gid.toNat).writeHbm pa bs)
  | .ok (.peer d pa) =>
    if s.route d = .up then
      match s.peerCause pa bs.length .store with
      | (none, s) => (none, s.expose j.gid.toNat)
      | (some code, s) => (some (peerCode code), s)
    else (some 0x03, s)

/-- One value of a reduction: dst op src, rounded to nearest even (13 R288, 06 R145). -/
def ropElem (rop : Nat) (t : Tag) (a b : Nat) : Nat × Flags :=
  match rop with
  | 1 => addElem t .rne a b
  | 2 => pickElem false t a b
  | 3 => pickElem true t a b
  | 4 => (Nat.land a b, 0)
  | 5 => (Nat.lor a b, 0)
  | _ => (Nat.xor a b, 0)

/-- The values of an element reduced. -/
def Card.reduce (c : Card) (dst src : List Byte) : List Byte :=
  let w := c.rfmt.width.getD 8
  let n := 8 * c.esize
  let d := elems (BitVec.ofNat n (ofBytes dst)) w
  let s := elems (BitVec.ofNat n (ofBytes src)) w
  bytesOf c.esize (packRow w ((d.zip s).map fun (a, b) => (ropElem c.rop c.rfmt a b).1))

def Attempt.fail (a : Attempt) (code : BitVec 8) : Attempt := { a with stop := some code }

/-- A staged element replaced, or put behind the others. -/
def stage (o : Int) (bs : List Byte) : List (Int × List Byte) → List (Int × List Byte)
  | [] => [(o, bs)]
  | (p, x) :: l => if p = o then (o, bs) :: l else (p, x) :: stage o bs l

/-- One iteration: an element copied from one offset to the other, or staged. -/
def Attempt.iter (j : Job) (m : Master) (src dst : Side) (so do_ : Int) (a : Attempt) : Attempt :=
  let n := j.card.esize
  if a.stop.isSome then a
  else if !(src.inPrint so n && dst.inPrint do_ n) then a.fail 0x04
  else if !(src.aligned so n && dst.aligned do_ n) then a.fail 0x07
  else
    match a.s.copyRead m src so n with
    | (.error code, s) => { a with s := s }.fail code
    | (.ok bs, s) =>
      if j.card.rop = 0 then
        match s.copyWrite j m dst do_ bs with
        | (some code, s) => { a with s := s }.fail code
        | (none, s) => { a with s := s, bytes := a.bytes + n }
      else
        match a.staged.find? fun (p, _) => p == do_ with
        | some (_, old) => { a with s := s, staged := stage do_ (j.card.reduce old bs) a.staged }
        | none =>
          match s.copyRead m dst do_ n with
          | (.error code, s) => { a with s := s }.fail code
          | (.ok old, s) =>
            match s.copyPlace m dst true do_ n with
            | .error code => { a with s := s }.fail code
            | .ok _ => { a with s := s, staged := stage do_ (j.card.reduce old bs) a.staged }

/-- The bounds of a level: the whole count, or the clip box. -/
def Card.bounds (c : Card) (l : Nat) : Int × Int :=
  if c.clip then (nestLo c.nest l, nestHi c.nest l) else (0, nestCount c.nest l)

/-- The iterations of levels l - 1 to 0, in lexicographic order. -/
def Card.iterate {α : Type} (c : Card) (f : Int → Int → α → α) : Nat → Int → Int → α → α
  | 0, so, do_, a => f so do_ a
  | l + 1, so, do_, a =>
    let (lo, hi) := c.bounds l
    (List.range (hi - lo).toNat).foldl (fun a (k : Nat) =>
      Card.iterate c f l (so + (lo + k) * nestSrc c.nest l) (do_ + (lo + k) * nestDst c.nest l) a) a

/-- The staged values of a reduction committed as plain writes. -/
def Attempt.commit (j : Job) (m : Master) (dst : Side) (a : Attempt) : Attempt :=
  if a.stop.isSome then a
  else
    a.staged.foldl (fun a (o, bs) =>
      if a.stop.isSome then a
      else
        match a.s.copyWrite j m dst o bs with
        | (some code, s) => { a with s := s }.fail code
        | (none, s) => { a with s := s, bytes := a.bytes + bs.length }) { a with staged := [] }

/-- An attempt: a copy whole, or a reduction up to its staging. -/
def State.attempt (s : State) (cluster : Nat) (j : Job) : Attempt :=
  let m := Master.copy cluster j.tid
  j.card.iterate (Attempt.iter j m j.source (j.dest ((s.tile j.tid).cbuf j.card.buf))) 6 0 0 ⟨s, 0, none, []⟩

/-- The commit of a reduction's staged values. -/
def State.commitJob (s : State) (cluster : Nat) (j : Job) (staged : List (Int × List Byte)) : Attempt :=
  Attempt.commit j (.copy cluster j.tid) (j.dest ((s.tile j.tid).cbuf j.card.buf)) ⟨s, 0, none, staged⟩

/-! ### The end of a job (13 R293 to R297, 11 R258) -/

/-- The clip box left an iteration unperformed. -/
def Card.clipped (c : Card) : Bool :=
  let all := ((List.range 6).map (nestCount c.nest)).foldl (· * ·) 1
  let done := ((List.range 6).map fun l => (nestHi c.nest l - nestLo c.nest l).toNat).foldl (· * ·) 1
  c.clip && decide (done < all)

/-- The clip notice. -/
def Job.notice (j : Job) (devid : Nat) : Msg :=
  let n := j.card.nest
  ⟨msgHeader 1 8 devid 0 j.tid,
    j.ticket :: ((List.range 6).map fun l =>
      (BitVec.ofInt 32 (nestHi n l) ++ BitVec.ofInt 32 (nestLo n l) : W64)) ++ [0]⟩

/-- The status word of an engine's ticket (11 R258). -/
def engineWord (fcode : Option (BitVec 8)) (clip : Bool) (bytes : Nat) : W64 :=
  let code := (fcode.getD 0).toNat
  let st := if code = 0 then 0 else if code = 5 then 2 else 1
  BitVec.ofNat 64 (st <<< 60 + code <<< 52 + (if clip then 2 ^ 51 else 0) + bytes % 2 ^ 48)

/-- The job's slot has ended; FILLED follows in ring order. -/
def CBuf.endSlot (b : CBuf) (slot : Option Nat) : CBuf :=
  match slot with
  | some k => { b with ended := b.ended ++ [k] }
  | none => b

/-- The clip notice of a job waits for room in the inbox of its tile (13 R305). -/
def State.noticeWaits (s : State) (j : Job) : Bool :=
  j.card.clipped && (s.tile j.tid).resident && (s.tile j.tid).inboxFull

/-- The job's end: its notice, its slot, its ticket. -/
def State.jobEnd (s : State) (cluster slot : Nat) (j : Job) (w : W64) : State :=
  let s :=
    if !j.card.clipped then s
    else if (s.tile j.tid).resident then s.inboxTake j.tid (j.notice s.dev.devid.toNat)
    else s.onTile j.tid fun t => { t with disc := t.disc + 1 }
  let s := s.onTile j.tid fun t => if j.card.cb then t.setCbuf j.card.buf ((t.cbuf j.card.buf).endSlot j.cbSlot) else t
  (s.onJob cluster slot { j with st := .ended, status := w }).engineDone j.ticket w

/-- A job has written what it will write, or has failed: its follow-ons go on at once (12 R280), and it ends, or waits for its
notice (13 R295). -/
def State.jobDone (s : State) (cluster slot : Nat) (j : Job) (a : Attempt) : State :=
  let w := engineWord a.stop j.card.clipped a.bytes
  let s := s.onTile j.tid fun t => t.copyEnded j.id a.stop.isSome
  if s.noticeWaits j then s.onJob cluster slot { j with status := w, written := true } else s.jobEnd cluster slot j w

/-- COPY_JOB_END: one attempt of a running job, a reduction's in two steps: what it reads and computes, and its commit. A
memory error abandons the attempt, and the job runs again up to three times; a job that waits for its notice ends. -/
def execCopyJobEnd (cluster slot : Nat) (s : State) : Host.Outcome State Fault Refusal :=
  .next (match look slot (s.cluster cluster).jobs with
    | none => s
    | some j =>
      if j.st ≠ .running then s
      else if j.written then (if s.noticeWaits j then s else s.jobEnd cluster slot j j.status)
      else
        match j.staged with
        | some l => let a := s.commitJob cluster j l; a.s.jobDone cluster slot j a
        | none =>
          let a := s.attempt cluster j
          if a.stop = some 0x05 ∧ j.attempt < 3 then a.s.onJob cluster slot { j with attempt := j.attempt + 1 }
          else if j.card.rop ≠ 0 ∧ a.stop = none then a.s.onJob cluster slot { j with staged := some a.staged }
          else a.s.jobDone cluster slot j a)

/-- CB_SLOT_FILLED: the next slot in ring order, when its job has ended. WAITs see it before the TAKEs that wait. -/
def execCbSlotFilled (tile buf : Nat) (s : State) : Host.Outcome State Fault Refusal :=
  let b := (s.tile tile).cbuf buf
  .next (if b.ended.contains b.fillAt then
    let s := s.onTile tile fun t => t.setCbuf buf { b with
      ended := b.ended.erase b.fillAt
      inflight := b.inflight - 1
      filled := b.filled + 1
      fillAt := (b.fillAt + 1) % cbSlots b.desc }
    (s.waitsNow tile).onTile tile fun t => Tile.cbServe t.takes.length buf t
  else s)

/-! ### Collectives (13 R299 to R302, 18 R404) -/

/-- A member's oldest COLL that has its ticket. -/
def Tile.headColl (t : Tile) : Option CollSub := t.colls.head?.filter fun x => x.ticket.isSome

/-- The source stands: the member's earlier stores to the map are performed. -/
def Tile.collReady (t : Tile) (x : CollSub) : Bool :=
  !t.reqs.any fun r => decide (r.id < x.id) && r.kind.isStore && r.lanes.any fun l => l.open_ && bitsN l.addr 60 4 == 0xE

/-- The cards agree in what R302 names: doubles 0 and 1 and the device list. -/
def CollSub.agrees (x y : CollSub) : Bool :=
  vget 0 x.card 0 == vget 0 y.card 0 && vget 0 x.card 1 == vget 0 y.card 1 && x.devs == y.devs

/-- Device `d` of the list. -/
def CollSub.dev (x : CollSub) (d : Nat) : Nat := (x.devs.extractLsb' (32 * d) 32).toNat

/-- The list positions of other devices. -/
def CollSub.others (x : CollSub) (devid : Nat) : List Nat :=
  if collPeer x.card then (List.range (collDevs x.card)).filter fun d => x.dev d != devid else []

/-- This device's place in the list. -/
def CollSub.mine (x : CollSub) (devid : Nat) : Nat :=
  if collPeer x.card then ((List.range (collDevs x.card)).find? fun d => x.dev d == devid).getD 0 else 0

/-- What the fabric and the other devices bring: their participants' blocks, or a refusal (0x03), a card of theirs that differs
(0x06) or an uncorrectable error of theirs (0x05, 18 R404); all of it is free (log 5). A device without the R and W rights of this device's peer table is refused
here (13 R301). -/
def State.collPeers (s : State) (x : CollSub) (n : Nat) : Except (BitVec 8) (List (Nat × List Byte)) × State :=
  let ds := x.others s.dev.devid.toNat
  if ds.isEmpty then (.ok [], s)
  else if ds.any fun d => s.route (x.dev d) != .up || !s.peerRight (x.dev d) 61 || !s.peerRight (x.dev d) 62 then (.error 0x03, s)
  else
    let (ok, s) := s.freeBit
    let (w, s) := s.freeWord
    let code := if bitsN w 0 2 = 0 then 0x05 else if bitsN w 0 2 = 1 then 0x06 else 0x03
    let (l, s) := ds.foldl (fun (l, s) d =>
      let (bs, s) := s.freeBytes (n * collSrcLen x.card n)
      (l ++ [(d, bs)], s)) (([], s) : List (Nat × List Byte) × State)
    (if ok then .ok l else .error code, s)

/-- The participants' sources, in participant order. -/
def collSources (x : CollSub) (n mine : Nat) (own : List (List Byte)) (others : List (Nat × List Byte)) : List (List Byte) :=
  let len := collSrcLen x.card n
  (List.range (collParts x.card n / n)).flatMap fun d =>
    match look d others with
    | some bs => (List.range n).map fun r => (bs.drop (len * r)).take len
    | none => if d = mine then own else List.replicate n (List.replicate len 0)

/-- A list cut into blocks of `n` bytes. -/
def blocks (n k : Nat) (bs : List Byte) : List (List Byte) := (List.range k).map fun i => (bs.drop (n * i)).take n

/-- The merged block of CK 0 and 1: R145's tree over the L partials of every element. -/
def collMerge (x : CollSub) (n : Nat) (srcs : List (List Byte)) : List Byte :=
  let f := collFmt x.card
  let w := f.width.getD 8
  let k := collL x.card / collParts x.card n
  let parts := srcs.flatMap (blocks (collBlock x.card) k)
  (List.range (collN x.card)).flatMap fun e =>
    let vals := parts.map fun p => ofBytes ((p.drop (w / 8 * e)).take (w / 8))
    bytesOf (w / 8) (BitVec.ofNat w (mergeTree (ropElem (collRop x.card) f) 0 13 vals).1)

/-- What participant `p` writes at its DST. -/
def collResult (x : CollSub) (n p : Nat) (srcs : List (List Byte)) : List Byte :=
  match collKind x.card with
  | 0 => if p = collRoot x.card then collMerge x n srcs else []
  | 1 => collMerge x n srcs
  | 2 => srcs.flatten
  | _ => (srcs[collRoot x.card]?).getD []

/-- A participant's COLL ends with a status word, and with what the collective writes. -/
def State.collEnd (s : State) (tile : Nat) (x : CollSub) (bs : List Byte) (w : W64) : State :=
  (s.onTile tile fun t => if bs.isEmpty then t.collOver x else (t.collOver x).spmWrite (collDst x.card) bs).engineDone
    (x.ticket.getD 0) w

/-- Every participant's COLL ends with an FCODE, and no destination changes. -/
def State.collFail (s : State) (ps : List (Nat × CollSub)) (code : BitVec 8) : State :=
  ps.foldl (fun s (m, y) => s.collEnd m y [] (engineWord (some code) false 0)) s

/-- An element of SRC, as it stood at the trigger or as it stands now (18 R404): which one is free where they differ. -/
def State.collElems (s : State) (n : Nat) : List (List Byte) → List (List Byte) → List Byte × State
  | a :: as_, b :: bs =>
    let (pick, s) := if a = b then (false, s) else s.freeBit
    let (rest, s) := State.collElems s n as_ bs
    ((if pick then b else a) ++ rest, s)
  | _, _ => ([], s)

/-- What a participant supplies. A DST that is the SRC holds the source under it. -/
def State.collSource (s : State) (m : Nat) (x : CollSub) (len : Nat) : List Byte × State :=
  let w := (collFmt x.card).width.getD 8 / 8
  let spm := (s.tile m).spm
  let now := (if collDst x.card = collSrc x.card then x.restore [] spm else spm).read (collSrc x.card) len
  s.collElems w (blocks w (len / w) x.early) (blocks w (len / w) now)

/-- The collective of participants that have agreed: sources merged, results written. -/
def State.collRun (s : State) (ps : List (Nat × CollSub)) (x : CollSub) : State :=
  let n := ps.length
  let (other, s) := s.collPeers x n
  match other with
  | .error code => s.collFail ps code
  | .ok l =>
    let mine := x.mine s.dev.devid.toNat
    let (own, s) := ps.foldl (fun (own, s) (m, y) =>
      let (bs, s) := s.collSource m y (collSrcLen y.card n); (own ++ [bs], s)) (([], s) : List (List Byte) × State)
    let srcs := collSources x n mine own l
    ps.zipIdx.foldl (fun s ((m, y), r) =>
      let bs := collResult x n (mine * n + r) srcs
      s.collEnd m y bs (engineWord none false bs.length)) s

/-- The next collective of a gang: the members whose oldest COLL has the lowest number, with those COLLs. -/
def State.collNext (s : State) (ms : List Nat) : List (Nat × CollSub) :=
  let hs := ms.filterMap fun m => (s.tile m).headColl.map fun x => (m, x)
  match (hs.map fun (_, x) => x.seqNo).min? with
  | some k => hs.filter fun (_, x) => x.seqNo == k
  | none => []

/-- COLLECTIVE_COMPLETE: the next collective of gang `index`, once every member has come to it. A member released
without it, or cards that differ, give every ticket FCODE 0x06. One that includes other devices, whatever it comes to, exposes
the task (18 R404). -/
def execCollectiveComplete (index : Nat) (s : State) : Host.Outcome State Fault Refusal :=
  .next (match s.gang? index with
    | none => s
    | some g =>
      let ms := s.members g
      match s.collNext ms with
      | [] => s
      | (m, x) :: ps =>
        let all := (m, x) :: ps
        let bad := all.any fun (m, y) => (s.tile m).spmBad (collSrc y.card) (collSrcLen y.card ms.length)
        let shown := if all.any fun (_, y) => !(y.others s.dev.devid.toNat).isEmpty then s.expose index else s
        if !all.all fun (m, y) => (s.tile m).collReady y then s
        else if ms.length ≠ 2 ^ g.log2n then shown.collFail all 0x06
        else if all.length ≠ ms.length then s
        else if !ps.all fun (_, y) => x.agrees y then shown.collFail all 0x06
        else if bad then shown.collFail all 0x05
        else shown.collRun all x)

end Sys2Proof.Machine
end

