-- ==== Sys2Proof/Machine/Power.lean ====
section
/-! DEFINITION. Power, clocks and memory reliability (01 R22, 16 R365 to R372). -/
namespace Sys2Proof.Machine

def State.onRow (s : State) (r : Nat) (f : VRow → VRow) : State := s.setRow r (f (s.row r))

/-- Every tile of a voltage row that is listed changed; only such a tile has an interval running. -/
def State.onRowTiles (s : State) (r : Nat) (f : Tile → Tile) : State :=
  { s with tiles := s.tiles.map fun (k, t) => (k, if rowOfTile k = r then f t else t) }

/-! ### The Weir (16 R366) -/

/-- A disabled cycle goes by on each tile of the row that has one next: its WAITs that hold complete first, and its intervals are
counted down (16 R366, R369, 21 R496). -/
def State.passDisabled (s : State) (row : Nat) : State :=
  (s.tiles.filter fun (k, t) => rowOfTile k == row && decide (t.weir < 64) && t.weir % 2 == 1).foldl
    (fun s (k, _) => (s.waitsNow k).onTile k Tile.passDisabled) s

/-- WEIR_ALARM: the row's supply is below THRESH, as none is below a THRESH of 0. Ignored in the six stretched cycles, the last of
which is over once a running tile has had its first halved one; else the response starts, or starts again, for every tile of
the row: 70 cycles (log 45). An alarm within the halved cycles may come in an executed cycle or in the disabled one behind it,
which has then gone by: which, is free (log 5). -/
def execWeirAlarm (row : Nat) (s : State) : Host.Outcome State Fault Refusal :=
  let r := s.row row
  .next (if (r.weir ≠ .idle ∧ s.weirLeft row 63 = false) ∨ r.thresh = 0 then s
    else
      let (gone, s) := if r.weir = .idle then (false, s) else s.freeBit
      let s := if gone then s.passDisabled row else s
      let s := s.setRow row { r with weir := .stretch, alarms := if r.alarms = 0xFFFF then r.alarms else r.alarms + 1 }
      (rowTiles row).foldl (fun s k => s.onTile k fun t => { t with weir := 70 }) s)

/-- WEIR_STRETCH_END: the six stretched cycles have gone by. -/
def execWeirStretchEnd (row : Nat) (s : State) : Host.Outcome State Fault Refusal :=
  .next (if (s.row row).weir = .stretch ∧ s.weirLeft row 64 = true then
      (s.onRow row fun r => { r with weir := .halve }).onRowTiles row fun t => { t with weir := min t.weir 64 }
    else s)

/-- WEIR_HALVE_END: the 64 halved cycles have gone by; the last, disabled one goes by with the next executed cycle where
it has not yet. -/
def execWeirHalveEnd (row : Nat) (s : State) : Host.Outcome State Fault Refusal :=
  .next (if (s.row row).weir = .halve ∧ s.weirLeft row 1 = true then
      ((s.passDisabled row).onRow row fun r => { r with weir := .idle }).onRowTiles row fun t => { t with weir := 0 }
    else s)

/-! ### The power controller (16 R367) -/

/-- A throttle notice: at most 64 are held, the oldest replaced; the ones held move down, and the new one stands last (log 114). -/
def Cluster.throttle (c : Cluster) (x : Throttle) : Cluster :=
  if c.throt.length < 64 then { c with throt := c.throt ++ [x] }
  else { c with throt := c.throt.drop 1 ++ [x], throtOvf := true }

/-- A withholding, or the withdrawal of a boost, with its notice (08 R179). -/
def State.throttleRow (s : State) (r : Nat) (withhold thermal : Bool) : State :=
  let x := s.row r
  let boosted := decide (700 < x.grant)
  let held := withhold && !x.withheld
  let s := s.setRow r { x with grant := 700, withheld := x.withheld || withhold }
  if boosted || held then
    let what := r % 16 + (if held then 256 else 0) + (if boosted then 512 else 0) + (if thermal then 1024 else 0)
    s.onCluster (r / 16) fun c => c.throttle ⟨BitVec.ofNat 64 s.ns, BitVec.ofNat 64 what⟩
  else s

/-- The current-limit test of this interval of 100 µs, one for the whole module: whether its draw passed the limit is free
(log 5). -/
def State.limitTest (s : State) : Bool × State :=
  let k := s.ns / 100000
  match s.power with
  | some (n, b) => if n = k then (b, s) else
    let (b, s) := s.freeBit
    (b, { s with power := some (k, b) })
  | none =>
    let (b, s) := s.freeBit
    (b, { s with power := some (k, b) })

/-- A row boosted by up to four steps of 35 MHz; what is granted already is not withdrawn. -/
def VRow.boost (r : VRow) (steps : Nat) : VRow :=
  { r with withheld := false, grant := max r.grant (700 + 35 * (steps % 5)) }

/-- POWER_INTERVAL: the controller's decision on a voltage row. What its sensors and its estimate say is free (log 5):
the current limit passed, this row then one of those withheld; the row too hot; headroom for a boost, and of how many
steps. -/
def execPowerInterval (row : Nat) (s : State) : Host.Outcome State Fault Refusal :=
  let (limit, s) := s.limitTest
  let (hot, s) := s.freeBit
  let (top, s) := s.freeBit
  let (room, s) := s.freeBit
  let (steps, s) := s.freeWord
  .next (if limit then
      let s := s.rows.foldl (fun s (r, _) => s.throttleRow r false false) s
      if top then s.throttleRow row true false else s
    else if hot then s.throttleRow row true true
    else s.onRow row fun r => if room then r.boost steps.toNat else { r with withheld := false })

/-- TILE_CLOCK_CHANGE: the row takes the clock granted to it; running intervals are rescaled (16 R369). -/
def execTileClockChange (row mhz : Nat) (s : State) : Host.Outcome State Fault Refusal :=
  let r := s.row row
  .next (if mhz = r.grant ∧ mhz ≠ r.mhz then
      (s.setRow row { r with mhz := mhz }).onRowTiles row fun t => t.rescale fun n => (n * mhz + r.mhz - 1) / r.mhz
    else s)

/-! ### Memory reliability (16 R371, R372) -/

/-- MEMORY_SCRUB: a row read and corrected; which row, and whether it had an error that no read has met, is free (log 5). -/
def execMemoryScrub (slice : Nat) (s : State) : Host.Outcome State Fault Refusal :=
  let (err, s) := s.freeBit
  let (w, s) := s.freeWord
  let row := bitsN w 0 32
  let found := (s.softRow slice row).length
  let s := (s.onSlice slice fun x => { x with scrubbed := x.scrubbed + 1 }).cleanRow slice row
  .next ((List.range (if found = 0 ∧ err = true then 1 else found)).foldl (fun s _ => s.corrected slice row) s)

def RowScore.half (r : RowScore) : RowScore := { r with score := r.score / 2 }

/-- SCORE_HALVING. -/
def execScoreHalving (slice : Nat) (s : State) : Host.Outcome State Fault Refusal :=
  let x := s.slice slice
  let y := { x with scores := (x.scores.map RowScore.half).filter fun r => r.score != 0 }
  .next (y.scores.foldl (fun s r => s.remapRow slice r.row) (s.setSlice slice y))

end Sys2Proof.Machine
end

