-- ==== Sys2Proof/Machine/Boundary.lean ====
section
/-! DEFINITION. Die boundaries and fabric links: flits, retrains, streams and ports (01 R17, 16 R354 to R359). -/
namespace Sys2Proof.Machine

def State.onModule (s : State) (b m : Nat) (f : Module → Module) : State := s.setModule b m (f (s.module b m))

/-! ### Streams (16 R355) -/

/-- The module can carry a moved stream. -/
def Module.offers (x : Module) : Bool := !x.rt && x.width != 3 && x.xstream == 0xFF

/-- The module carries nothing now: it retrains or is out of service. -/
def Module.down (x : Module) : Bool := x.rt || x.width == 3

/-- The next module in ascending order from `m` + 1, wrapping, that can carry a moved stream. -/
def State.nextModule (s : State) (b m : Nat) : Option Nat :=
  ((List.range 47).map fun k => (m + 1 + k) % 48).find? fun n => (s.module b n).offers

/-- The streams that stand at a module that is down move, where another can take them: its own, and a moved one. -/
def State.moveStreams (s : State) (b m : Nat) : State :=
  let own := fun s : State =>
    if (s.module b m).stream = 0xFF then s
    else
      match s.nextModule b m with
      | some n =>
        (s.onModule b m fun x => { x with stream := 0xFF }).onModule b n fun x => { x with xstream := BitVec.ofNat 8 m }
      | none => s
  let moved := fun s : State =>
    let v := (s.module b m).xstream
    if v = 0xFF then s
    else
      match s.nextModule b m with
      | some n =>
        (s.onModule b m fun x => { x with xstream := 0xFF }).onModule b n fun x => { x with xstream := v }
      | none => s
  if (s.module b m).down then moved (own s) else s

/-- Every stream that waits at a module that is down. -/
def State.settle (s : State) (b : Nat) : State := (List.range 48).foldl (fun s m => s.moveStreams b m) s

/-- A module back in service has its own stream again. -/
def State.returnStream (s : State) (b m : Nat) : State :=
  ((List.range 48).foldl (fun s n => s.onModule b n fun x =>
    if x.xstream = BitVec.ofNat 8 m then { x with xstream := 0xFF } else x) s).onModule b m fun x =>
      { x with stream := BitVec.ofNat 8 m }

/-! ### Lanes (16 R354, R356) -/

/-- Faulty lanes of a half. -/
def Module.badIn (x : Module) (half : Nat) : Nat := (x.bad.filter fun l => l / 32 % 2 == half).length

/-- Two redundant lanes for each half. -/
def Module.repairs (x : Module) : Nat := min 2 (x.badIn 0) + min 2 (x.badIn 1)

/-- The width after a retrain. -/
def Module.trained (x : Module) : Nat :=
  if x.badIn 0 ≤ 2 then (if x.badIn 1 ≤ 2 then 0 else 1) else if x.badIn 1 ≤ 2 then 2 else 3

/-- A retrain starts: its streams move. -/
def State.retrain (s : State) (b m : Nat) : State :=
  if (s.module b m).rt then s
  else (s.onModule b m fun x => { x with rt := true, retrain := x.retrain + 1, streak := 0 }).settle b

/-! ### Events -/

/-- FLIT_CRC_FAIL: the flit and the later ones of its stream are replayed; how many those are, and whether it is the
flit that failed last, is free (log 5). A flit's third failure in a row retrains the module. A module that is down carries
no flit. -/
def execFlitCrcFail (boundary module : Nat) (s : State) : Host.Outcome State Fault Refusal :=
  .next (if (s.module boundary module).down then s
    else
      let (later, s) := s.freeWord
      let (same, s) := s.freeBit
      let n := if same then (s.module boundary module).streak + 1 else 1
      let s := s.onModule boundary module fun x => { x with
        crcerr := x.crcerr + 1
        replay := x.replay + 1 + later
        streak := n }
      if 3 ≤ n then s.retrain boundary module else s)

/-- MODULE_RETRAIN: a lane, a free one, is flagged faulty, which a redundant lane of its half replaces while there is one. -/
def execModuleRetrain (boundary module : Nat) (s : State) : Host.Outcome State Fault Refusal :=
  let x := s.module boundary module
  .next (if x.rt then s
    else
      let (w, s) := s.freeWord
      let lane := bitsN w 0 6
      let y := { x with bad := if x.bad.contains lane then x.bad else lane :: x.bad }
      let s := s.setModule boundary module { y with repaired := y.repairs }
      if y.badIn (lane / 32) ≤ 2 then s else s.retrain boundary module)

/-- RETRAIN_COMPLETE. -/
def execRetrainComplete (boundary module : Nat) (s : State) : Host.Outcome State Fault Refusal :=
  .next (if (s.module boundary module).rt then
      let s := s.onModule boundary module fun x => { x with rt := false, width := x.trained, repaired := x.repairs }
      let s := if (s.module boundary module).width = 3 then s else s.returnStream boundary module
      s.settle boundary
    else s)

/-- BOUNDARY_RETRAIN_CMD: the modules of a mask are commanded to retrain. -/
def execBoundaryRetrainCmd (boundary mask : Nat) (s : State) : Host.Outcome State Fault Refusal :=
  .next (s.served ((List.range 48).foldl (fun s m => if mask.testBit m then s.retrain boundary m else s) s))

/-! ### Syash ports (16 R358, R359, R361) -/

def State.onPort (s : State) (p : Nat) (f : SyPort → SyPort) : State :=
  { s with dev := { s.dev with ports := vput s.dev.ports p (f (vget .reset s.dev.ports p)) } }

/-- SYASH_PORT_STATE_CHANGE: down, training, up; only port 0 may be a host port. -/
def execSyashPortStateChange (port state : Nat) (s : State) : Host.Outcome State Fault Refusal :=
  .next (if state < 3 ∨ (state = 3 ∧ port = 0) then s.onPort port fun p => { p with state := state } else s)

/-- SYASH_LINK_RETRY. -/
def execSyashLinkRetry (port : Nat) (s : State) : Host.Outcome State Fault Refusal :=
  .next (s.onPort port fun p => { p with crcerr := p.crcerr + 1, retry := p.retry + 1 })

end Sys2Proof.Machine
end

