-- ==== Sys2Proof/Machine/ExecAccess.lean ====
section
/-! DEFINITION. The meanings of the operations of AU (chapters 05, 09 to 11): a bundle of one move on the current tile. -/
namespace Sys2Proof.Machine

/-- LD_B (R431). AU load of a sign-extended byte at T. -/
def execLdB (h : Head) (e : Bool) (s : State) : Host.Outcome State Fault Refusal :=
  .next (s.runMove h (.trig (ldBSpec e)))

/-- LD_H (R431). AU load of a sign-extended half at T. -/
def execLdH (h : Head) (e : Bool) (s : State) : Host.Outcome State Fault Refusal :=
  .next (s.runMove h (.trig (ldHSpec e)))

/-- LD_W (R431). AU load of a sign-extended word at T. -/
def execLdW (h : Head) (e : Bool) (s : State) : Host.Outcome State Fault Refusal :=
  .next (s.runMove h (.trig (ldWSpec e)))

/-- LD_D (R431). AU load of a double at T. -/
def execLdD (h : Head) (e : Bool) (s : State) : Host.Outcome State Fault Refusal :=
  .next (s.runMove h (.trig (ldDSpec e)))

/-- LD_BZ (R431). AU load of a zero-extended byte at T. -/
def execLdBz (h : Head) (e : Bool) (s : State) : Host.Outcome State Fault Refusal :=
  .next (s.runMove h (.trig (ldBzSpec e)))

/-- LD_HZ (R431). AU load of a zero-extended half at T. -/
def execLdHz (h : Head) (e : Bool) (s : State) : Host.Outcome State Fault Refusal :=
  .next (s.runMove h (.trig (ldHzSpec e)))

/-- LD_WZ (R431). AU load of a zero-extended word at T. -/
def execLdWz (h : Head) (e : Bool) (s : State) : Host.Outcome State Fault Refusal :=
  .next (s.runMove h (.trig (ldWzSpec e)))

/-- ST_B (R467). AU store of a byte of O0[e] at T. -/
def execStB (h : Head) (e : Bool) (s : State) : Host.Outcome State Fault Refusal :=
  .next (s.runMove h (.trig (stBSpec e)))

/-- ST_H (R467). AU store of a half of O0[e] at T. -/
def execStH (h : Head) (e : Bool) (s : State) : Host.Outcome State Fault Refusal :=
  .next (s.runMove h (.trig (stHSpec e)))

/-- ST_W (R467). AU store of a word of O0[e] at T. -/
def execStW (h : Head) (e : Bool) (s : State) : Host.Outcome State Fault Refusal :=
  .next (s.runMove h (.trig (stWSpec e)))

/-- ST_D (R467). AU store of a double of O0[e] at T. -/
def execStD (h : Head) (e : Bool) (s : State) : Host.Outcome State Fault Refusal :=
  .next (s.runMove h (.trig (stDSpec e)))

/-- ST_D_REL (R229). AU releasing double store: release steps, publication, then a direct unlogged store. -/
def execStDRel (h : Head) (e : Bool) (s : State) : Host.Outcome State Fault Refusal :=
  .next (s.runMove h (.trig (stDRelSpec e)))

/-- VLD (R485). AU load of a 128-byte row, or 140-byte BFM image, tagged by O0[e]. -/
def execVld (h : Head) (e : Bool) (s : State) : Host.Outcome State Fault Refusal :=
  .next (s.runMove h (.trig (vldSpec e)))

/-- VST (R494). AU store of the row in O1[e], with BFM scales when tagged BFMm. -/
def execVst (h : Head) (e : Bool) (s : State) : Host.Outcome State Fault Refusal :=
  .next (s.runMove h (.trig (vstSpec e)))

/-- GLD (R425). AU gathered load of up to 32 lanes from base T plus shifted indices. -/
def execGld (h : Head) (e : Bool) (s : State) : Host.Outcome State Fault Refusal :=
  .next (s.runMove h (.trig (gldSpec e)))

/-- SCT (R456). AU scattered store of data-row lanes at base T plus shifted indices. -/
def execSct (h : Head) (e : Bool) (s : State) : Host.Outcome State Fault Refusal :=
  .next (s.runMove h (.trig (sctSpec e)))

/-- LDT (R244). AU issues an 8-byte load ticket for the address in T. -/
def execLdt (h : Head) (e : Bool) (s : State) : Host.Outcome State Fault Refusal :=
  .next (s.runMove h (.trig (ldtSpec e)))

/-- LDT_V (R244). AU issues a 128-byte load ticket for the line at T. -/
def execLdtV (h : Head) (e : Bool) (s : State) : Host.Outcome State Fault Refusal :=
  .next (s.runMove h (.trig (ldtVSpec e)))

/-- RDM (R450). AU redeems the ticket in T and delivers its value on the result port. -/
def execRdm (h : Head) (e : Bool) (s : State) : Host.Outcome State Fault Refusal :=
  .next (s.runMove h (.trig (rdmSpec e)))

/-- RDM_S (R450). AU redeems the ticket in T into the scratchpad at O0[e]. -/
def execRdmS (h : Head) (e : Bool) (s : State) : Host.Outcome State Fault Refusal :=
  .next (s.runMove h (.trig (rdmSSpec e)))

/-- TKQ (R473). AU queries the class of a ticket without changing it. -/
def execTkq (h : Head) (e : Bool) (s : State) : Host.Outcome State Fault Refusal :=
  .next (s.runMove h (.trig (tkqSpec e)))

/-- TKX (R474). AU classifies and cancels a ticket. -/
def execTkx (h : Head) (e : Bool) (s : State) : Host.Outcome State Fault Refusal :=
  .next (s.runMove h (.trig (tkxSpec e)))

/-- AMO_ADD (R391). Relaxed atomic add at the double T. -/
def execAmoAdd (h : Head) (e : Bool) (s : State) : Host.Outcome State Fault Refusal :=
  .next (s.runMove h (.trig (amoAddSpec e)))

/-- AMO_MIN (R391). Relaxed atomic minimum at the double T. -/
def execAmoMin (h : Head) (e : Bool) (s : State) : Host.Outcome State Fault Refusal :=
  .next (s.runMove h (.trig (amoMinSpec e)))

/-- AMO_MAX (R391). Relaxed atomic maximum at the double T. -/
def execAmoMax (h : Head) (e : Bool) (s : State) : Host.Outcome State Fault Refusal :=
  .next (s.runMove h (.trig (amoMaxSpec e)))

/-- AMO_AND (R391). Relaxed atomic and at the double T. -/
def execAmoAnd (h : Head) (e : Bool) (s : State) : Host.Outcome State Fault Refusal :=
  .next (s.runMove h (.trig (amoAndSpec e)))

/-- AMO_OR (R391). Relaxed atomic or at the double T. -/
def execAmoOr (h : Head) (e : Bool) (s : State) : Host.Outcome State Fault Refusal :=
  .next (s.runMove h (.trig (amoOrSpec e)))

/-- AMO_XOR (R391). Relaxed atomic exclusive or at the double T. -/
def execAmoXor (h : Head) (e : Bool) (s : State) : Host.Outcome State Fault Refusal :=
  .next (s.runMove h (.trig (amoXorSpec e)))

/-- AMO_XCHG (R391). Relaxed atomic exchange at the double T. -/
def execAmoXchg (h : Head) (e : Bool) (s : State) : Host.Outcome State Fault Refusal :=
  .next (s.runMove h (.trig (amoXchgSpec e)))

/-- AMO_CAS (R391). Relaxed atomic compare-and-swap at the double T. -/
def execAmoCas (h : Head) (e : Bool) (s : State) : Host.Outcome State Fault Refusal :=
  .next (s.runMove h (.trig (amoCasSpec e)))

/-- AMO_ADD_ACQ (R391). Acquiring atomic add. -/
def execAmoAddAcq (h : Head) (e : Bool) (s : State) : Host.Outcome State Fault Refusal :=
  .next (s.runMove h (.trig (amoAddAcqSpec e)))

/-- AMO_MIN_ACQ (R391). Acquiring atomic minimum. -/
def execAmoMinAcq (h : Head) (e : Bool) (s : State) : Host.Outcome State Fault Refusal :=
  .next (s.runMove h (.trig (amoMinAcqSpec e)))

/-- AMO_MAX_ACQ (R391). Acquiring atomic maximum. -/
def execAmoMaxAcq (h : Head) (e : Bool) (s : State) : Host.Outcome State Fault Refusal :=
  .next (s.runMove h (.trig (amoMaxAcqSpec e)))

/-- AMO_AND_ACQ (R391). Acquiring atomic and. -/
def execAmoAndAcq (h : Head) (e : Bool) (s : State) : Host.Outcome State Fault Refusal :=
  .next (s.runMove h (.trig (amoAndAcqSpec e)))

/-- AMO_OR_ACQ (R391). Acquiring atomic or. -/
def execAmoOrAcq (h : Head) (e : Bool) (s : State) : Host.Outcome State Fault Refusal :=
  .next (s.runMove h (.trig (amoOrAcqSpec e)))

/-- AMO_XOR_ACQ (R391). Acquiring atomic exclusive or. -/
def execAmoXorAcq (h : Head) (e : Bool) (s : State) : Host.Outcome State Fault Refusal :=
  .next (s.runMove h (.trig (amoXorAcqSpec e)))

/-- AMO_XCHG_ACQ (R391). Acquiring atomic exchange. -/
def execAmoXchgAcq (h : Head) (e : Bool) (s : State) : Host.Outcome State Fault Refusal :=
  .next (s.runMove h (.trig (amoXchgAcqSpec e)))

/-- AMO_CAS_ACQ (R391). Acquiring atomic compare-and-swap. -/
def execAmoCasAcq (h : Head) (e : Bool) (s : State) : Host.Outcome State Fault Refusal :=
  .next (s.runMove h (.trig (amoCasAcqSpec e)))

/-- AMO_ADD_REL (R391). Releasing atomic add. -/
def execAmoAddRel (h : Head) (e : Bool) (s : State) : Host.Outcome State Fault Refusal :=
  .next (s.runMove h (.trig (amoAddRelSpec e)))

/-- AMO_MIN_REL (R391). Releasing atomic minimum. -/
def execAmoMinRel (h : Head) (e : Bool) (s : State) : Host.Outcome State Fault Refusal :=
  .next (s.runMove h (.trig (amoMinRelSpec e)))

/-- AMO_MAX_REL (R391). Releasing atomic maximum. -/
def execAmoMaxRel (h : Head) (e : Bool) (s : State) : Host.Outcome State Fault Refusal :=
  .next (s.runMove h (.trig (amoMaxRelSpec e)))

/-- AMO_AND_REL (R391). Releasing atomic and. -/
def execAmoAndRel (h : Head) (e : Bool) (s : State) : Host.Outcome State Fault Refusal :=
  .next (s.runMove h (.trig (amoAndRelSpec e)))

/-- AMO_OR_REL (R391). Releasing atomic or. -/
def execAmoOrRel (h : Head) (e : Bool) (s : State) : Host.Outcome State Fault Refusal :=
  .next (s.runMove h (.trig (amoOrRelSpec e)))

/-- AMO_XOR_REL (R391). Releasing atomic exclusive or. -/
def execAmoXorRel (h : Head) (e : Bool) (s : State) : Host.Outcome State Fault Refusal :=
  .next (s.runMove h (.trig (amoXorRelSpec e)))

/-- AMO_XCHG_REL (R391). Releasing atomic exchange. -/
def execAmoXchgRel (h : Head) (e : Bool) (s : State) : Host.Outcome State Fault Refusal :=
  .next (s.runMove h (.trig (amoXchgRelSpec e)))

/-- AMO_CAS_REL (R391). Releasing atomic compare-and-swap. -/
def execAmoCasRel (h : Head) (e : Bool) (s : State) : Host.Outcome State Fault Refusal :=
  .next (s.runMove h (.trig (amoCasRelSpec e)))

/-- PREF (R449). Asks the read cache to fill the line at T when it translates through a TLB hit. -/
def execPref (h : Head) (e : Bool) (s : State) : Host.Outcome State Fault Refusal :=
  .next (s.runMove h (.trig (prefSpec e)))

/-- SPB (R464). Queues a spill of a register range to the scratchpad slot in the descriptor. -/
def execSpb (h : Head) (e : Bool) (s : State) : Host.Outcome State Fault Refusal :=
  .next (s.runMove h (.trig (spbSpec e)))

/-- FLA (R421). Queues a fill of a register range from the scratchpad slot in the descriptor. -/
def execFla (h : Head) (e : Bool) (s : State) : Host.Outcome State Fault Refusal :=
  .next (s.runMove h (.trig (flaSpec e)))

/-- LOC (R434). Delivers the locality word of the address in T. -/
def execLoc (h : Head) (e : Bool) (s : State) : Host.Outcome State Fault Refusal :=
  .next (s.runMove h (.trig (locSpec e)))

end Sys2Proof.Machine
end

