-- ==== Sys2Proof/Machine/ExecChannel.lean ====
section
/-! DEFINITION. The meanings of the operations of CH (chapter 13): a bundle of one move on the current tile. -/
namespace Sys2Proof.Machine

/-- SEND (R460). Sends a message of up to eight words to a tile of this device. -/
def execSend (h : Head) (e : Bool) (s : State) : Host.Outcome State Fault Refusal :=
  .next (s.runMove h (.trig (sendSpec e)))

/-- SEND_P (R460). Sends a message to a tile of a peer device. -/
def execSendP (h : Head) (e : Bool) (s : State) : Host.Outcome State Fault Refusal :=
  .next (s.runMove h (.trig (sendPSpec e)))

/-- RECV (R451). Takes the next whole inbox message into the scratchpad and returns its header. -/
def execRecv (h : Head) (e : Bool) (s : State) : Host.Outcome State Fault Refusal :=
  .next (s.runMove h (.trig (recvSpec e)))

/-- STRM (R469). Binds or unbinds a stream queue. -/
def execStrm (h : Head) (e : Bool) (s : State) : Host.Outcome State Fault Refusal :=
  .next (s.runMove h (.trig (strmSpec e)))

/-- COLL (R404). Joins a collective described by a card and returns its ticket. -/
def execColl (h : Head) (e : Bool) (s : State) : Host.Outcome State Fault Refusal :=
  .next (s.runMove h (.trig (collSpec e)))

end Sys2Proof.Machine
end

