-- ==== Sys2Proof/Machine/ExecControl.lean ====
section
/-! DEFINITION. The meanings of MOVE and the control operations (chapter 07): a bundle of one move on the current tile. -/
namespace Sys2Proof.Machine

/-- MOVE (R441). A plain transport of a value from a source to a destination. -/
def execMove (h : Head) (d : Dst) (s : State) : Host.Outcome State Fault Refusal := .next (s.runMove h (.plain d))

/-- BR (R400). Relative branch to the bundle header plus the sign-extended offset in T. -/
def execBr (h : Head) (e : Bool) (s : State) : Host.Outcome State Fault Refusal :=
  .next (s.runMove h (.trig (brSpec e)))

/-- JMP (R429). Absolute transfer to the address in T. -/
def execJmp (h : Head) (e : Bool) (s : State) : Host.Outcome State Fault Refusal :=
  .next (s.runMove h (.trig (jmpSpec e)))

/-- CALL (R401). Relative transfer that places the link value on CU's result port. -/
def execCall (h : Head) (e : Bool) (s : State) : Host.Outcome State Fault Refusal :=
  .next (s.runMove h (.trig (callSpec e)))

/-- RET (R453). Absolute transfer to T that also informs the return predictor. -/
def execRet (h : Head) (e : Bool) (s : State) : Host.Outcome State Fault Refusal :=
  .next (s.runMove h (.trig (retSpec e)))

/-- LOOP (R156). Pushes a hardware loop level with count T and end offset O0[e], or skips the body when the count is
zero. -/
def execLoop (h : Head) (e : Bool) (s : State) : Host.Outcome State Fault Refusal :=
  .next (s.runMove h (.trig (loopSpec e)))

/-- END (R160). Halts fetch, drains the tile's engines, publishes the write log and releases the tile. -/
def execEndTile (h : Head) (e : Bool) (s : State) : Host.Outcome State Fault Refusal :=
  .next (s.runMove h (.trig (endSpec e)))

/-- TRAP (R475). Completes its bundle and then enters the software trap with code T[15:0]. -/
def execTrap (h : Head) (e : Bool) (s : State) : Host.Outcome State Fault Refusal :=
  .next (s.runMove h (.trig (trapSpec e)))

/-- TRET (R342). Returns from a trap handler, restoring shadows, resolving the faulted place by RSOL and
transferring to TPC. -/
def execTret (h : Head) (e : Bool) (s : State) : Host.Outcome State Fault Refusal :=
  .next (s.runMove h (.trig (tretSpec e)))

end Sys2Proof.Machine
end

