-- ==== Sys2Proof/Machine/ExecCopy.lean ====
section
/-! DEFINITION. The meanings of the operations of CP (chapter 13): a bundle of one move on the current tile. -/
namespace Sys2Proof.Machine

/-- CPY (R408). Submits a copy job described by a card and returns its ticket. -/
def execCpy (h : Head) (e : Bool) (s : State) : Host.Outcome State Fault Refusal :=
  .next (s.runMove h (.trig (cpySpec e)))

/-- CPYM (R408). Submits a copy job with MLDB and MMA follow-ons and returns its ticket. -/
def execCpym (h : Head) (e : Bool) (s : State) : Host.Outcome State Fault Refusal :=
  .next (s.runMove h (.trig (cpymSpec e)))

/-- CPNEST (R407). Copies a nest record into a copy-unit slot. -/
def execCpnest (h : Head) (e : Bool) (s : State) : Host.Outcome State Fault Refusal :=
  .next (s.runMove h (.trig (cpnestSpec e)))

/-- CPBUF (R406). Sets up or disables a circular buffer. -/
def execCpbuf (h : Head) (e : Bool) (s : State) : Host.Outcome State Fault Refusal :=
  .next (s.runMove h (.trig (cpbufSpec e)))

/-- CPADV (R405). Frees a taken slot and/or takes a filled slot of a circular buffer. -/
def execCpadv (h : Head) (e : Bool) (s : State) : Host.Outcome State Fault Refusal :=
  .next (s.runMove h (.trig (cpadvSpec e)))

end Sys2Proof.Machine
end

