-- ==== Sys2Proof/Machine/ExecCross.lean ====
section
/-! DEFINITION. The meanings of the cross-lane operations of VX: a bundle of one move on the current tile. -/
namespace Sys2Proof.Machine

/-- VPERM (R487). VX selects elements of two rows by an index row. -/
def execVperm (h : Head) (e : Bool) (s : State) : Host.Outcome State Fault Refusal :=
  .next (s.runMove h (.trig (vpermSpec e)))

/-- VBCST (R487). VX broadcasts one element of O0[e] to every element. -/
def execVbcst (h : Head) (e : Bool) (s : State) : Host.Outcome State Fault Refusal :=
  .next (s.runMove h (.trig (vbcstSpec e)))

/-- VRED_ADD (R491). VX segmented tree sum. -/
def execVredAdd (h : Head) (e : Bool) (s : State) : Host.Outcome State Fault Refusal :=
  .next (s.runMove h (.trig (vredAddSpec e)))

/-- VRED_MIN (R491). VX segmented tree minimum. -/
def execVredMin (h : Head) (e : Bool) (s : State) : Host.Outcome State Fault Refusal :=
  .next (s.runMove h (.trig (vredMinSpec e)))

/-- VRED_MAX (R491). VX segmented tree maximum. -/
def execVredMax (h : Head) (e : Bool) (s : State) : Host.Outcome State Fault Refusal :=
  .next (s.runMove h (.trig (vredMaxSpec e)))

/-- VSCAN_ADD (R492). VX segmented inclusive prefix sum. -/
def execVscanAdd (h : Head) (e : Bool) (s : State) : Host.Outcome State Fault Refusal :=
  .next (s.runMove h (.trig (vscanAddSpec e)))

/-- VCMPX (R482). VX compresses the mask-selected elements of T. -/
def execVcmpx (h : Head) (e : Bool) (s : State) : Host.Outcome State Fault Refusal :=
  .next (s.runMove h (.trig (vcmpxSpec e)))

/-- VQNT (R489). VX quantises FP elements into BFMm blocks with mode rounding. -/
def execVqnt (h : Head) (e : Bool) (s : State) : Host.Outcome State Fault Refusal :=
  .next (s.runMove h (.trig (vqntSpec e)))

/-- VQNT_SR (R489). VX quantises FP elements into BFMm blocks with seeded stochastic rounding. -/
def execVqntSr (h : Head) (e : Bool) (s : State) : Host.Outcome State Fault Refusal :=
  .next (s.runMove h (.trig (vqntSrSpec e)))

/-- VDQN (R484). VX dequantises a BFMm row into an FP format. -/
def execVdqn (h : Head) (e : Bool) (s : State) : Host.Outcome State Fault Refusal :=
  .next (s.runMove h (.trig (vdqnSpec e)))

/-- VCVT (R483). VX converts between integer tags, wrapping or saturating. -/
def execVcvt (h : Head) (e : Bool) (s : State) : Host.Outcome State Fault Refusal :=
  .next (s.runMove h (.trig (vcvtSpec e)))

end Sys2Proof.Machine
end

