-- ==== Sys2Proof/Machine/ExecFloat.lean ====
section
/-! DEFINITION. The meanings of the floating-point operations of VF: a bundle of one move on the current tile. -/
namespace Sys2Proof.Machine

/-- FADD (R415). VF element-wise floating-point sum. -/
def execFadd (h : Head) (u e : Bool) (s : State) : Host.Outcome State Fault Refusal :=
  .next (s.runMove h (.trig (faddSpec u e)))

/-- FSUB (R415). VF element-wise floating-point difference. -/
def execFsub (h : Head) (u e : Bool) (s : State) : Host.Outcome State Fault Refusal :=
  .next (s.runMove h (.trig (fsubSpec u e)))

/-- FMUL (R415). VF element-wise floating-point product. -/
def execFmul (h : Head) (u e : Bool) (s : State) : Host.Outcome State Fault Refusal :=
  .next (s.runMove h (.trig (fmulSpec u e)))

/-- FFMA (R420). VF fused O0 times O1 plus T. -/
def execFfma (h : Head) (u e : Bool) (s : State) : Host.Outcome State Fault Refusal :=
  .next (s.runMove h (.trig (ffmaSpec u e)))

/-- FFMA_N (R420). VF fused T minus O0 times O1. -/
def execFfmaN (h : Head) (u e : Bool) (s : State) : Host.Outcome State Fault Refusal :=
  .next (s.runMove h (.trig (ffmaNSpec u e)))

/-- FFMS (R420). VF fused O0 times O1 minus T. -/
def execFfms (h : Head) (u e : Bool) (s : State) : Host.Outcome State Fault Refusal :=
  .next (s.runMove h (.trig (ffmsSpec u e)))

/-- FMIN (R422). VF element-wise floating-point minimum. -/
def execFmin (h : Head) (u e : Bool) (s : State) : Host.Outcome State Fault Refusal :=
  .next (s.runMove h (.trig (fminSpec u e)))

/-- FMAX (R422). VF element-wise floating-point maximum. -/
def execFmax (h : Head) (u e : Bool) (s : State) : Host.Outcome State Fault Refusal :=
  .next (s.runMove h (.trig (fmaxSpec u e)))

/-- FABS (R414). VF clears the sign bit of each element of T. -/
def execFabs (h : Head) (u e : Bool) (s : State) : Host.Outcome State Fault Refusal :=
  .next (s.runMove h (.trig (fabsSpec u e)))

/-- FABS_NEG (R414). VF sets the sign bit of each element of T. -/
def execFabsNeg (h : Head) (u e : Bool) (s : State) : Host.Outcome State Fault Refusal :=
  .next (s.runMove h (.trig (fabsNegSpec u e)))

/-- FABS_SGN (R414). VF copies the sign of T onto each element of O0[e]. -/
def execFabsSgn (h : Head) (u e : Bool) (s : State) : Host.Outcome State Fault Refusal :=
  .next (s.runMove h (.trig (fabsSgnSpec u e)))

/-- FCMP_EQ (R416). VF ordered equality compare into a PRED row. -/
def execFcmpEq (h : Head) (u e : Bool) (s : State) : Host.Outcome State Fault Refusal :=
  .next (s.runMove h (.trig (fcmpEqSpec u e)))

/-- FCMP_NE (R416). VF not-equal compare. -/
def execFcmpNe (h : Head) (u e : Bool) (s : State) : Host.Outcome State Fault Refusal :=
  .next (s.runMove h (.trig (fcmpNeSpec u e)))

/-- FCMP_LT (R416). VF less-than compare, signalling on any NaN. -/
def execFcmpLt (h : Head) (u e : Bool) (s : State) : Host.Outcome State Fault Refusal :=
  .next (s.runMove h (.trig (fcmpLtSpec u e)))

/-- FCMP_LE (R416). VF less-or-equal compare, signalling on any NaN. -/
def execFcmpLe (h : Head) (u e : Bool) (s : State) : Host.Outcome State Fault Refusal :=
  .next (s.runMove h (.trig (fcmpLeSpec u e)))

/-- FCMP_UN (R416). VF unordered test. -/
def execFcmpUn (h : Head) (u e : Bool) (s : State) : Host.Outcome State Fault Refusal :=
  .next (s.runMove h (.trig (fcmpUnSpec u e)))

/-- FCMP_ORD (R416). VF ordered test. -/
def execFcmpOrd (h : Head) (u e : Bool) (s : State) : Host.Outcome State Fault Refusal :=
  .next (s.runMove h (.trig (fcmpOrdSpec u e)))

/-- FCVT (R417). VF converts between FP formats or between FP and integer tags. -/
def execFcvt (h : Head) (u e : Bool) (s : State) : Host.Outcome State Fault Refusal :=
  .next (s.runMove h (.trig (fcvtSpec u e)))

/-- FRND (R423). VF rounds each element to an integral value in its own format. -/
def execFrnd (h : Head) (u e : Bool) (s : State) : Host.Outcome State Fault Refusal :=
  .next (s.runMove h (.trig (frndSpec u e)))

end Sys2Proof.Machine
end

