-- ==== Sys2Proof/Machine/ExecMatrix.lean ====
section
/-! DEFINITION. The meanings of the matrix operations (chapter 12): a bundle of one move on the current tile. -/
namespace Sys2Proof.Machine

/-- MLDA (R267). MX queues a gather of 32 A rows into an A file and the gather latch. -/
def execMlda (h : Head) (e : Bool) (s : State) : Host.Outcome State Fault Refusal :=
  .next (s.runMove h (.trig (mldaSpec e)))

/-- MLDB (R268). MX queues a load of 32 B columns into a B file. -/
def execMldb (h : Head) (e : Bool) (s : State) : Host.Outcome State Fault Refusal :=
  .next (s.runMove h (.trig (mldbSpec e)))

/-- MMA (R269). MX queues a block-format multiply-accumulate into an accumulator. -/
def execMma (h : Head) (e : Bool) (s : State) : Host.Outcome State Fault Refusal :=
  .next (s.runMove h (.trig (mmaSpec e)))

/-- MZRO (R270). MX queues clearing of the accumulators named by ACCMASK. -/
def execMzro (h : Head) (e : Bool) (s : State) : Host.Outcome State Fault Refusal :=
  .next (s.runMove h (.trig (mzroSpec e)))

/-- MRD (R271). MX queues a converted read of an accumulator row. -/
def execMrd (h : Head) (e : Bool) (s : State) : Host.Outcome State Fault Refusal :=
  .next (s.runMove h (.trig (mrdSpec e)))

/-- MQRD (R272). MX queues a quantised read of an accumulator row. -/
def execMqrd (h : Head) (e : Bool) (s : State) : Host.Outcome State Fault Refusal :=
  .next (s.runMove h (.trig (mqrdSpec e)))

end Sys2Proof.Machine
end

