-- ==== Sys2Proof/Machine/ExecScalar.lean ====
section
/-! DEFINITION. The meanings of the integer operations of IA and IM (chapters 18 to 21): a bundle of one move on the current tile. -/
namespace Sys2Proof.Machine

/-- ADD (R389). IA 64-bit wrapping sum of O0[e] and T. -/
def execAdd (h : Head) (u e : Bool) (s : State) : Host.Outcome State Fault Refusal :=
  .next (s.runMove h (.trig (addSpec u e)))

/-- SUB (R470). IA 64-bit wrapping difference O0[e] minus T. -/
def execSub (h : Head) (u e : Bool) (s : State) : Host.Outcome State Fault Refusal :=
  .next (s.runMove h (.trig (subSpec u e)))

/-- AND (R394). IA bitwise and of O0[e] and T. -/
def execAnd (h : Head) (u e : Bool) (s : State) : Host.Outcome State Fault Refusal :=
  .next (s.runMove h (.trig (andSpec u e)))

/-- ANDN (R395). IA bitwise and of O0[e] with the complement of T. -/
def execAndn (h : Head) (u e : Bool) (s : State) : Host.Outcome State Fault Refusal :=
  .next (s.runMove h (.trig (andnSpec u e)))

/-- OR (R444). IA bitwise or of O0[e] and T. -/
def execOr (h : Head) (u e : Bool) (s : State) : Host.Outcome State Fault Refusal :=
  .next (s.runMove h (.trig (orSpec u e)))

/-- XOR (R497). IA bitwise exclusive or of O0[e] and T. -/
def execXor (h : Head) (u e : Bool) (s : State) : Host.Outcome State Fault Refusal :=
  .next (s.runMove h (.trig (xorSpec u e)))

/-- SHL (R455). IA left shift of O0[e] by T[5:0]. -/
def execShl (h : Head) (u e : Bool) (s : State) : Host.Outcome State Fault Refusal :=
  .next (s.runMove h (.trig (shlSpec u e)))

/-- SHR (R455). IA logical right shift of O0[e] by T[5:0]. -/
def execShr (h : Head) (u e : Bool) (s : State) : Host.Outcome State Fault Refusal :=
  .next (s.runMove h (.trig (shrSpec u e)))

/-- SAR (R455). IA arithmetic right shift of O0[e] by T[5:0]. -/
def execSar (h : Head) (u e : Bool) (s : State) : Host.Outcome State Fault Refusal :=
  .next (s.runMove h (.trig (sarSpec u e)))

/-- ROL (R454). IA left rotation of O0[e] by T[5:0]. -/
def execRol (h : Head) (u e : Bool) (s : State) : Host.Outcome State Fault Refusal :=
  .next (s.runMove h (.trig (rolSpec u e)))

/-- MIN (R438). IA signed minimum of O0[e] and T. -/
def execMin (h : Head) (u e : Bool) (s : State) : Host.Outcome State Fault Refusal :=
  .next (s.runMove h (.trig (minSpec u e)))

/-- MIN_U (R438). IA unsigned minimum of O0[e] and T. -/
def execMinU (h : Head) (u e : Bool) (s : State) : Host.Outcome State Fault Refusal :=
  .next (s.runMove h (.trig (minUSpec u e)))

/-- MAX (R438). IA signed maximum of O0[e] and T. -/
def execMax (h : Head) (u e : Bool) (s : State) : Host.Outcome State Fault Refusal :=
  .next (s.runMove h (.trig (maxSpec u e)))

/-- MAX_U (R438). IA unsigned maximum of O0[e] and T. -/
def execMaxU (h : Head) (u e : Bool) (s : State) : Host.Outcome State Fault Refusal :=
  .next (s.runMove h (.trig (maxUSpec u e)))

/-- CMP_EQ (R403). IA compare, 1 when O0[e] equals T. -/
def execCmpEq (h : Head) (u e : Bool) (s : State) : Host.Outcome State Fault Refusal :=
  .next (s.runMove h (.trig (cmpEqSpec u e)))

/-- CMP_NE (R403). IA compare, 1 when O0[e] differs from T. -/
def execCmpNe (h : Head) (u e : Bool) (s : State) : Host.Outcome State Fault Refusal :=
  .next (s.runMove h (.trig (cmpNeSpec u e)))

/-- CMP_LT (R403). IA signed less-than compare. -/
def execCmpLt (h : Head) (u e : Bool) (s : State) : Host.Outcome State Fault Refusal :=
  .next (s.runMove h (.trig (cmpLtSpec u e)))

/-- CMP_LE (R403). IA signed less-or-equal compare. -/
def execCmpLe (h : Head) (u e : Bool) (s : State) : Host.Outcome State Fault Refusal :=
  .next (s.runMove h (.trig (cmpLeSpec u e)))

/-- CMP_LTU (R403). IA unsigned less-than compare. -/
def execCmpLtu (h : Head) (u e : Bool) (s : State) : Host.Outcome State Fault Refusal :=
  .next (s.runMove h (.trig (cmpLtuSpec u e)))

/-- CMP_LEU (R403). IA unsigned less-or-equal compare. -/
def execCmpLeu (h : Head) (u e : Bool) (s : State) : Host.Outcome State Fault Refusal :=
  .next (s.runMove h (.trig (cmpLeuSpec u e)))

/-- SEL (R459). IA selects O0[e] when T[0] is 1, else O1[e]. -/
def execSel (h : Head) (u e : Bool) (s : State) : Host.Outcome State Fault Refusal :=
  .next (s.runMove h (.trig (selSpec u e)))

/-- CLZ (R402). IA count of leading zero bits of T. -/
def execClz (h : Head) (u e : Bool) (s : State) : Host.Outcome State Fault Refusal :=
  .next (s.runMove h (.trig (clzSpec u e)))

/-- POPC (R448). IA count of one bits of T. -/
def execPopc (h : Head) (u e : Bool) (s : State) : Host.Outcome State Fault Refusal :=
  .next (s.runMove h (.trig (popcSpec u e)))

/-- BEXT (R398). IA extracts the field of O0[e] that T describes. -/
def execBext (h : Head) (u e : Bool) (s : State) : Host.Outcome State Fault Refusal :=
  .next (s.runMove h (.trig (bextSpec u e)))

/-- BINS (R399). IA inserts the low bits of O1[e] into O0[e] at the field that T describes. -/
def execBins (h : Head) (u e : Bool) (s : State) : Host.Outcome State Fault Refusal :=
  .next (s.runMove h (.trig (binsSpec u e)))

/-- SEXT (R461). IA sign-extends the low O0[e][6:0] bits of T. -/
def execSext (h : Head) (u e : Bool) (s : State) : Host.Outcome State Fault Refusal :=
  .next (s.runMove h (.trig (sextSpec u e)))

/-- PAND (R446). IA logical and of two truth values. -/
def execPand (h : Head) (u e : Bool) (s : State) : Host.Outcome State Fault Refusal :=
  .next (s.runMove h (.trig (pandSpec u e)))

/-- POR (R446). IA logical or of two truth values. -/
def execPor (h : Head) (u e : Bool) (s : State) : Host.Outcome State Fault Refusal :=
  .next (s.runMove h (.trig (porSpec u e)))

/-- PXOR (R446). IA logical exclusive or of two truth values. -/
def execPxor (h : Head) (u e : Bool) (s : State) : Host.Outcome State Fault Refusal :=
  .next (s.runMove h (.trig (pxorSpec u e)))

/-- MUL (R443). IM low 64 bits of the product of O0[e] and T. -/
def execMul (h : Head) (e : Bool) (s : State) : Host.Outcome State Fault Refusal :=
  .next (s.runMove h (.trig (mulSpec e)))

/-- MULH (R443). IM high 64 bits of the signed 128-bit product. -/
def execMulh (h : Head) (e : Bool) (s : State) : Host.Outcome State Fault Refusal :=
  .next (s.runMove h (.trig (mulhSpec e)))

/-- MULH_U (R443). IM high 64 bits of the unsigned 128-bit product. -/
def execMulhU (h : Head) (e : Bool) (s : State) : Host.Outcome State Fault Refusal :=
  .next (s.runMove h (.trig (mulhUSpec e)))

/-- MAD (R437). IM wrapping O0[e] times O1[e] plus T. -/
def execMad (h : Head) (e : Bool) (s : State) : Host.Outcome State Fault Refusal :=
  .next (s.runMove h (.trig (madSpec e)))

/-- DIV (R411). IM signed division of O0[e] by T. -/
def execDiv (h : Head) (e : Bool) (s : State) : Host.Outcome State Fault Refusal :=
  .next (s.runMove h (.trig (divSpec e)))

/-- DIV_U (R411). IM unsigned division of O0[e] by T. -/
def execDivU (h : Head) (e : Bool) (s : State) : Host.Outcome State Fault Refusal :=
  .next (s.runMove h (.trig (divUSpec e)))

/-- REM (R452). IM signed remainder of O0[e] by T. -/
def execRem (h : Head) (e : Bool) (s : State) : Host.Outcome State Fault Refusal :=
  .next (s.runMove h (.trig (remSpec e)))

/-- REM_U (R452). IM unsigned remainder of O0[e] by T. -/
def execRemU (h : Head) (e : Bool) (s : State) : Host.Outcome State Fault Refusal :=
  .next (s.runMove h (.trig (remUSpec e)))

end Sys2Proof.Machine
end

