-- ==== Sys2Proof/Machine/ExecSpecial.lean ====
section
/-! DEFINITION. The meanings of the operations of GP and SF (chapter 14): a bundle of one move on the current tile. -/
namespace Sys2Proof.Machine

/-- ORI2 (R445). GP exact 2D orientation predicate per lane. -/
def execOri2 (h : Head) (e : Bool) (s : State) : Host.Outcome State Fault Refusal :=
  .next (s.runMove h (.trig (ori2Spec e)))

/-- ORI3 (R445). GP exact 3D orientation predicate per lane. -/
def execOri3 (h : Head) (e : Bool) (s : State) : Host.Outcome State Fault Refusal :=
  .next (s.runMove h (.trig (ori3Spec e)))

/-- INCIR (R427). GP exact in-circle predicate per lane. -/
def execIncir (h : Head) (e : Bool) (s : State) : Host.Outcome State Fault Refusal :=
  .next (s.runMove h (.trig (incirSpec e)))

/-- INSPH (R428). GP exact in-sphere predicate per lane. -/
def execInsph (h : Head) (e : Bool) (s : State) : Host.Outcome State Fault Refusal :=
  .next (s.runMove h (.trig (insphSpec e)))

/-- SEGX (R458). GP exact segment-contact classification per lane. -/
def execSegx (h : Head) (e : Bool) (s : State) : Host.Outcome State Fault Refusal :=
  .next (s.runMove h (.trig (segxSpec e)))

/-- GPST (R426). GP reports the stages and cycles of the previous predicate. -/
def execGpst (h : Head) (e : Bool) (s : State) : Host.Outcome State Fault Refusal :=
  .next (s.runMove h (.trig (gpstSpec e)))

/-- SFN (R325). SF evaluates a microprogrammed function on each lane of T. -/
def execSfn (h : Head) (e : Bool) (s : State) : Host.Outcome State Fault Refusal :=
  .next (s.runMove h (.trig (sfnSpec e)))

/-- SFROW (R328). SF computes max, exp-sum, mean and variance of a scratchpad row. -/
def execSfrow (h : Head) (e : Bool) (s : State) : Host.Outcome State Fault Refusal :=
  .next (s.runMove h (.trig (sfrowSpec e)))

/-- SFLD (R331). SF loads a signed microcode package into the shadow bank and activates it. -/
def execSfld (h : Head) (e : Bool) (s : State) : Host.Outcome State Fault Refusal :=
  .next (s.runMove h (.trig (sfldSpec e)))

/-- SFCM (R332). SF sets or reads the NX-3 compatibility mode. -/
def execSfcm (h : Head) (e : Bool) (s : State) : Host.Outcome State Fault Refusal :=
  .next (s.runMove h (.trig (sfcmSpec e)))

end Sys2Proof.Machine
end

