-- ==== Sys2Proof/Machine/ExecSync.lean ====
section
/-! DEFINITION. The meanings of the operations of SY (chapters 08, 10, 16): a bundle of one move on the current tile. -/
namespace Sys2Proof.Machine

/-- PHASE_T (R447). Tile phase boundary: publishes the write log and invalidates the read cache. -/
def execPhaseT (h : Head) (e : Bool) (s : State) : Host.Outcome State Fault Refusal :=
  .next (s.runMove h (.trig (phaseTSpec e)))

/-- PHASE_G (R447). Gang phase boundary: publishes, joins the gang barrier and invalidates the read cache. -/
def execPhaseG (h : Head) (e : Bool) (s : State) : Host.Outcome State Fault Refusal :=
  .next (s.runMove h (.trig (phaseGSpec e)))

/-- BAR (R396). Arrives at the gang barrier without publishing. -/
def execBar (h : Head) (e : Bool) (s : State) : Host.Outcome State Fault Refusal :=
  .next (s.runMove h (.trig (barSpec e)))

/-- FENCE (R419). Waits for earlier stores to translate and posted peer stores to be acknowledged, delivering
deferred faults. -/
def execFence (h : Head) (e : Bool) (s : State) : Host.Outcome State Fault Refusal :=
  .next (s.runMove h (.trig (fenceSpec e)))

/-- WAIT (R495). Waits on selected tickets, circular buffers and the inbox, optionally bounded. -/
def execWait (h : Head) (e : Bool) (s : State) : Host.Outcome State Fault Refusal :=
  .next (s.runMove h (.trig (waitSpec e)))

/-- SLNS (R463). Suspends issue of the next bundle for T nanoseconds. -/
def execSlns (h : Head) (e : Bool) (s : State) : Host.Outcome State Fault Refusal :=
  .next (s.runMove h (.trig (slnsSpec e)))

/-- TWNS (R478). Sets the pending bound of the next WAIT. -/
def execTwns (h : Head) (e : Bool) (s : State) : Host.Outcome State Fault Refusal :=
  .next (s.runMove h (.trig (twnsSpec e)))

/-- TSTMP (R477). Returns the reference-clock count in nanoseconds. -/
def execTstmp (h : Head) (e : Bool) (s : State) : Host.Outcome State Fault Refusal :=
  .next (s.runMove h (.trig (tstmpSpec e)))

/-- CYCLE (R409). Returns the tile cycles executed since launch. -/
def execCycle (h : Head) (e : Bool) (s : State) : Host.Outcome State Fault Refusal :=
  .next (s.runMove h (.trig (cycleSpec e)))

/-- ENQ (R181). Publishes and enqueues the record at a scratchpad offset into a hardware queue. -/
def execEnq (h : Head) (e : Bool) (s : State) : Host.Outcome State Fault Refusal :=
  .next (s.runMove h (.trig (enqSpec e)))

/-- JOIN (R183). Publishes and decrements a join block's counter, enqueuing its successor at zero. -/
def execJoin (h : Head) (e : Bool) (s : State) : Host.Outcome State Fault Refusal :=
  .next (s.runMove h (.trig (joinSpec e)))

/-- MODE (R440). Changes chosen FLM bits in one step and returns the old FLM. -/
def execMode (h : Head) (e : Bool) (s : State) : Host.Outcome State Fault Refusal :=
  .next (s.runMove h (.trig (modeSpec e)))

/-- SRD (R466). Reads a double of the tile's own window without side effects. -/
def execSrd (h : Head) (e : Bool) (s : State) : Host.Outcome State Fault Refusal :=
  .next (s.runMove h (.trig (srdSpec e)))

/-- SWR (R466). Writes a double of the tile's own window from O0[e]. -/
def execSwr (h : Head) (e : Bool) (s : State) : Host.Outcome State Fault Refusal :=
  .next (s.runMove h (.trig (swrSpec e)))

end Sys2Proof.Machine
end

