-- ==== Sys2Proof/Machine/ExecVector.lean ====
section
/-! DEFINITION. The meanings of the integer vector operations of VA: a bundle of one move on the current tile. -/
namespace Sys2Proof.Machine

/-- VADD (R479). VA element-wise wrapping sum. -/
def execVadd (h : Head) (e : Bool) (s : State) : Host.Outcome State Fault Refusal :=
  .next (s.runMove h (.trig (vaddSpec e)))

/-- VADD_S (R479). VA element-wise saturating sum. -/
def execVaddS (h : Head) (e : Bool) (s : State) : Host.Outcome State Fault Refusal :=
  .next (s.runMove h (.trig (vaddSSpec e)))

/-- VSUB (R479). VA element-wise wrapping difference. -/
def execVsub (h : Head) (e : Bool) (s : State) : Host.Outcome State Fault Refusal :=
  .next (s.runMove h (.trig (vsubSpec e)))

/-- VSUB_S (R479). VA element-wise saturating difference. -/
def execVsubS (h : Head) (e : Bool) (s : State) : Host.Outcome State Fault Refusal :=
  .next (s.runMove h (.trig (vsubSSpec e)))

/-- VMUL (R479). VA element-wise wrapping product. -/
def execVmul (h : Head) (e : Bool) (s : State) : Host.Outcome State Fault Refusal :=
  .next (s.runMove h (.trig (vmulSpec e)))

/-- VMAD (R479). VA element-wise wrapping multiply-add. -/
def execVmad (h : Head) (e : Bool) (s : State) : Host.Outcome State Fault Refusal :=
  .next (s.runMove h (.trig (vmadSpec e)))

/-- VAND (R480). VA bitwise and of whole rows. -/
def execVand (h : Head) (e : Bool) (s : State) : Host.Outcome State Fault Refusal :=
  .next (s.runMove h (.trig (vandSpec e)))

/-- VOR (R480). VA bitwise or of whole rows. -/
def execVor (h : Head) (e : Bool) (s : State) : Host.Outcome State Fault Refusal :=
  .next (s.runMove h (.trig (vorSpec e)))

/-- VXOR (R480). VA bitwise exclusive or of whole rows. -/
def execVxor (h : Head) (e : Bool) (s : State) : Host.Outcome State Fault Refusal :=
  .next (s.runMove h (.trig (vxorSpec e)))

/-- VSHL (R479). VA element-wise left shift. -/
def execVshl (h : Head) (e : Bool) (s : State) : Host.Outcome State Fault Refusal :=
  .next (s.runMove h (.trig (vshlSpec e)))

/-- VSHR (R479). VA element-wise logical right shift. -/
def execVshr (h : Head) (e : Bool) (s : State) : Host.Outcome State Fault Refusal :=
  .next (s.runMove h (.trig (vshrSpec e)))

/-- VSHR_A (R479). VA element-wise arithmetic right shift. -/
def execVshrA (h : Head) (e : Bool) (s : State) : Host.Outcome State Fault Refusal :=
  .next (s.runMove h (.trig (vshrASpec e)))

/-- VMIN (R479). VA element-wise minimum. -/
def execVmin (h : Head) (e : Bool) (s : State) : Host.Outcome State Fault Refusal :=
  .next (s.runMove h (.trig (vminSpec e)))

/-- VMAX (R479). VA element-wise maximum. -/
def execVmax (h : Head) (e : Bool) (s : State) : Host.Outcome State Fault Refusal :=
  .next (s.runMove h (.trig (vmaxSpec e)))

/-- VABS (R479). VA element-wise absolute value. -/
def execVabs (h : Head) (e : Bool) (s : State) : Host.Outcome State Fault Refusal :=
  .next (s.runMove h (.trig (vabsSpec e)))

/-- VCMP_EQ (R481). VA element-wise equality compare into a PRED row. -/
def execVcmpEq (h : Head) (e : Bool) (s : State) : Host.Outcome State Fault Refusal :=
  .next (s.runMove h (.trig (vcmpEqSpec e)))

/-- VCMP_NE (R481). VA element-wise inequality compare. -/
def execVcmpNe (h : Head) (e : Bool) (s : State) : Host.Outcome State Fault Refusal :=
  .next (s.runMove h (.trig (vcmpNeSpec e)))

/-- VCMP_LT (R481). VA signed less-than compare. -/
def execVcmpLt (h : Head) (e : Bool) (s : State) : Host.Outcome State Fault Refusal :=
  .next (s.runMove h (.trig (vcmpLtSpec e)))

/-- VCMP_LE (R481). VA signed less-or-equal compare. -/
def execVcmpLe (h : Head) (e : Bool) (s : State) : Host.Outcome State Fault Refusal :=
  .next (s.runMove h (.trig (vcmpLeSpec e)))

/-- VCMP_LTU (R481). VA unsigned less-than compare. -/
def execVcmpLtu (h : Head) (e : Bool) (s : State) : Host.Outcome State Fault Refusal :=
  .next (s.runMove h (.trig (vcmpLtuSpec e)))

/-- VCMP_LEU (R481). VA unsigned less-or-equal compare. -/
def execVcmpLeu (h : Head) (e : Bool) (s : State) : Host.Outcome State Fault Refusal :=
  .next (s.runMove h (.trig (vcmpLeuSpec e)))

/-- VSEL (R493). VA lane-wise select of O0[e] or O1[e] by the mask in T. -/
def execVsel (h : Head) (e : Bool) (s : State) : Host.Outcome State Fault Refusal :=
  .next (s.runMove h (.trig (vselSpec e)))

end Sys2Proof.Machine
end

