-- ==== Sys2Proof/Machine/Service.lean ====
section
/-! DEFINITION. The service cores, the security processor and resets: writes through the map, images, mailboxes, boot,
attestation, module reset (01 R6, 09 R194 to R209, 08 R173, R179, 16 R361 to R374, 17 R375 to R384). -/
namespace Sys2Proof.Machine

/-- The state an event leaves. -/
def after (s : State) : Host.Outcome State Fault Refusal → State
  | .next t => t
  | _ => s

def State.onDev (s : State) (f : Device → Device) : State := { s with dev := f s.dev }

/-! ### Writes through the map (09 R194, R195) -/

/-- A field of a queue descriptor written: LOG2SLOTS outside 4 to 16 is ignored and clears EN (08 R173). -/
def QDesc.put (d : QDesc) (field : Nat) (x : W64) : QDesc :=
  match field with
  | 0 => { d with en := x.getLsbD 0 }
  | 1 => { d with ring := x.setWidth 32 }
  | 2 =>
    let n := bitsN x 0 5
    if 4 ≤ n ∧ n ≤ 16 then { d with log2 := n } else { d with en := false }
  | 3 => { d with cmask := x }
  | 4 => { d with prod := x.setWidth 32 }
  | 5 => { d with claim := x.setWidth 32 }
  | 6 => { d with retire := x.setWidth 32 }
  | 7 => { d with ckpool := x.setWidth 32 }
  | 8 => { d with cksize := x.setWidth 32 }
  | _ => d

/-- QUEUE_DESCRIPTOR_WRITE. -/
def execQueueDescriptorWrite (queue field value : Nat) (s : State) : Host.Outcome State Fault Refusal :=
  .next (s.served (s.setQueueDesc queue ((s.queueDesc queue).put field (BitVec.ofNat 64 value))))

/-- Word 0 of an image-table entry: a write of 0 to REV while V is 1 is ignored (17 R380). -/
def Image.put0 (x : Image) (w : W64) : Image :=
  { x with
    v := w.getLsbD 63
    rev := w.getLsbD 62 || (x.v && x.rev)
    gen := w.extractLsb' 19 22
    npages := bitsN w 0 19 }

def Image.put1 (x : Image) (w : W64) : Image := { x with codeh := w.extractLsb' 48 16, hashh := w.extractLsb' 32 16 }

/-- An image-table double; an image revoked by it stops what runs it (15 R350). -/
def State.imagePut (s : State) (o : Nat) (w : W64) : State :=
  let i := o / 16
  let x := s.image i
  if o % 16 = 0 then
    let y := x.put0 w
    let s := s.setImage i y
    if y.v && y.rev && !x.rev then s.revoke i else s
  else s.setImage i (x.put1 w)

/-- The double at offset `o` of a table of entries of two words: `w0` where it is a first word, `w1` where a second. -/
def putPair (l : List (Nat × (W64 × W64))) (o : Nat) (w0 w1 : W64) : List (Nat × (W64 × W64)) :=
  let x := (look (o / 16) l).getD (0, 0)
  put (o / 16) (if o % 16 = 0 then (w0, x.2) else (x.1, w1)) l

/-- A field that stores at most `top`. -/
def capped (w : W64) (lo n top : Nat) : Nat := min (bitsN w lo n) top

/-- A double of the device window. -/
def State.devicePut (s : State) (o : Nat) (w : W64) : State :=
  if o < 0x40 then
    s.onDev fun d =>
      match o with
      | 0 => { d with devid := w.setWidth 20 }
      | 8 => { d with ptroot := w &&& 0x000000FFFFFFF000 }
      | 0x10 => { d with logpool := w &&& 0xFFFFFFFFFFF00000 }
      | 0x18 => { d with tkttl := max 1 (bitsN w 0 20) }
      | _ => d
  else if o < 0x2000 then s
  else if o < 0x3000 then s.onDev fun d => { d with routes := put ((o - 0x2000) / 8) (w &&& 0x9F1F) d.routes }
  else if o = 0x3000 then s.onDev fun d => { d with otherPort := w &&& 0x1F }
  else if o < 0x8000 then s.imagePut (o - 0x4000) w
  else if o < 0x10000 then
    let q := (o - 0x8000) / 128
    s.setQueueDesc q ((s.queueDesc q).put (o % 128 / 8) w)
  else if o < 0x200000 then
    let size := BitVec.ofNat 64 (capped w 0 25 (2 ^ 24))
    s.onDev fun d => { d with handles := putPair d.handles (o - 0x100000) (w &&& 0xFFFFFFFFFFFF0000) size }
  else if o < 0x204000 then
    let span := BitVec.ofNat 64 (bitsN w 16 10 <<< 16 + capped w 0 11 1024)
    s.onDev fun d => { d with peers := putPair d.peers (o - 0x200000) (w &&& 0xF0000000000FFFFF) span }
  else if 0x300000 ≤ o then
    let k := (o - 0x300000) / 0x40000
    let m := vget .reset s.dev.mail k
    s.onDev fun d => { d with mail := vput d.mail k { m with words := put ((o - 0x300000) % 0x40000) w m.words } }
  else s

/-- TLBCMD: ignored while BUSY; operations 1 to 4 begin (09 R209). -/
def Cluster.command (c : Cluster) (w : W64) : Cluster :=
  if c.tlbBusy then c
  else
    let go := decide (1 ≤ bitsN w 60 4) && decide (bitsN w 60 4 ≤ 4)
    { c with tlbop := w &&& 0xF00001FFFFFFFFFF, tlbBusy := go, tlbPend := go }

/-- A double of a cluster window (08 R179). -/
def Cluster.put (c : Cluster) (o : Nat) (w : W64) : Cluster :=
  match o with
  | 0 => c.command w
  | 0x100000 => { c with dspctl := w &&& 3 }
  | 0x101800 => { c with supOvf := c.supOvf && !w.getLsbD 16 }
  | 0x101808 => if 1 ≤ w.toNat ∧ w.toNat ≤ 64 then c.ack w.toNat else c
  | 0x103400 => { c with throtOvf := c.throtOvf && !w.getLsbD 16 }
  | _ => c

/-- The row of a cluster whose THRESH stands at an offset; the spec gives THRESH no offset, and any that no block holds
is possible (log 14). -/
def threshRow (o : Nat) : Option Nat := (List.range 16).find? fun r => Config.threshOffset r == o

/-- A double of a tile window written by a service core: grants and CTL beside what a tile writes (09 R198, 15 R353). A
quarantined scratchpad takes no write of any master (15 R345). -/
def State.tilePut (s : State) (tid o : Nat) (w : W64) : State :=
  if o < 0x40000 ∧ (s.tile tid).run = .quarantined then s
  else if 0xB0000 ≤ o ∧ o < 0xB0020 then
    s.onTile tid fun t => { t with grants := vput t.grants ((o - 0xB0000) / 8) (grantMask w) }
  else if o = 0xB1800 then
    let s := if w.getLsbD 0 then s.ctlPark tid else s
    let s := if w.getLsbD 1 then s.ctlRelease tid else s
    if w.getLsbD 2 then s.ctlStop tid else s
  else s.tileWrite tid o (bytesOf 8 w)

/-- A double written by a service core at a place of the map. -/
def State.mapPut (s : State) (l : Loc) (w : W64) : State :=
  if !l.rangeOk 8 then
    match l with
    | .cluster c o =>
      match threshRow o with
      | some r => s.onRow (16 * c + r) fun x => { x with thresh := w.setWidth 12 }
      | none => s
    | _ => s
  else
    match l with
    | .tile tid o => s.tilePut tid o w
    | .slice k o => if o = 0x48040 then s.onSlice k fun x => { x with tkkey := w } else s
    | .cluster c o => s.onCluster c fun x => x.put o w
    | .boundary b o => if o < 0x600 ∧ o % 32 = 8 ∧ w.getLsbD 0 then s.retrain b (o / 32) else s
    | .device o => s.devicePut o w

/-- MAP_WRITE: a service core writes the aligned double at an address of space 0xE, or, as it does the page tables' (09 R204, R209,
24 R507), one of HBM at its physical address, which stands in the place of a virtual one (log 49). -/
def execMapWrite (addr value : Nat) (s : State) : Host.Outcome State Fault Refusal :=
  .next (s.served (match spaceOf (BitVec.ofNat 64 (addr / 8 * 8)) with
    | .chip l => s.mapPut l (BitVec.ofNat 64 value)
    | .virt pa => if addressable pa 8 then s.writeHbm pa (bytesOf 8 (BitVec.ofNat 64 value)) else s
    | _ => s))

/-! ### Images (17 R375 to R381) -/

/-- A field of a byte string. -/
def field (bs : List Byte) (o n : Nat) : Nat := ofBytes ((bs.drop o).take n)

/-- Every byte of a range is zero. -/
def zeros (bs : List Byte) (o n : Nat) : Bool := ((bs.drop o).take n).all (· == 0)

/-- The header's limits (17 R376). -/
def headerOk (h : List Byte) : Bool :=
  let plain := field h 16 4 == 0
  field h 0 4 == 0x4F41544D && field h 4 2 == 1 && decide (1 ≤ field h 6 2) && decide (field h 6 2 ≤ 256) &&
    decide (1 ≤ field h 8 4) && decide (field h 8 4 ≤ 262144) && decide (field h 12 2 ≤ 64) && decide (field h 14 1 < 16) &&
    zeros h 15 1 && field h 20 4 == 1 && zeros h 24 8 && (!plain || zeros h 32 96)

/-- An entry record's limits (17 R377). -/
def entryOk (e : List Byte) : Bool :=
  decide (field e 16 4 < 2 ^ 30) && field e 16 4 % 4 == 0 && decide (field e 20 4 ≤ 65536) && field e 20 4 % 8 == 0 &&
    decide (field e 24 1 ≤ 8) && decide (field e 25 1 ≤ 1) && decide (field e 26 1 ≤ 32) && zeros e 27 1 &&
    decide (field e 28 2 < 2 ^ 15) && zeros e 30 2

/-- What an entry record says; without `.rotating` the live depth is 32 (03 R73). -/
def entryOf (e : List Byte) : Entry :=
  ⟨field e 16 4, field e 20 4, field e 24 1, if field e 25 1 = 0 then 32 else field e 26 1, BitVec.ofNat 15 (field e 28 2)⟩

/-- The manifest's length: header and tables. -/
def manifestLen (h : List Byte) : Nat := 128 + 32 * field h 6 2 + 32 * field h 12 2 + 64 * field h 8 4
/-- The length of an ML-DSA-87 signature. -/
def sigLen : Nat := 4627
/-- C: where the code segment begins (17 R375). -/
def codeStart (h : List Byte) : Nat := (manifestLen h + sigLen + 4095) / 4096 * 4096

/-- The device feature vector's bytes. -/
def featureBytes : List Byte := Config.featureVector.flatMap (bytesOf 8)

/-- No two entries of a list are equal. -/
def distinct : List Nat → Bool
  | [] => true
  | x :: l => !l.contains x && distinct l

/-- What the service core has read of an image: its bytes up to the code segment, and the code segment. -/
structure ImageBytes where
  front : List Byte
  code : List Byte
  deriving DecidableEq, Repr

/-- The image at a handle reference, as far as it can be read. -/
def State.readImage (s : State) (ref : W64) : Option ImageBytes × State :=
  let h := bitsN ref 48 16
  let off := bitsN ref 0 48
  let (hd, s) := s.handleRead h off 128
  match hd with
  | none => (none, s)
  | some hd =>
    if !headerOk hd then (none, s)
    else
      let (f, s) := s.handleRead h off (codeStart hd)
      let (c, s) := s.handleRead h (off + codeStart hd) (4096 * field hd 8 4)
      match f, c with
      | some f, some c => (some ⟨f, c⟩, s)
      | _, _ => (none, s)

/-- The entry records of an image. -/
def ImageBytes.entryRecs (x : ImageBytes) : List (List Byte) :=
  (List.range (field x.front 6 2)).map fun k => (x.front.drop (128 + 32 * k)).take 32

/-- Check 1 beyond the header: the entry records, and zeros behind the signature. -/
def ImageBytes.formOk (x : ImageBytes) : Bool :=
  x.entryRecs.all entryOk && ((x.front.drop (manifestLen x.front + sigLen)).all (· == 0))

/-- The measurement of the manifest. -/
def ImageBytes.digest (x : ImageBytes) : BitVec 512 := sha3_512 (x.front.take (manifestLen x.front))

/-- Check 2: the signature. -/
def ImageBytes.signed (x : ImageBytes) : Bool :=
  Config.verifies (field x.front 14 1) x.digest ((x.front.drop (manifestLen x.front)).take sigLen)

/-- Checks 3 and 4. -/
def ImageBytes.fits (x : ImageBytes) : Bool :=
  let offs := x.entryRecs.map fun e => field e 16 4
  offs.all (fun o => decide (o < 4096 * field x.front 8 4)) && distinct offs &&
    (field x.front 16 4 == 0 || (x.front.drop 32).take 32 == featureBytes)

/-- The page hashes. -/
def ImageBytes.hashes (x : ImageBytes) : List Byte :=
  (x.front.drop (manifestLen x.front - 64 * field x.front 8 4)).take (64 * field x.front 8 4)

/-- Bytes written at offset 0 of a handle of this device's memory. -/
def State.serviceWrite (s : State) (h : Nat) (bs : List Byte) : Option State :=
  match s.handlePa h 0 bs.length true with
  | some (pa, none) => if addressable pa bs.length then some (s.writeHbm pa bs) else none
  | _ => none

/-- Two handles' first bytes share no memory. -/
def State.apart (s : State) (a m b n : Nat) : Bool :=
  !overlaps (handleBase (handleAt s.dev.handles a)) m (handleBase (handleAt s.dev.handles b)) n

/-- A checked image registered: code and hashes go to the regions of two handles that the service core chooses (free,
log 5), two regions that do not meet, and the lowest entry with V = 0 takes it. -/
def State.register (s : State) (x : ImageBytes) : State :=
  let (w, s) := s.freeWord
  let codeh := bitsN w 0 16
  let hashh := bitsN w 16 16
  let slot := (List.range 1024).find? fun i => !(s.image i).v
  let two := if s.apart codeh x.code.length hashh x.hashes.length then some s else none
  match slot, (two.bind fun s => s.serviceWrite codeh x.code).bind fun s => s.serviceWrite hashh x.hashes with
  | some i, some s =>
    let g := (s.image i).gen + 1
    let y : Image :=
      { v := true, rev := false, gen := g, npages := field x.front 8 4, codeh := BitVec.ofNat 16 codeh
        hashh := BitVec.ofNat 16 hashh, entries := x.entryRecs.map entryOf }
    (s.setImage i y).onDev fun d => { d with loaded := some (1024 * g.toNat + i) }
  | _, _ => s

/-- IMAGE_LOAD of the image at a handle reference: the checks of 17 R379 in order. `loaded` answers with the handle, or
with none where the load is refused. -/
def execImageLoad (addr : Nat) (s : State) : Host.Outcome State Fault Refusal :=
  let (x, t) := (s.onDev fun d => { d with loaded := none }).readImage (BitVec.ofNat 64 addr)
  .next (s.served (match x with
    | none => t
    | some x =>
      if !x.formOk || !x.signed then t
      else
        let t := t.onDev fun d => { d with sec := { d.sec with measures := d.sec.measures ++ [x.digest] } }
        if x.fits then t.register x else t))

/-- A gang of the image is resident or pre-empted; a checkpoint of a gang that has failed is neither. -/
def State.imageBusy (s : State) (handle : Nat) : Bool :=
  (s.tiles.any fun (_, t) => t.resident && t.img == handle) ||
    s.saves.any fun v => !v.checkpoint && v.members.any fun (_, t) => t.img == handle

/-- IMAGE_UNLOAD: every frame tagged with the entry's index is invalidated. -/
def execImageUnload (handle : Nat) (s : State) : Host.Outcome State Fault Refusal :=
  .next (s.served (if (s.named handle).isSome && !s.imageBusy handle then
      let i := handle % 1024
      let s := s.setImage i { s.image i with v := false }
      { s with tiles := s.tiles.map fun (k, t) =>
          (k, { t with frames := t.frames.map fun f => if f.tag.any fun (h, _) => h % 1024 == i then .empty else f }) }
    else s))

/-! ### Mailboxes (16 R362, R363) -/

/-- A request of the host's, performed by a service core: the driver's events, and no others. -/
def State.perform (s : State) (x : Service) : State :=
  match x.ev with
  | .mapWrite a v => after s (execMapWrite a v s)
  | .queueDescriptorWrite q f v => after s (execQueueDescriptorWrite q f v s)
  | .imageLoad a => after s (execImageLoad a s)
  | .imageUnload h => after s (execImageUnload h s)
  | .recordCancel q i => after s (execRecordCancel q i s)
  | .gangStop g => after s (execGangStop g s)
  | .gangResume c => after s (execGangResume c s)
  | .ctlPark t => after s (execCtlPark t s)
  | .ctlRelease t => after s (execCtlRelease t s)
  | .ctlStop t => after s (execCtlStop t s)
  | .supack c n => after s (execSupack c n s)
  | .boundaryRetrainCmd b m => after s (execBoundaryRetrainCmd b m s)
  | _ => s

def State.onMail (s : State) (core : Nat) (f : Mailbox → Mailbox) : State :=
  s.onDev fun d => { d with mail := vput d.mail core (f (vget .reset d.mail core)) }

/-- MAILBOX_DOORBELL: the requests in the ring, in order, each performed before the next. -/
def execMailboxDoorbell (core : Nat) (s : State) : Host.Outcome State Fault Refusal :=
  let rs := (vget .reset s.dev.mail core).requests
  .next (s.served (rs.foldl State.perform (s.onMail core fun m => { m with requests := [] })))

/-- The completion record of a notice. -/
def Notice.record (ns : Nat) : Notice → Option (W64 × W64)
  | .jobDone block st code => some (block, BitVec.ofNat 64 (st.toNat + code.toNat <<< 8 + (ns % 2 ^ 48) <<< 16))
  | _ => none

/-- JOB_COMPLETION_NOTICE: the oldest completion joins the completion ring, and the core raises its completion vector. -/
def execJobCompletionNotice (core : Nat) (s : State) : Host.Outcome State Fault Refusal :=
  let ns := s.ns
  .next (s.served (s.onMail core fun m =>
    match m.notices.find? fun n => (n.record ns).isSome with
    | some n =>
      match n.record ns with
      | some r => { m with notices := m.notices.erase n, done := m.done ++ [r], raised := m.raised + 1 }
      | none => m
    | none => m))

/-! ### Boot and attestation (16 R373, R374) -/

def State.onSec (s : State) (f : Security → Security) : State := s.onDev fun d => { d with sec := f d.sec }

/-- A measurement of firmware, which the spec does not give (free). -/
def State.freeDigest (s : State) : BitVec 512 × State :=
  (BitVec.ofNat 512 (packN 64 ((List.range 8).map fun k => (Config.freeWord (s.fresh + k)).toNat)),
    { s with fresh := s.fresh + 8 })

/-- A boot step that is verified: the firmware's measurement, signature and version are from outside (free). The version is
no lower than the fused counter. Where the check fails, the mailbox status words show the step (log 81). -/
def State.bootStep (s : State) (k : Nat) : State :=
  if s.dev.sec.failed.isSome ∨ s.dev.sec.booted + 1 ≠ k then s
  else
    let (d, s) := s.freeDigest
    let (sig, s) := s.freeBytes sigLen
    let (version, s) := s.freeWord
    if Config.verifies Config.firmwareKey d sig && decide (s.dev.sec.fuse.toNat ≤ version.toNat) then
      s.onSec fun x => { x with booted := k, measures := x.measures ++ [d] }
    else
      (s.onSec fun x => { x with failed := some k }).onDev fun x =>
        { x with mail := x.mail.map fun m => { m with status := BitVec.ofNat 64 k } }

/-- What the service cores write at boot: DEVID, and every slice's TKKEY from the random source (11 R237). -/
def State.bootRegs (s : State) : State :=
  let (w, s) := s.freeWord
  let s := s.onDev fun d => { d with devid := w.setWidth 20 }
  let s := (List.range 1024).foldl (fun s k =>
    s.onSlice k fun x => { x with tkkey := Config.random (s.fresh + k) }) s
  { s with fresh := s.fresh + 1024 }

/-- BOOT: ROM, security-processor firmware, service-core firmware; a failed check stops it. -/
def execBoot (s : State) : Host.Outcome State Fault Refusal :=
  .next (if s.dev.sec.booted ≠ 0 ∨ s.dev.sec.failed.isSome then s
    else
      let s := ((s.onSec fun x => { x with booted := 1 }).bootStep 2).bootStep 3
      if s.dev.sec.booted = 3 then s.bootRegs else s)

/-- ATTESTATION_REQUEST: device id, the host's nonce (from host memory at `addr`, free), fused counter, measurements, and
the signature over them (log 9). -/
def execAttestationRequest (addr : Nat) (s : State) : Host.Outcome State Fault Refusal :=
  .next (if s.dev.sec.booted < 2 ∨ s.dev.sec.failed.isSome = true then s
    else
      let (nonce, s) := s.freeBytes 32
      let x := s.dev.sec
      let body := bytesOf 8 (s.dev.devid.setWidth 64) ++ nonce ++ bytesOf 8 x.fuse ++ x.measures.flatMap (bytesOf 64)
      s.onSec fun x => { x with reports := x.reports ++ [(addr, body ++ Config.attest (sha3_512 body))] })

/-! ### Module reset (01 R6, 08 R186) -/

/-- A tile after module reset: memories and instruction frames are no registers and stand. -/
def Tile.moduleReset (t : Tile) : Tile :=
  { Tile.reset with spm := t.spm, badSpm := t.badSpm, frames := t.frames, nb := t.nb, nextId := t.nextId }

/-- A gang found CLAIMED after the reset has failed; no fatal fault stopped it. -/
def State.resetGang (s : State) (g : Gang) : State :=
  let g := match g.why with
    | some .integrity | some .cancelled => g
    | _ => { g with why := some (.failed false) }
  s.decide_ g false

/-- A notice of a record's completion, which is not lost (08 R189). -/
def Notice.isJob : Notice → Bool
  | .jobDone _ _ _ => true
  | .faultBuffer _ | .noSpare _ => false

/-- A cluster after module reset: the successors handed over are still owed to their queues, and HANDOVER shows none (08 R179,
R189). -/
def Cluster.moduleReset (c : Cluster) : Cluster :=
  { Cluster.reset with redo := c.redo, unretired := c.unretired, owed := c.handed }

/-- MODULE_RESET: every register at its reset value. HBM stands, and with it the records in it: a resident gang has
failed, and saved gangs, records to be placed again, retirements that wait, successors handed over and
notices of completions stay known (08 R189). -/
def execModuleReset (s : State) : Host.Outcome State Fault Refusal :=
  let s := s.gangs.foldl State.resetGang s
  .next { State.reset with
    hbm := s.hbm
    badHbm := s.badHbm
    softHbm := s.softHbm
    usable := s.usable
    tiles := s.tiles.map fun (k, t) => (k, t.moduleReset)
    clusters := s.clusters.map fun (k, c) => (k, c.moduleReset)
    saves := s.saves
    dev := { Device.reset with
      sec := { Device.reset.sec with fuse := s.dev.sec.fuse }
      mail := s.dev.mail.map fun m =>
        { Mailbox.reset with requests := m.requests, done := m.done, notices := m.notices.filter Notice.isJob } }
    cur := s.cur
    agenda := s.agenda
    fresh := s.fresh }

end Sys2Proof.Machine
end

