-- ==== Sys2Proof/Machine/Dispatch.lean ====
section
/-! DEFINITION. One arm per instruction. -/
namespace Sys2Proof.Machine

/-- The meaning of every instruction. -/
def exec (i : Instr) (s : State) : Host.Outcome State Fault Refusal :=
  match i with
  | .move h d => Sys2Proof.Machine.execMove h d s
  | .br h e => Sys2Proof.Machine.execBr h e s
  | .jmp h e => Sys2Proof.Machine.execJmp h e s
  | .call h e => Sys2Proof.Machine.execCall h e s
  | .ret h e => Sys2Proof.Machine.execRet h e s
  | .loop h e => Sys2Proof.Machine.execLoop h e s
  | .endTile h e => Sys2Proof.Machine.execEndTile h e s
  | .trap h e => Sys2Proof.Machine.execTrap h e s
  | .tret h e => Sys2Proof.Machine.execTret h e s
  | .add h u e => Sys2Proof.Machine.execAdd h u e s
  | .sub h u e => Sys2Proof.Machine.execSub h u e s
  | .and h u e => Sys2Proof.Machine.execAnd h u e s
  | .andn h u e => Sys2Proof.Machine.execAndn h u e s
  | .or h u e => Sys2Proof.Machine.execOr h u e s
  | .xor h u e => Sys2Proof.Machine.execXor h u e s
  | .shl h u e => Sys2Proof.Machine.execShl h u e s
  | .shr h u e => Sys2Proof.Machine.execShr h u e s
  | .sar h u e => Sys2Proof.Machine.execSar h u e s
  | .rol h u e => Sys2Proof.Machine.execRol h u e s
  | .min h u e => Sys2Proof.Machine.execMin h u e s
  | .minU h u e => Sys2Proof.Machine.execMinU h u e s
  | .max h u e => Sys2Proof.Machine.execMax h u e s
  | .maxU h u e => Sys2Proof.Machine.execMaxU h u e s
  | .cmpEq h u e => Sys2Proof.Machine.execCmpEq h u e s
  | .cmpNe h u e => Sys2Proof.Machine.execCmpNe h u e s
  | .cmpLt h u e => Sys2Proof.Machine.execCmpLt h u e s
  | .cmpLe h u e => Sys2Proof.Machine.execCmpLe h u e s
  | .cmpLtu h u e => Sys2Proof.Machine.execCmpLtu h u e s
  | .cmpLeu h u e => Sys2Proof.Machine.execCmpLeu h u e s
  | .sel h u e => Sys2Proof.Machine.execSel h u e s
  | .clz h u e => Sys2Proof.Machine.execClz h u e s
  | .popc h u e => Sys2Proof.Machine.execPopc h u e s
  | .bext h u e => Sys2Proof.Machine.execBext h u e s
  | .bins h u e => Sys2Proof.Machine.execBins h u e s
  | .sext h u e => Sys2Proof.Machine.execSext h u e s
  | .pand h u e => Sys2Proof.Machine.execPand h u e s
  | .por h u e => Sys2Proof.Machine.execPor h u e s
  | .pxor h u e => Sys2Proof.Machine.execPxor h u e s
  | .mul h e => Sys2Proof.Machine.execMul h e s
  | .mulh h e => Sys2Proof.Machine.execMulh h e s
  | .mulhU h e => Sys2Proof.Machine.execMulhU h e s
  | .mad h e => Sys2Proof.Machine.execMad h e s
  | .div h e => Sys2Proof.Machine.execDiv h e s
  | .divU h e => Sys2Proof.Machine.execDivU h e s
  | .rem h e => Sys2Proof.Machine.execRem h e s
  | .remU h e => Sys2Proof.Machine.execRemU h e s
  | .ldB h e => Sys2Proof.Machine.execLdB h e s
  | .ldH h e => Sys2Proof.Machine.execLdH h e s
  | .ldW h e => Sys2Proof.Machine.execLdW h e s
  | .ldD h e => Sys2Proof.Machine.execLdD h e s
  | .ldBz h e => Sys2Proof.Machine.execLdBz h e s
  | .ldHz h e => Sys2Proof.Machine.execLdHz h e s
  | .ldWz h e => Sys2Proof.Machine.execLdWz h e s
  | .stB h e => Sys2Proof.Machine.execStB h e s
  | .stH h e => Sys2Proof.Machine.execStH h e s
  | .stW h e => Sys2Proof.Machine.execStW h e s
  | .stD h e => Sys2Proof.Machine.execStD h e s
  | .stDRel h e => Sys2Proof.Machine.execStDRel h e s
  | .vld h e => Sys2Proof.Machine.execVld h e s
  | .vst h e => Sys2Proof.Machine.execVst h e s
  | .gld h e => Sys2Proof.Machine.execGld h e s
  | .sct h e => Sys2Proof.Machine.execSct h e s
  | .ldt h e => Sys2Proof.Machine.execLdt h e s
  | .ldtV h e => Sys2Proof.Machine.execLdtV h e s
  | .rdm h e => Sys2Proof.Machine.execRdm h e s
  | .rdmS h e => Sys2Proof.Machine.execRdmS h e s
  | .tkq h e => Sys2Proof.Machine.execTkq h e s
  | .tkx h e => Sys2Proof.Machine.execTkx h e s
  | .amoAdd h e => Sys2Proof.Machine.execAmoAdd h e s
  | .amoMin h e => Sys2Proof.Machine.execAmoMin h e s
  | .amoMax h e => Sys2Proof.Machine.execAmoMax h e s
  | .amoAnd h e => Sys2Proof.Machine.execAmoAnd h e s
  | .amoOr h e => Sys2Proof.Machine.execAmoOr h e s
  | .amoXor h e => Sys2Proof.Machine.execAmoXor h e s
  | .amoXchg h e => Sys2Proof.Machine.execAmoXchg h e s
  | .amoCas h e => Sys2Proof.Machine.execAmoCas h e s
  | .amoAddAcq h e => Sys2Proof.Machine.execAmoAddAcq h e s
  | .amoMinAcq h e => Sys2Proof.Machine.execAmoMinAcq h e s
  | .amoMaxAcq h e => Sys2Proof.Machine.execAmoMaxAcq h e s
  | .amoAndAcq h e => Sys2Proof.Machine.execAmoAndAcq h e s
  | .amoOrAcq h e => Sys2Proof.Machine.execAmoOrAcq h e s
  | .amoXorAcq h e => Sys2Proof.Machine.execAmoXorAcq h e s
  | .amoXchgAcq h e => Sys2Proof.Machine.execAmoXchgAcq h e s
  | .amoCasAcq h e => Sys2Proof.Machine.execAmoCasAcq h e s
  | .amoAddRel h e => Sys2Proof.Machine.execAmoAddRel h e s
  | .amoMinRel h e => Sys2Proof.Machine.execAmoMinRel h e s
  | .amoMaxRel h e => Sys2Proof.Machine.execAmoMaxRel h e s
  | .amoAndRel h e => Sys2Proof.Machine.execAmoAndRel h e s
  | .amoOrRel h e => Sys2Proof.Machine.execAmoOrRel h e s
  | .amoXorRel h e => Sys2Proof.Machine.execAmoXorRel h e s
  | .amoXchgRel h e => Sys2Proof.Machine.execAmoXchgRel h e s
  | .amoCasRel h e => Sys2Proof.Machine.execAmoCasRel h e s
  | .pref h e => Sys2Proof.Machine.execPref h e s
  | .spb h e => Sys2Proof.Machine.execSpb h e s
  | .fla h e => Sys2Proof.Machine.execFla h e s
  | .loc h e => Sys2Proof.Machine.execLoc h e s
  | .phaseT h e => Sys2Proof.Machine.execPhaseT h e s
  | .phaseG h e => Sys2Proof.Machine.execPhaseG h e s
  | .bar h e => Sys2Proof.Machine.execBar h e s
  | .fence h e => Sys2Proof.Machine.execFence h e s
  | .wait h e => Sys2Proof.Machine.execWait h e s
  | .slns h e => Sys2Proof.Machine.execSlns h e s
  | .twns h e => Sys2Proof.Machine.execTwns h e s
  | .tstmp h e => Sys2Proof.Machine.execTstmp h e s
  | .cycle h e => Sys2Proof.Machine.execCycle h e s
  | .enq h e => Sys2Proof.Machine.execEnq h e s
  | .join h e => Sys2Proof.Machine.execJoin h e s
  | .mode h e => Sys2Proof.Machine.execMode h e s
  | .srd h e => Sys2Proof.Machine.execSrd h e s
  | .swr h e => Sys2Proof.Machine.execSwr h e s
  | .send h e => Sys2Proof.Machine.execSend h e s
  | .sendP h e => Sys2Proof.Machine.execSendP h e s
  | .recv h e => Sys2Proof.Machine.execRecv h e s
  | .strm h e => Sys2Proof.Machine.execStrm h e s
  | .coll h e => Sys2Proof.Machine.execColl h e s
  | .cpy h e => Sys2Proof.Machine.execCpy h e s
  | .cpym h e => Sys2Proof.Machine.execCpym h e s
  | .cpnest h e => Sys2Proof.Machine.execCpnest h e s
  | .cpbuf h e => Sys2Proof.Machine.execCpbuf h e s
  | .cpadv h e => Sys2Proof.Machine.execCpadv h e s
  | .vadd h e => Sys2Proof.Machine.execVadd h e s
  | .vaddS h e => Sys2Proof.Machine.execVaddS h e s
  | .vsub h e => Sys2Proof.Machine.execVsub h e s
  | .vsubS h e => Sys2Proof.Machine.execVsubS h e s
  | .vmul h e => Sys2Proof.Machine.execVmul h e s
  | .vmad h e => Sys2Proof.Machine.execVmad h e s
  | .vand h e => Sys2Proof.Machine.execVand h e s
  | .vor h e => Sys2Proof.Machine.execVor h e s
  | .vxor h e => Sys2Proof.Machine.execVxor h e s
  | .vshl h e => Sys2Proof.Machine.execVshl h e s
  | .vshr h e => Sys2Proof.Machine.execVshr h e s
  | .vshrA h e => Sys2Proof.Machine.execVshrA h e s
  | .vmin h e => Sys2Proof.Machine.execVmin h e s
  | .vmax h e => Sys2Proof.Machine.execVmax h e s
  | .vabs h e => Sys2Proof.Machine.execVabs h e s
  | .vcmpEq h e => Sys2Proof.Machine.execVcmpEq h e s
  | .vcmpNe h e => Sys2Proof.Machine.execVcmpNe h e s
  | .vcmpLt h e => Sys2Proof.Machine.execVcmpLt h e s
  | .vcmpLe h e => Sys2Proof.Machine.execVcmpLe h e s
  | .vcmpLtu h e => Sys2Proof.Machine.execVcmpLtu h e s
  | .vcmpLeu h e => Sys2Proof.Machine.execVcmpLeu h e s
  | .vsel h e => Sys2Proof.Machine.execVsel h e s
  | .fadd h u e => Sys2Proof.Machine.execFadd h u e s
  | .fsub h u e => Sys2Proof.Machine.execFsub h u e s
  | .fmul h u e => Sys2Proof.Machine.execFmul h u e s
  | .ffma h u e => Sys2Proof.Machine.execFfma h u e s
  | .ffmaN h u e => Sys2Proof.Machine.execFfmaN h u e s
  | .ffms h u e => Sys2Proof.Machine.execFfms h u e s
  | .fmin h u e => Sys2Proof.Machine.execFmin h u e s
  | .fmax h u e => Sys2Proof.Machine.execFmax h u e s
  | .fabs h u e => Sys2Proof.Machine.execFabs h u e s
  | .fabsNeg h u e => Sys2Proof.Machine.execFabsNeg h u e s
  | .fabsSgn h u e => Sys2Proof.Machine.execFabsSgn h u e s
  | .fcmpEq h u e => Sys2Proof.Machine.execFcmpEq h u e s
  | .fcmpNe h u e => Sys2Proof.Machine.execFcmpNe h u e s
  | .fcmpLt h u e => Sys2Proof.Machine.execFcmpLt h u e s
  | .fcmpLe h u e => Sys2Proof.Machine.execFcmpLe h u e s
  | .fcmpUn h u e => Sys2Proof.Machine.execFcmpUn h u e s
  | .fcmpOrd h u e => Sys2Proof.Machine.execFcmpOrd h u e s
  | .fcvt h u e => Sys2Proof.Machine.execFcvt h u e s
  | .frnd h u e => Sys2Proof.Machine.execFrnd h u e s
  | .vperm h e => Sys2Proof.Machine.execVperm h e s
  | .vbcst h e => Sys2Proof.Machine.execVbcst h e s
  | .vredAdd h e => Sys2Proof.Machine.execVredAdd h e s
  | .vredMin h e => Sys2Proof.Machine.execVredMin h e s
  | .vredMax h e => Sys2Proof.Machine.execVredMax h e s
  | .vscanAdd h e => Sys2Proof.Machine.execVscanAdd h e s
  | .vcmpx h e => Sys2Proof.Machine.execVcmpx h e s
  | .vqnt h e => Sys2Proof.Machine.execVqnt h e s
  | .vqntSr h e => Sys2Proof.Machine.execVqntSr h e s
  | .vdqn h e => Sys2Proof.Machine.execVdqn h e s
  | .vcvt h e => Sys2Proof.Machine.execVcvt h e s
  | .ori2 h e => Sys2Proof.Machine.execOri2 h e s
  | .ori3 h e => Sys2Proof.Machine.execOri3 h e s
  | .incir h e => Sys2Proof.Machine.execIncir h e s
  | .insph h e => Sys2Proof.Machine.execInsph h e s
  | .segx h e => Sys2Proof.Machine.execSegx h e s
  | .gpst h e => Sys2Proof.Machine.execGpst h e s
  | .sfn h e => Sys2Proof.Machine.execSfn h e s
  | .sfrow h e => Sys2Proof.Machine.execSfrow h e s
  | .sfld h e => Sys2Proof.Machine.execSfld h e s
  | .sfcm h e => Sys2Proof.Machine.execSfcm h e s
  | .mlda h e => Sys2Proof.Machine.execMlda h e s
  | .mldb h e => Sys2Proof.Machine.execMldb h e s
  | .mma h e => Sys2Proof.Machine.execMma h e s
  | .mzro h e => Sys2Proof.Machine.execMzro h e s
  | .mrd h e => Sys2Proof.Machine.execMrd h e s
  | .mqrd h e => Sys2Proof.Machine.execMqrd h e s
  | .bundleIssue tile => Sys2Proof.Machine.execBundleIssue tile s
  | .streamEndEvent tile => Sys2Proof.Machine.execStreamEndEvent tile s
  | .resultLand tile => Sys2Proof.Machine.execResultLand tile s
  | .resultArrive tile id => Sys2Proof.Machine.execResultArrive tile id s
  | .linkWordArrive tile dir => Sys2Proof.Machine.execLinkWordArrive tile dir s
  | .linkCreditReturn tile dir => Sys2Proof.Machine.execLinkCreditReturn tile dir s
  | .linkCreditNotice tile dir => Sys2Proof.Machine.execLinkCreditNotice tile dir s
  | .linkMarkerArrive tile dir => Sys2Proof.Machine.execLinkMarkerArrive tile dir s
  | .codePageLoad tile => Sys2Proof.Machine.execCodePageLoad tile s
  | .codePagePrefetch tile => Sys2Proof.Machine.execCodePagePrefetch tile s
  | .spillEngineCycle tile => Sys2Proof.Machine.execSpillEngineCycle tile s
  | .spillTransferComplete tile => Sys2Proof.Machine.execSpillTransferComplete tile s
  | .syncOpComplete tile => Sys2Proof.Machine.execSyncOpComplete tile s
  | .barrierComplete gang => Sys2Proof.Machine.execBarrierComplete gang s
  | .checkpoint gang => Sys2Proof.Machine.execCheckpoint gang s
  | .readCacheFill tile line => Sys2Proof.Machine.execReadCacheFill tile line s
  | .tlbMissWalk tile id lane => Sys2Proof.Machine.execTlbMissWalk tile id lane s
  | .pageWalkComplete cluster slot => Sys2Proof.Machine.execPageWalkComplete cluster slot s
  | .invalAll cluster => Sys2Proof.Machine.execInvalAll cluster s
  | .invalPage cluster => Sys2Proof.Machine.execInvalPage cluster s
  | .replayAll cluster => Sys2Proof.Machine.execReplayAll cluster s
  | .failPage cluster => Sys2Proof.Machine.execFailPage cluster s
  | .tlbcmdDone cluster => Sys2Proof.Machine.execTlbcmdDone cluster s
  | .loadAtTarget tile id lane => Sys2Proof.Machine.execLoadAtTarget tile id lane s
  | .amoAtSlice tile id => Sys2Proof.Machine.execAmoAtSlice tile id s
  | .postedStorePerform tile id lane => Sys2Proof.Machine.execPostedStorePerform tile id lane s
  | .peerAccessCheck peer addr kind value => Sys2Proof.Machine.execPeerAccessCheck peer addr kind value s
  | .peerStoreAck tile id => Sys2Proof.Machine.execPeerStoreAck tile id s
  | .peerRequestTimeout tile id lane => Sys2Proof.Machine.execPeerRequestTimeout tile id lane s
  | .ticketAllocate tile id => Sys2Proof.Machine.execTicketAllocate tile id s
  | .ticketFetchComplete slice entry => Sys2Proof.Machine.execTicketFetchComplete slice entry s
  | .redeemAtSlice tile id => Sys2Proof.Machine.execRedeemAtSlice tile id s
  | .redeemDeliver slice entry => Sys2Proof.Machine.execRedeemDeliver slice entry s
  | .ticketClassifyAtSlice tile id => Sys2Proof.Machine.execTicketClassifyAtSlice tile id s
  | .ticketWatchdogPass slice => Sys2Proof.Machine.execTicketWatchdogPass slice s
  | .enqAtSlice tile id => Sys2Proof.Machine.execEnqAtSlice tile id s
  | .joinAtSlice tile id => Sys2Proof.Machine.execJoinAtSlice tile id s
  | .handoverEnqueue cluster => Sys2Proof.Machine.execHandoverEnqueue cluster s
  | .dispenserSelect cluster => Sys2Proof.Machine.execDispenserSelect cluster s
  | .reservationTake cluster => Sys2Proof.Machine.execReservationTake cluster s
  | .tileRelease tile => Sys2Proof.Machine.execTileRelease tile s
  | .gangRetire gang => Sys2Proof.Machine.execGangRetire gang s
  | .gangFail gang => Sys2Proof.Machine.execGangFail gang s
  | .recordCancel queue slot => Sys2Proof.Machine.execRecordCancel queue slot s
  | .unresponsiveTimeout tile => Sys2Proof.Machine.execUnresponsiveTimeout tile s
  | .quarantineEnd gang => Sys2Proof.Machine.execQuarantineEnd gang s
  | .gangStop gang => Sys2Proof.Machine.execGangStop gang s
  | .gangResume cluster => Sys2Proof.Machine.execGangResume cluster s
  | .ctlPark tile => Sys2Proof.Machine.execCtlPark tile s
  | .ctlRelease tile => Sys2Proof.Machine.execCtlRelease tile s
  | .ctlStop tile => Sys2Proof.Machine.execCtlStop tile s
  | .supack cluster n => Sys2Proof.Machine.execSupack cluster n s
  | .queueDescriptorWrite queue field value => Sys2Proof.Machine.execQueueDescriptorWrite queue field value s
  | .mapWrite addr value => Sys2Proof.Machine.execMapWrite addr value s
  | .mxOpStart tile => Sys2Proof.Machine.execMxOpStart tile s
  | .mxLoadReady tile => Sys2Proof.Machine.execMxLoadReady tile s
  | .mmaComplete tile => Sys2Proof.Machine.execMmaComplete tile s
  | .gpOpComplete tile => Sys2Proof.Machine.execGpOpComplete tile s
  | .sfOpComplete tile => Sys2Proof.Machine.execSfOpComplete tile s
  | .copyJobStart cluster slot => Sys2Proof.Machine.execCopyJobStart cluster slot s
  | .copyJobEnd cluster slot => Sys2Proof.Machine.execCopyJobEnd cluster slot s
  | .cbSlotFilled tile buf => Sys2Proof.Machine.execCbSlotFilled tile buf s
  | .collectiveComplete index => Sys2Proof.Machine.execCollectiveComplete index s
  | .sendAccepted tile => Sys2Proof.Machine.execSendAccepted tile s
  | .messageArrive tile => Sys2Proof.Machine.execMessageArrive tile s
  | .streamWordArrive tile dir => Sys2Proof.Machine.execStreamWordArrive tile dir s
  | .slnsExpire tile => Sys2Proof.Machine.execSlnsExpire tile s
  | .waitComplete tile => Sys2Proof.Machine.execWaitComplete tile s
  | .waitTimeout tile => Sys2Proof.Machine.execWaitTimeout tile s
  | .weirAlarm row => Sys2Proof.Machine.execWeirAlarm row s
  | .weirStretchEnd row => Sys2Proof.Machine.execWeirStretchEnd row s
  | .weirHalveEnd row => Sys2Proof.Machine.execWeirHalveEnd row s
  | .powerInterval row => Sys2Proof.Machine.execPowerInterval row s
  | .tileClockChange row mhz => Sys2Proof.Machine.execTileClockChange row mhz s
  | .flitCrcFail boundary module => Sys2Proof.Machine.execFlitCrcFail boundary module s
  | .moduleRetrain boundary module => Sys2Proof.Machine.execModuleRetrain boundary module s
  | .retrainComplete boundary module => Sys2Proof.Machine.execRetrainComplete boundary module s
  | .boundaryRetrainCmd boundary mask => Sys2Proof.Machine.execBoundaryRetrainCmd boundary mask s
  | .memoryScrub slice => Sys2Proof.Machine.execMemoryScrub slice s
  | .imageLoad addr => Sys2Proof.Machine.execImageLoad addr s
  | .imageUnload handle => Sys2Proof.Machine.execImageUnload handle s
  | .mailboxDoorbell core => Sys2Proof.Machine.execMailboxDoorbell core s
  | .jobCompletionNotice core => Sys2Proof.Machine.execJobCompletionNotice core s
  | .attestationRequest addr => Sys2Proof.Machine.execAttestationRequest addr s
  | .boot => Sys2Proof.Machine.execBoot s
  | .tileReset tile => Sys2Proof.Machine.execTileReset tile s
  | .moduleReset => Sys2Proof.Machine.execModuleReset s
  | .readCacheEviction tile line => Sys2Proof.Machine.execReadCacheEviction tile line s
  | .syashPortStateChange port state => Sys2Proof.Machine.execSyashPortStateChange port state s
  | .syashLinkRetry port => Sys2Proof.Machine.execSyashLinkRetry port s
  | .scoreHalving slice => Sys2Proof.Machine.execScoreHalving slice s

end Sys2Proof.Machine
end

