-- ==== Sys2Proof/Machine/Step.lean ====
section
/-! DEFINITION. One step: the next event of the agenda, or else the waiting bundle of the current tile. -/
namespace Sys2Proof.Machine

/-- The waiting bundle of the current tile, where it is a bundle of just one move. -/
def State.waitingMove (s : State) : Option Instr :=
  let t := s.tile s.cur
  let env := s.env s.cur
  if t.run = .running ∧ (t.boundary env).isNone = true then
    match t.fetch env with
    | .ok ⟨_, false, nlit, [i]⟩ =>
      match i.head? with
      | some h => if nlit = h.src.literals.length then some i else none
      | none => none
    | _ => none
  else none

/-- An agenda entry's time and memory errors come to pass. -/
def State.advance (s : State) (a : Sched) (rest : List Sched) : State :=
  let s := { s with
    ns := s.ns + a.dns
    agenda := rest
    badHbm := a.hbmErr.foldl (fun l g => put g false l) s.badHbm
    softHbm := s.softHbm ++ a.hbmFix }
  a.spErr.foldl (fun s (t, d) => s.onTile t fun x => { x with badSpm := d :: x.badSpm.filter (· != d) }) s

/-- One step. An agenda entry that is no event passes its time only. -/
def step (s : State) : Host.Outcome State Fault Refusal :=
  match s.agenda with
  | a :: rest => if a.ev.head?.isSome then .next (s.advance a rest) else exec a.ev (s.advance a rest)
  | [] =>
    match s.waitingMove with
    | some i => exec i s
    | none => exec (.bundleIssue s.cur) s

/-- The words of a bundle that holds one move word: its header with the first bus that can carry it, and zero literal
words. -/
def fetchWords (nbits w : Nat) : List W32 :=
  match decodeTableWord nbits w with
  | some i =>
    match i.head? with
    | some h =>
      let n := h.src.literals.length
      headerWord h.bus.mask n false :: BitVec.ofNat 32 w :: List.replicate n 0
    | none => [headerWord Bus.s0.mask 0 false, BitVec.ofNat 32 w]
  | none => [headerWord Bus.s0.mask 0 false, BitVec.ofNat 32 w]

/-- `s` with that bundle as the waiting bundle of the current tile: an image of one page is loaded, its page stands in
frame 0, and the tile runs it from offset 0 (log 7). -/
def State.withFetchWord (s : State) (nbits w : Nat) : State :=
  let bytes : List Byte := (fetchWords nbits w).flatMap (bytesOf 4)
  let s := s.setImage 0 { Image.reset with v := true, npages := 1 }
  let s := s.onTile s.cur fun t =>
    { t with
      run := .running, stopReq := false, parkReq := false, img := 0, pc := 0, via := .launch, pre := none, entering := none
      strm := t.strm.map fun x => { x with eos := false }
      frames := vput t.frames 0 ⟨some (0, 0), Mem.write [] 0 bytes, 0⟩ }
  { s with agenda := [] }

end Sys2Proof.Machine
end

