-- ==== Sys2Proof/Safety.lean ====
section
/-! DEFINITION. The terms in which claims are made: what a safe run is, the invariants that every step keeps, the current
tile at the start of its bundle, and when a bundle of one move issues. -/
namespace Sys2Proof.Machine

/-- The step goes on: it stops with no fault and no refusal. -/
def State.goesOn (s : State) : Prop := ∃ t, step s = .next t

/-! ### Invariants -/

/-- p0 is true and p1 false (05 R111); the reserved bits of FLM are zero (02 R36); LD is at most 32 (05 R101); an active
loop level stands on an active one (07 R153). -/
def Tile.ok (t : Tile) : Bool :=
  decide (t.p &&& 3 = 1) && decide (t.flm &&& ~~~0x4F0E = 0) && decide (t.ld ≤ 32) &&
    (List.range 3).all fun n => !lcActive t.lc (n + 1) || lcActive t.lc n

/-- Every tile is well-formed, and what a tile may come to be too: every saved member (15 R349), and every entry of an image,
whose live depth is at most 32 (03 R73, 17 R377). -/
def State.tilesOk (s : State) : Prop :=
  (∀ k, (s.tile k).ok = true) ∧ (∀ v ∈ s.saves, ∀ m ∈ v.members, m.2.ok = true) ∧
    ∀ i, ∀ e ∈ (s.image i).entries, e.ld ≤ 32

/-- HBM stands in its canonical form: addresses strictly rising, no byte listed that is zero. -/
def State.memOk (s : State) : Prop := s.hbm.wf = true

/-! ### What the engines reach -/

/-- The tile without what its engines and the results on their way may change before a bundle: CYC, the registers and the
scratchpad that the spill engine moves (05 R120), GP (14 R322), the result queues and the flags that arrivals raise, the
WAITs and SLNS intervals, what is left of the Weir's response (16 R366), the fixed-latency results and MX, and with the
scratchpad what lies under the destinations of collectives (log 79). -/
def Tile.still (t : Tile) : Tile :=
  { t with
    cyc := 0, g := Vector.replicate 64 0, v := Vector.replicate 32 .zero, spill := [], failed := [], spm := []
    colls := [], badSpm := [], dirty := 0, gp := ⟨[], none, none⟩, queues := Vector.replicate 7 [], fpc := 0, pre := none, waits := []
    slns := 0, slnsH := 0, weir := 0
    fixed := Vector.replicate 9 .empty, mx := .launch }

/-! ### The start of a bundle -/

/-- The module as a bundle of the current tile finds it: the WAITs that hold have completed (21 R496). -/
def State.ready (s : State) : State := s.waitsNow s.cur

/-- What the current tile sees of the module. -/
def State.view (s : State) : Env := s.ready.env s.cur

/-- The current tile at its bundle boundary: the cycle of its engines, its stamps and its counts is done. -/
def State.opening (s : State) : Tile := (s.ready.tile s.cur).tick s.view

/-- The current tile after the landings of its bundle: what the moves of the bundle read. -/
def State.landed (s : State) : Tile := s.opening.landings.1.startMx

/-- The header's address. -/
def State.header (s : State) : Nat := s.opening.pc.toNat

/-- What the move's source delivers. -/
def State.source (s : State) (h : Head) : Val := s.landed.srcVal s.view h.bus.kind h.src

/-- What the move's guard lets through. -/
def State.gateOf (s : State) (h : Head) : Gate := s.landed.gate h (s.landed.gateTag h.src (s.source h).tag)

/-- The current tile after its bundle's source has been read: what the source removes is gone (02 R38, R43, R49). -/
def State.read (s : State) (h : Head) : Tile := if Src.pops h.src then s.landed.srcPop h.src else s.landed

/-- What an operation of socket `k` reads: an operand entry, and T. -/
def State.operand (s : State) (k : Sock) (port : Nat) (e : Bool) : Val := s.landed.entry k port e
def State.trigger (s : State) (k : Sock) (h : Head) : Val := trigVal k h.bus.kind (s.source h)

/-- All that an operation samples. -/
def State.sampled (s : State) (h : Head) (sp : TrigSpec) : TCtx :=
  let m : Mv := ⟨h, .trig sp, s.source h, s.gateOf h⟩
  mkCtx s.view s.landed s.landed.opnd [m] s.header (2 + h.src.literals.length) m sp

/-! ### When a bundle of one move issues -/

/-- The bundle of the move performs END. -/
def State.ending (s : State) (h : Head) (a : Act) : Bool := s.opening.landings.1.ending s.view [(h, a)]

/-- What the bundle of the move reads: `landed`, or, where it performs END, the tile before MX's start (19 R412). -/
def State.found (s : State) (h : Head) (a : Act) : Tile := s.opening.landings.1.begin s.view [(h, a)]

/-- The move as evaluated, in a list: empty where the guard lets nothing through. -/
def State.moves (s : State) (h : Head) (a : Act) : List Mv := [(h, a)].filterMap ((s.found h a).evalMove s.view)

/-- What each trigger of the bundle samples. -/
def State.ctxOf (s : State) (h : Head) (a : Act) : Mv → TrigSpec → TCtx :=
  mkCtx s.view (s.found h a) (entriesAfter (s.found h a) (s.moves h a)) (s.moves h a) s.header (2 + h.src.literals.length)

/-- The bundle that holds just this move, waiting on the current tile, issues and its move is performed: the tile runs and
nothing is taken at its boundary; the guard lets the move through; no lock condition of 02 R46 holds; no page is needed;
and no cause of 15 R336 holds. -/
def State.issues (s : State) (h : Head) (a : Act) : Bool :=
  decide ((s.tile s.cur).run = .running) && (s.opening.boundary s.view).isNone &&
    !(s.opening.syncFault && s.opening.dfp && !s.opening.inh) && decide (s.gateOf h ≠ .off) && !(s.moves h a).isEmpty &&
    decide (s.opening.landings.1.boundLocks s.view (s.ending h a) ||| portLocks s.view (s.found h a) (s.moves h a) = 0) &&
    decide (trigLocks s.view (s.found h a) (s.ctxOf h a) (s.moves h a) = 0) &&
    ((firing (s.moves h a)).findSome? fun (m, x) => x.needPage (s.ctxOf h a m x)).isNone &&
    (firstCause s.view s.opening (s.found h a) s.opening.landings.2 (s.ctxOf h a) (s.moves h a)).isNone

/-- The bundle of one instruction issues. -/
def State.completes (s : State) (i : Instr) : Bool :=
  match actOf i with
  | some (h, a) => s.issues h a
  | none => false

/-- The waiting bundle of the current tile is `b`, of any number of moves, and issues: as `issues`, of all its moves together,
those whose guards let nothing through aside. -/
def State.bundleIssues (s : State) (b : Bundle) : Bool :=
  let is := b.moves.filterMap actOf
  let l := s.opening.landings
  let u := l.1.begin s.view is
  let ms := is.filterMap (u.evalMove s.view)
  let ctx := mkCtx s.view u (entriesAfter u ms) ms s.header b.len
  decide ((s.tile s.cur).run = .running) && (s.opening.boundary s.view).isNone &&
    (match s.opening.fetch s.view with
    | .ok c => decide (c = b)
    | .error _ => false) &&
    !(s.opening.syncFault && s.opening.dfp && !s.opening.inh) &&
    decide (l.1.boundLocks s.view (l.1.ending s.view is) ||| portLocks s.view u ms = 0) &&
    decide (trigLocks s.view u ctx ms = 0) && ((firing ms).findSome? fun (m, x) => x.needPage (ctx m x)).isNone &&
    (firstCause s.view s.opening u l.2 ctx ms).isNone

/-- The module after the bundle: the current tile as the bundle left it, its SLNS intervals counted down. -/
def State.settled (s : State) (w : Tile) : State :=
  s.ready.putTile s.cur { w with
    slns := countDown s.opening.slns w.slns, slnsH := countDown s.opening.slnsH w.slnsH }

/-! ### What a bundle leaves -/

/-- What every bundle changes beside its moves' own effects: registers at dead positions (05 R103), when its frame was
used (07 R161), the flow (07 R149 to R157), the counts of bundles and of triggers, the hold of a bundle that uses `spr`
on MX's load (12 R275), and the SLNS intervals counted down (20 R463). -/
structure Books where
  g : Vector W64 64
  frames : Vector Frame 16
  lc : Vector W64 4
  pc : Int
  via : Via
  nb : Nat
  nextId : Nat
  mx : Mx
  slns : Nat
  slnsH : Nat
  deriving DecidableEq, Repr

/-- The tile with a bundle's books. -/
def Tile.booked (v : Tile) (b : Books) : Tile :=
  { v with
    g := b.g, frames := b.frames, lc := b.lc, pc := b.pc, via := b.via, nb := b.nb, nextId := b.nextId, mx := b.mx
    slns := b.slns, slnsH := b.slnsH, pre := none }

/-- No active loop level ends at the current bundle (07 R153). -/
def State.noLoopEnd (s : State) (v : Tile) : Prop :=
  ∀ n, n < 4 → lcActive v.lc n = true → v.leAt n ≠ s.header

/-- The books of a bundle whose moves leave `v`, its flow aside: no g register reads otherwise; no frame holds other
code; one more bundle counts; no other change to MX than that its load may wait one bundle more. -/
structure Books.Kept (s : State) (v : Tile) (b : Books) : Prop where
  g : ∀ n, (v.booked b).gRead n = v.gRead n
  code : ∀ k, (vget .empty b.frames k).tag = (vget .empty v.frames k).tag ∧
    (vget .empty b.frames k).bytes = (vget .empty v.frames k).bytes
  nb : b.nb = v.nb + 1
  nextId : v.nextId ≤ b.nextId
  mx : b.mx = v.mx ∨ b.mx = v.mx.extend
  slns : b.slns = countDown s.opening.slns v.slns
  slnsH : b.slnsH = countDown s.opening.slnsH v.slnsH

/-- The books of a bundle that takes no transfer: where no loop level ends, the next bundle is its sequential successor
and the levels stand (04 R75, 07 R149); in every case levels and address are those of the loop step (07 R157). -/
structure Books.Fair (s : State) (h : Head) (v : Tile) (b : Books) : Prop extends Books.Kept s v b where
  flow : s.noLoopEnd v → b.lc = v.lc ∧ b.pc = s.landed.successor s.header (2 + h.src.literals.length) ∧ b.via = .seq
  levels : b.lc = (v.loopStep s.header).1.lc
  next : (b.pc, b.via) = match (v.loopStep s.header).2 with
    | some a => ((a : Int), .xfer s.header)
    | none => (s.landed.successor s.header (2 + h.src.literals.length), .seq)

/-- The move word issues and leaves the current tile as `v`, the books of its bundle aside; of the module, all else stays
as the bundle found it. -/
def State.finishes (s : State) (i : Instr) (h : Head) (v : Tile) : Prop :=
  ∃ b : Books, b.Fair s h v ∧ exec i s = .next (s.ready.setTile s.cur (v.booked b))

/-- The same for a transfer to address `a`: the levels from the one that ends at the bundle up go inactive (07 R157). -/
def State.transfers (s : State) (i : Instr) (v : Tile) (a : Int) : Prop :=
  ∃ b : Books, b.Kept s v ∧ (s.noLoopEnd v → b.lc = v.lc) ∧ b.lc = (v.loopPop s.header).lc ∧ b.pc = a ∧
    b.via = .xfer s.header ∧
    exec i s = .next (s.ready.setTile s.cur (v.booked b))

/-! ### Bundles that do not issue -/

/-- The bundle of this one move reaches the lock test: the tile runs, nothing is taken at the boundary, and no deferred
fault is delivered at the waiting bundle (10 R227). -/
def State.considers (s : State) : Bool :=
  decide ((s.tile s.cur).run = .running) && (s.opening.boundary s.view).isNone &&
    !(s.opening.syncFault && s.opening.dfp && !s.opening.inh)

/-- The lock conditions that hold for it (02 R46). -/
def State.locksOf (s : State) (h : Head) (a : Act) : BitVec 6 :=
  s.opening.landings.1.boundLocks s.view (s.ending h a) ||| portLocks s.view (s.found h a) (s.moves h a) |||
    trigLocks s.view (s.found h a) (s.ctxOf h a) (s.moves h a)

/-- What ends it instead of its effects: where no lock condition holds, the first cause (15 R336); where one holds, a
data-lock collision that its move does not clear, or what comes before it in the order of 15 R336 (02 R40). -/
def State.causeOf (s : State) (h : Head) (a : Act) : Option Trap :=
  if s.locksOf h a = 0 then firstCause s.view s.opening (s.found h a) s.opening.landings.2 (s.ctxOf h a) (s.moves h a)
  else heldCause s.view s.opening (s.found h a) s.opening.landings.2 (s.ctxOf h a) (s.moves h a)

/-- The bundle takes trap `x`. -/
def State.traps (s : State) (h : Head) (a : Act) (x : Trap) : Bool := s.considers && decide (s.causeOf h a = some x)

/-- The bundle takes trap `x`, or the deferred-store trap is delivered at it because a synchronising operation recorded a
fault (10 R227, item 2). -/
def State.takes (s : State) (h : Head) (a : Act) (x : Trap) : Bool :=
  s.traps h a x ||
    (decide ((s.tile s.cur).run = .running) && (s.opening.boundary s.view).isNone && s.opening.syncFault && s.opening.dfp &&
      !s.opening.inh && decide (x = s.opening.deferredTrap))

/-- The module with the current tile as it waits: its engines and counts have gone on, its bundle has not. -/
def State.waits (s : State) : State :=
  s.ready.setTile s.cur { s.opening with
    slns := countDown s.opening.slns s.opening.slns, slnsH := countDown s.opening.slnsH s.opening.slnsH }

end Sys2Proof.Machine
end

