-- ==== Sys2Proof/Certificates/Slice0/Obligations.lean ====
section
/-! DEFINITION. What the model's provers are to prove, one proposition for each statement, and the tables the statements
range over. -/
open Sys2Proof Sys2Proof.Machine

namespace Sys2Proof.Claims

/-! ### Scalar results -/

/-- The IA operations: what each computes from O0[e], O1[e] and T (R389, R394, R395, R398, R399, R402, R403, R438, R444,
R446, R448, R454, R455, R459, R461, R470, R497). -/
def ia : List ((Head → Bool → Bool → Instr) × (W64 → W64 → W64 → W64)) :=
  [(.add, fun a _ t => BitVec.ofNat 64 (a.toNat + t.toNat)),
   (.sub, fun a _ t => BitVec.ofInt 64 (a.toNat - t.toNat)),
   (.and, fun a _ t => a &&& t),
   (.andn, fun a _ t => a &&& ~~~t),
   (.or, fun a _ t => a ||| t),
   (.xor, fun a _ t => a ^^^ t),
   (.shl, fun a _ t => BitVec.ofNat 64 (a.toNat * 2 ^ (t.toNat % 64))),
   (.shr, fun a _ t => BitVec.ofNat 64 (a.toNat / 2 ^ (t.toNat % 64))),
   (.sar, fun a _ t => BitVec.ofInt 64 (a.toInt / 2 ^ (t.toNat % 64))),
   (.rol, fun a _ t => a.rotateLeft (t.toNat % 64)),
   (.min, fun a _ t => if a.toInt ≤ t.toInt then a else t),
   (.minU, fun a _ t => if a.toNat ≤ t.toNat then a else t),
   (.max, fun a _ t => if t.toInt ≤ a.toInt then a else t),
   (.maxU, fun a _ t => if t.toNat ≤ a.toNat then a else t),
   (.cmpEq, fun a _ t => if a = t then 1 else 0),
   (.cmpNe, fun a _ t => if a ≠ t then 1 else 0),
   (.cmpLt, fun a _ t => if a.toInt < t.toInt then 1 else 0),
   (.cmpLe, fun a _ t => if a.toInt ≤ t.toInt then 1 else 0),
   (.cmpLtu, fun a _ t => if a.toNat < t.toNat then 1 else 0),
   (.cmpLeu, fun a _ t => if a.toNat ≤ t.toNat then 1 else 0),
   (.sel, fun a b t => if t.getLsbD 0 then a else b),
   (.clz, fun _ _ t => BitVec.ofNat 64 ((List.range 64).takeWhile fun k => !t.getLsbD (63 - k)).length),
   (.popc, fun _ _ t => BitVec.ofNat 64 ((List.range 64).filter fun k => t.getLsbD k).length),
   (.bext, fun a _ t =>
      let n := min (t.toNat / 2 ^ 8 % 128) (64 - t.toNat % 64)
      let f := a.toNat / 2 ^ (t.toNat % 64) % 2 ^ n
      if t.getLsbD 15 ∧ 0 < n then BitVec.ofInt 64 (signedN n f) else BitVec.ofNat 64 f),
   (.bins, fun a b t =>
      let n := min (t.toNat / 2 ^ 8 % 128) (64 - t.toNat % 64)
      let m := BitVec.ofNat 64 ((2 ^ n - 1) * 2 ^ (t.toNat % 64))
      (a &&& ~~~m) ||| (BitVec.ofNat 64 (b.toNat * 2 ^ (t.toNat % 64)) &&& m)),
   (.sext, fun a _ t =>
      let n := a.toNat % 128
      if n = 0 then 0 else if 64 ≤ n then t else BitVec.ofInt 64 (signedN n t.toNat)),
   (.pand, fun a _ t => if a ≠ 0 ∧ t ≠ 0 then 1 else 0),
   (.por, fun a _ t => if a ≠ 0 ∨ t ≠ 0 then 1 else 0),
   (.pxor, fun a _ t => if (a ≠ 0) ↔ t = 0 then 1 else 0)]

/-- The IM operations: latency and value (R411, R437, R443, R452). -/
def im : List ((Head → Bool → Instr) × Nat × (W64 → W64 → W64 → W64)) :=
  [(.mul, 3, fun a _ t => BitVec.ofNat 64 (a.toNat * t.toNat)),
   (.mulh, 3, fun a _ t => BitVec.ofInt 64 (a.toInt * t.toInt / 2 ^ 64)),
   (.mulhU, 3, fun a _ t => BitVec.ofNat 64 (a.toNat * t.toNat / 2 ^ 64)),
   (.mad, 4, fun a b t => BitVec.ofNat 64 (a.toNat * b.toNat + t.toNat)),
   (.div, 18, fun a _ t => if t = 0 then BitVec.allOnes 64 else BitVec.ofInt 64 (a.toInt.tdiv t.toInt)),
   (.divU, 18, fun a _ t => if t = 0 then BitVec.allOnes 64 else BitVec.ofNat 64 (a.toNat / t.toNat)),
   (.rem, 18, fun a _ t => if t = 0 then a else BitVec.ofInt 64 (a.toInt - a.toInt.tdiv t.toInt * t.toInt)),
   (.remU, 18, fun a _ t => if t = 0 then a else BitVec.ofNat 64 (a.toNat - a.toNat / t.toNat * t.toNat))]

/-! ### Vector results -/

/-- The guard of the bundle lets element `i` of `w` bits through: a lane guard selects a byte of it (R113). -/
def picked (s : State) (h : Head) (w i : Nat) : Bool :=
  match s.gateOf h with
  | .lanes m _ => (List.range (w / 8)).any fun k => m.getLsbD (i * (w / 8) + k)
  | _ => true

/-- The format F of the data operands: the first tag that is not NONE, and every operand has it or NONE (R410, R471). -/
def formatOf (tags : List Tag) (f : Tag) : Prop :=
  tags.find? (· != .raw) = some f ∧ ∀ k ∈ tags, k = .raw ∨ k = f

/-- An element read under F's signedness. -/
def readAs (f : Tag) (w x : Nat) : Int :=
  if f.isSigned ∧ 2 ^ (w - 1) ≤ x then (x : Int) - (2 ^ w : Nat) else (x : Int)

/-- F's range (R125). -/
def least (f : Tag) (w : Nat) : Int := if f.isSigned then -((2 ^ (w - 1) : Nat) : Int) else 0
def greatest (f : Tag) (w : Nat) : Int := (if f.isSigned then (2 ^ (w - 1) : Nat) else (2 ^ w : Nat)) - 1

/-- The VA arithmetic: latency, how many entries it reads, whether it clamps, and the exact result from the width, a, b'
and b read under F's signedness (R471, R479, R125, R127, R129). -/
def va : List ((Head → Bool → Instr) × Nat × Nat × Bool × (Nat → Int → Int → Int → Int)) :=
  [(.vadd, 1, 1, false, fun _ a _ t => a + t), (.vaddS, 1, 1, true, fun _ a _ t => a + t),
   (.vsub, 1, 1, false, fun _ a _ t => a - t), (.vsubS, 1, 1, true, fun _ a _ t => a - t),
   (.vmul, 3, 1, false, fun _ a _ t => a * t), (.vmad, 3, 2, false, fun _ a b t => a * b + t),
   (.vshl, 1, 1, false, fun w a _ t => a * 2 ^ (t % w).toNat),
   (.vshr, 1, 1, false, fun w a _ t => a % 2 ^ w / 2 ^ (t % w).toNat),
   (.vshrA, 1, 1, false, fun w a _ t => Int.bmod a (2 ^ w) / 2 ^ (t % w).toNat),
   (.vmin, 1, 1, false, fun _ a _ t => if a ≤ t then a else t), (.vmax, 1, 1, false, fun _ a _ t => if t ≤ a then a else t),
   (.vabs, 1, 0, false, fun _ _ _ t => if 0 ≤ t then t else -t)]

/-- The bitwise operations of VA (R480). -/
def vbit : List ((Head → Bool → Instr) × (Bool → Bool → Bool)) :=
  [(.vand, fun a t => a && t), (.vor, fun a t => a || t), (.vxor, fun a t => a != t)]

/-- The VCMP conditions: whether they compare as signed values, and when they hold (R481). -/
def vcmp : List ((Head → Bool → Instr) × Bool × (Int → Int → Bool)) :=
  [(.vcmpEq, false, fun a t => decide (a = t)), (.vcmpNe, false, fun a t => decide (a ≠ t)),
   (.vcmpLt, true, fun a t => decide (a < t)), (.vcmpLe, true, fun a t => decide (a ≤ t)),
   (.vcmpLtu, false, fun a t => decide (a < t)), (.vcmpLeu, false, fun a t => decide (a ≤ t))]

/-- The PRED row of the outcomes `out` of elements of `w` bits (R481). -/
def IsPred (w : Nat) (out : Nat → Bool) (d : BitVec 1024) : Prop :=
  ∀ k, k < 1024 → d.getLsbD k =
    if w = 8 then (if k < 64 then out (2 * k) && out (2 * k + 1) else decide (128 ≤ k ∧ k < 256) && out (k - 128))
    else decide (k < 1024 / w) && out k

/-- The flags `fl` are those of the elements that are computed. -/
def IsFlags (n : Nat) (on : Nat → Bool) (each : Nat → Flags) (fl : Flags) : Prop :=
  ∀ b, b < 7 → fl.getLsbD b = (List.range n).any fun i => on i && (each i).getLsbD b

/-- The lesser (`up` false) or greater of two FP elements (R422). -/
def fpExtreme (up : Bool) (f : Fmt) (a t : Nat) : FRes :=
  let x := f.decode a
  let y := f.decode t
  let below := fun (p q : Fp) => Fp.cmp p q = .lt ∨ (Fp.cmp p q = .eq ∧ p.sign = true ∧ q.sign = false)
  ⟨if x.isNan then (if y.isNan then f.nan else t)
   else if y.isNan then a
   else if (if up then below x y else below y x) then t else a,
   if x.isSig ∨ y.isSig then flNV else 0⟩

/-- The VF arithmetic: latency, how many entries it reads, and an element's result (R33, R414, R415, R420, R422). -/
def vf : List ((Head → Bool → Bool → Instr) × Nat × Nat × (Fmt → RMode → Nat → Nat → Nat → FRes)) :=
  [(.fadd, 4, 1, fun f m a _ t => f.finish m (Fp.add m (f.decode a) (f.decode t))),
   (.fsub, 4, 1, fun f m a _ t => f.finish m (Fp.add m (f.decode a) (f.decode t).neg)),
   (.fmul, 4, 1, fun f m a _ t => f.finish m (Fp.mul (f.decode a) (f.decode t))),
   (.ffma, 5, 2, fun f m a b t => f.finish m (Fp.fma m (f.decode a) (f.decode b) (f.decode t))),
   (.ffmaN, 5, 2, fun f m a b t => f.finish m (Fp.fma m (f.decode a).neg (f.decode b) (f.decode t))),
   (.ffms, 5, 2, fun f m a b t => f.finish m (Fp.fma m (f.decode a) (f.decode b) (f.decode t).neg)),
   (.fmin, 2, 1, fun f _ a _ t => fpExtreme false f a t), (.fmax, 2, 1, fun f _ a _ t => fpExtreme true f a t),
   (.fabs, 2, 0, fun f _ _ _ t => ⟨t % 2 ^ (f.width - 1), 0⟩),
   (.fabsNeg, 2, 0, fun f _ _ _ t => ⟨2 ^ (f.width - 1) + t % 2 ^ (f.width - 1), 0⟩),
   (.fabsSgn, 2, 1, fun f _ a _ t => ⟨t / 2 ^ (f.width - 1) * 2 ^ (f.width - 1) + a % 2 ^ (f.width - 1), 0⟩)]

/-- The FCMP conditions: when they hold for ordered operands, whether for unordered ones, and whether a quiet NaN raises
NV (R416). -/
def fcmp : List ((Head → Bool → Bool → Instr) × (Ordering → Bool) × Bool × Bool) :=
  [(.fcmpEq, fun o => o = .eq, false, false), (.fcmpNe, fun o => o ≠ .eq, true, false),
   (.fcmpLt, fun o => o = .lt, false, true), (.fcmpLe, fun o => o ≠ .gt, false, true),
   (.fcmpUn, fun _ => false, true, false), (.fcmpOrd, fun _ => true, false, false)]

/-- The socket of a VF unit. -/
def vfUnit (u : Bool) : Sock := if u then .vf1 else .vf0

/-- A mode field of a control word: 0 is RMODE as it stood, 1 to 4 one of the four modes (R417, R423, R484). -/
def modeField (s : State) (m : Nat) : RMode :=
  if m = 0 then RMode.of (s.landed.fpc.setWidth 2) else RMode.of (BitVec.ofNat 2 (m - 1))

/-- Where an element of a conversion comes from (R418): the part of the source that a narrower source fills the result
from, or the part of the result that a narrower result fills. -/
def fromPart (ws wt part i : Nat) : Option Nat :=
  if ws < wt then some (part * (1024 / wt) + i)
  else if i / (1024 / ws) = part ∨ ws = wt then some (i % (1024 / ws))
  else none

/-- The sidecar of a result that takes operand `k`'s tag: four scales under a BFM tag, zero under any other (R106). -/
def sideOf (k : Val) : BitVec 192 := if k.tag.bfm = none then 0 else (k.side.setWidth 96).setWidth 192

/-- R137: an element as an operation makes it under a tag: a byte of a BFM row has bits [7:m] as copies of bit m - 1. -/
def asMade (t : Tag) (x : Nat) : Nat :=
  match t.bfm with
  | some m => bfmByte m x
  | none => x

/-- The bit of a 64-bit mask that governs element `i` of `w` bits (R112). -/
def governs (m : W64) (w i : Nat) : Bool := m.getLsbD (if w = 8 then i / 2 else i)

/-- Segment `j` of `g` of the elements that a VX reduction takes: an element the guard leaves out is the identity (R490). -/
def segment (x : Nat → Nat) (g j : Nat) : List Nat := (List.range g).map fun k => x (j * g + k)

/-- The reductions: the identity and the merge of two elements, for FP and for integer formats (R490, R491). -/
def vred : List ((Head → Bool → Instr) × (Fmt → Nat) × (Fmt → Nat → Nat → FRes) ×
    (Tag → Nat → Nat) × (Tag → Nat → Nat → Nat → Nat)) :=
  [(.vredAdd, fun f => 2 ^ (f.width - 1), fun f a b => f.add .rne a b, fun _ _ => 0,
      fun _ w a b => (a + b) % 2 ^ w),
   (.vredMin, fun f => f.infBits false, fun f a b => fpExtreme false f a b, fun t w => (greatest t w % 2 ^ w).toNat,
      fun t w a b => if readAs t w a ≤ readAs t w b then a else b),
   (.vredMax, fun f => f.infBits true, fun f a b => fpExtreme true f a b, fun t w => (least t w % 2 ^ w).toNat,
      fun t w a b => if readAs t w b ≤ readAs t w a then a else b)]

/-! ### Operations that take a place in a result queue -/

/-- What an operation samples and a place keeps. -/
def sampledOps (s : State) (h : Head) (k : Sock) (e : Bool) (opc : BitVec 6) : Opnds :=
  ⟨s.trigger k h, s.operand k 0 e, s.operand k 1 e, (s.operand k 0 false).lo, (s.operand k 0 true).lo,
    (s.operand k 1 false).lo, (s.operand k 1 true).lo, e, opc⟩

/-- The tile with a new place, not yet valid, at the tail of result queue `k` (R42). -/
def placed (t : Tile) (k : Nat) (rtag : Tag) (o : Opnds) : Tile :=
  { t with queues := vput t.queues k (vget [] t.queues k ++ [⟨t.nextId, false, .zero, false, .zero, 0, t.inh, false, rtag, o⟩]) }

/-- The tile with a new request. -/
def asked (t : Tile) (kind : ReqKind) (o : Opnds) (lanes : List Lane) : Tile :=
  { t with reqs := t.reqs ++ [⟨t.nextId, t.nb, kind, o, lanes, none⟩] }

/-- The loads of AU that make one access: opcode, alignment and length, kind, and the tag of their result (R431, R434,
R243). -/
def loads : List ((Head → Bool → Instr) × BitVec 6 × Nat × Nat × ReqKind × Tag) :=
  [(.ldB, 0x00, 1, 1, .load 1 true, .i64), (.ldH, 0x01, 2, 2, .load 2 true, .i64), (.ldW, 0x02, 4, 4, .load 4 true, .i64),
   (.ldD, 0x03, 8, 8, .load 8 true, .i64), (.ldBz, 0x04, 1, 1, .load 1 false, .ui64),
   (.ldHz, 0x05, 2, 2, .load 2 false, .ui64), (.ldWz, 0x06, 4, 4, .load 4 false, .ui64),
   (.ldt, 0x18, 8, 8, .ldt false, .raw), (.ldtV, 0x19, 128, 128, .ldt true, .raw), (.loc, 0x3B, 1, 1, .loc, .raw)]

/-- The atomics: opcode, operation and ordering (R390). -/
def amos : List ((Head → Bool → Instr) × BitVec 6 × AmoOp × AmoOrd) :=
  [(.amoAdd, 0x20, .add, .relaxed), (.amoMin, 0x21, .min, .relaxed), (.amoMax, 0x22, .max, .relaxed),
   (.amoAnd, 0x23, .and, .relaxed), (.amoOr, 0x24, .or, .relaxed), (.amoXor, 0x25, .xor, .relaxed),
   (.amoXchg, 0x26, .xchg, .relaxed), (.amoCas, 0x27, .cas, .relaxed),
   (.amoAddAcq, 0x28, .add, .acq), (.amoMinAcq, 0x29, .min, .acq), (.amoMaxAcq, 0x2A, .max, .acq),
   (.amoAndAcq, 0x2B, .and, .acq), (.amoOrAcq, 0x2C, .or, .acq), (.amoXorAcq, 0x2D, .xor, .acq),
   (.amoXchgAcq, 0x2E, .xchg, .acq), (.amoCasAcq, 0x2F, .cas, .acq),
   (.amoAddRel, 0x30, .add, .rel), (.amoMinRel, 0x31, .min, .rel), (.amoMaxRel, 0x32, .max, .rel),
   (.amoAndRel, 0x33, .and, .rel), (.amoOrRel, 0x34, .or, .rel), (.amoXorRel, 0x35, .xor, .rel),
   (.amoXchgRel, 0x36, .xchg, .rel), (.amoCasRel, 0x37, .cas, .rel)]

/-- The scalar stores: opcode, length and kind (R467). -/
def stores : List ((Head → Bool → Instr) × BitVec 6 × Nat × ReqKind) :=
  [(.stB, 0x08, 1, .store), (.stH, 0x09, 2, .store), (.stW, 0x0A, 4, .store), (.stD, 0x0B, 8, .store),
   (.stDRel, 0x0C, 8, .storeRel)]

/-- The bytes and the alignment of a row in memory (R139, R485). -/
def rowBytes (t : Tag) : Nat := if t.bfm = none then 128 else 140
def rowUnit (t : Tag) : Nat := if t.bfm = none then 128 else 256

/-- The accesses of GLD and SCT: lane i stands at T plus its index under SHIFT, for each bit of the lane mask (R424). -/
def gathered (base k : W64) (ix : Val) (w : Nat) (data : Nat → BitVec 1120) : List Lane :=
  ((List.range (1024 / w)).filter fun i => k.getLsbD (32 + i)).map fun i =>
    let x := BitVec.ofNat 32 (elem ix.row 32 i)
    ⟨i, base + ((if ix.tag = .i32 then x.signExtend 64 else x.setWidth 64) <<< bitsN k 8 4), w / 8, .issue, data i⟩

/-! ### Memory at its targets -/

/-- The value an atomic leaves in memory (R391): `c` is O1[e], whose bit 0 makes MIN and MAX unsigned. -/
def amoAfter (op : AmoOp) (old v c : W64) : W64 :=
  let key := fun x : W64 => if c.getLsbD 0 then (x.toNat : Int) else x.toInt
  match op with
  | .add => BitVec.ofNat 64 (old.toNat + v.toNat)
  | .min => if key v < key old then v else old
  | .max => if key old < key v then v else old
  | .and => old &&& v
  | .or => old ||| v
  | .xor => old ^^^ v
  | .xchg => v
  | .cas => if old = c then v else old

/-- What the access `idx` of a request has come to: its state and its bytes. -/
def laneOf (t : Tile) (id idx : Nat) : Option (LaneSt × BitVec 1120) := (t.lane? id idx).map fun x => (x.2.st, x.2.data)

/-- Where the exposure of a gang is to be written (R182): word 4 of its slot, when it is not exposed yet and its slot can be
reached and written. -/
def slotToExpose (s : State) (x : Option Gang) : Option Nat :=
  match x with
  | some g => if g.exposed then none else (s.slotBase g.queue g.slot).map fun b => b + 64 * g.slot + 32
  | none => none

/-- The same of the gang that is resident on tile `k`. -/
def exposureAt (s : State) (k : Nat) : Option Nat := slotToExpose s (s.gangOf k)

/-- Address `a` is no byte of that word; no byte of `n` at `a` is. -/
def offExposure (s : State) (k a n : Nat) : Prop := ∀ w, exposureAt s k = some w → a + n ≤ w ∨ w + 8 ≤ a

/-- The gang of tile `k` is exposed, in its slot too: that word has gained bit 6, EXPOSED (R182). -/
def Exposed (s u : State) (k : Nat) : Prop :=
  (∀ g, s.gangOf k = some g → ∃ x, u.gangOf k = some x ∧ x.exposed = true) ∧
    ∀ w, exposureAt s k = some w → u.hbm.double w = s.hbm.double w ||| 0x40

end Sys2Proof.Claims

open Sys2Proof.Claims

/-- R388, R389, R394, R395, R398, R399, R402, R403, R438, R444, R446, R448, R454, R455, R459, R461, R470, R497, the IA
operations: the value that each rule gives, from O0[e], O1[e] and T as 64-bit words, is on its way with a latency of one bundle, untagged, with no flag, and
the bundle changes nothing else. -/
def Obligations.IaResults : Prop :=
  ∀ x ∈ ia, ∀ (s : State) (h : Head) (u e : Bool), s.completes (x.1 h u e) = true →
    ∃ opc, s.finishes (x.1 h u e) h
      ((s.read h).fly (if u then 2 else 1) 1
        (.ofScalar (x.2 (s.operand (iaSock u) 0 e).lo (s.operand (iaSock u) 1 e).lo (s.trigger (iaSock u) h).lo)) 0 opc)

/-- R411, R436, R437, R443, R452, the IM operations: the value that each rule gives is on its way to IM's port with the
latency of the operation, untagged, with no flag, and the bundle changes nothing else. -/
def Obligations.ImResults : Prop :=
  ∀ x ∈ im, ∀ (s : State) (h : Head) (e : Bool), s.completes (x.1 h e) = true →
    ∃ opc, s.finishes (x.1 h e) h
      ((s.read h).fly 3 x.2.1
        (.ofScalar (x.2.2 (s.operand .im 0 e).lo (s.operand .im 1 e).lo (s.trigger .im h).lo)) 0 opc)

/-! ### Plain moves -/

/-- R99, R102, R103, R441: a move into a g register. The name is resolved before the bundle; g0 and a name at a dead
position take nothing. -/
def Sys2Proof.Claims.MoveWritesG : Prop :=
  ∀ (s : State) (h : Head) (i : BitVec 6), s.completes (.move h (.g i)) = true →
    ∃ g, s.finishes (.move h (.g i)) h { s.read h with g := g } ∧
      ∀ j, ({ s.read h with g := g } : Tile).gRead j =
        if j = i ∧ i ≠ 0 ∧ s.landed.gDead i = false then (s.source h).lo else (s.read h).gRead j

/-- R105, R113, R441: a move into a v register, whole or in the bytes of the selected lanes. -/
def Sys2Proof.Claims.MoveWritesV : Prop :=
  ∀ (s : State) (h : Head) (i : BitVec 5), s.completes (.move h (.v i)) = true →
    ∃ r : VReg, s.finishes (.move h (.v i)) h { s.read h with v := vput (s.read h).v i.toNat r } ∧
      r.tag = (s.source h).tag ∧ r.side = (s.source h).side.setWidth 96 ∧
      (s.gateOf h = .all → r.data = (s.source h).row) ∧
      ∀ m b, s.gateOf h = .lanes m b → ∀ k, k < 128 →
        elem r.data 8 k = if m.getLsbD k then elem (s.source h).row 8 k else elem (vget .zero s.landed.v i.toNat).data 8 k

/-- R111, R113: a move into a predicate pair writes the value and its complement; pair 0 takes nothing. -/
def Sys2Proof.Claims.MoveWritesPairs : Prop :=
  (∀ (s : State) (h : Head) (n : BitVec 4), s.completes (.move h (.p n)) = true →
    ∃ p, s.finishes (.move h (.p n)) h { s.read h with p := p } ∧
      ∀ k, k < 16 → p.getLsbD k =
        if 2 ≤ n.toNat ∧ k = n.toNat then (s.source h).lo.getLsbD 0
        else if 2 ≤ n.toNat ∧ k = Nat.xor n.toNat 1 then !(s.source h).lo.getLsbD 0
        else (s.read h).p.getLsbD k) ∧
  ∀ (s : State) (h : Head) (n : BitVec 3), s.completes (.move h (.q n)) = true →
    ∃ q : Vector W64 8, s.finishes (.move h (.q n)) h { s.read h with q := q } ∧
      ∀ k, k < 8 → ∀ b, b < 64 → (vget 0 q k).getLsbD b =
        let picked := match s.gateOf h with
          | .lanes _ bits => bits.getLsbD b
          | _ => true
        if k = n.toNat ∧ picked = true then (s.source h).lo.getLsbD b
        else if k = Nat.xor n.toNat 1 ∧ picked = true then !(s.source h).lo.getLsbD b
        else (vget 0 (s.read h).q k).getLsbD b

/-- Plain moves into g and v registers and predicate pairs. -/
def Obligations.MoveWritesRegisters : Prop :=
  MoveWritesG ∧ MoveWritesV ∧ MoveWritesPairs

/-- R90, R101, R114, R155, R334: a move into a special register: the writable bits of RRC, FLM, FPC, TVEC, TPC, TCAUSE,
TADDR, TSTAT, LE and LS take the value, the reserved ones keep theirs; LC as R155 says; every other special register
takes nothing. -/
def Obligations.MoveWritesSpecial : Prop :=
  ∀ (s : State) (h : Head) (r : SReg), s.completes (.move h (.spec r)) = true →
    let x := (s.source h).lo
    let t := s.read h
    s.finishes (.move h (.spec r)) h
      (match r with
      | .rrc => { t with rrc := if 32 < bitsN x 8 6 then (x &&& 0x1F) ||| 0x2000 else x &&& 0x3F1F }
      | .flm => { t with flm := x &&& 0x4F0E }
      | .fpc => { t with fpc := x &&& 0x7F03 }
      | .tvec => { t with tvec := x &&& 0x3FFFFFFD }
      | .tpc => { t with tpc := x &&& 0x3FFFFFFF }
      | .tcause => { t with tcause := x &&& 0xFFFF7EFF }
      | .taddr => { t with taddr := x }
      | .tstat => { t with tstat := (t.tstat &&& 0x9F0000000000FFFF) ||| (x &&& 0x60FFFFFFFFFF0000) }
      | .lc n => { t with lc := lcWrite t.lc n.toNat x }
      | .le n => { t with le := vput t.le n.toNat (x &&& 0x3FFFFFFC) }
      | .ls n => { t with ls := vput t.ls n.toNat (x &&& 0x3FFFFFFC) }
      | _ => t)

/-- R52, R264: a move into a link sends a word and uses a credit; a move into `spr` writes the 288-byte row record at WP,
which moves on; every other byte of the scratchpad stays. -/
def Sys2Proof.Claims.MoveWritesPorts : Prop :=
  (∀ (s : State) (h : Head) (d : Dir), s.completes (.move h (.link d)) = true →
    let l := (s.read h).link d.num
    s.finishes (.move h (.link d)) h
      ((s.read h).setLink d.num { l with credit := l.credit - 1, wire := l.wire ++ [.word (s.source h).lo] })) ∧
  ∀ (s : State) (h : Head), s.completes (.move h .spr) = true → (s.read h).spm.wf = true →
    let u := (s.read h).spmWrite s.landed.mx.wp (s.source h).rowRecord
    s.finishes (.move h .spr) h { u with mx := { u.mx with wp := s.landed.mx.wp + 288 } } ∧
      u.spm.read s.landed.mx.wp 288 = (s.source h).rowRecord ∧
      ∀ a, (a < s.landed.mx.wp ∨ s.landed.mx.wp + 288 ≤ a) → u.spm.get a = (s.read h).spm.get a

/-- R24, R26, R30, R113: a move into an operand entry changes that entry alone. -/
def Sys2Proof.Claims.MoveWritesEntry : Prop :=
  ∀ (s : State) (h : Head) (k : Sock) (n : BitVec 2) (e : Bool), s.completes (.move h (.opnd k n e)) = true →
    ∃ x : Val, s.finishes (.move h (.opnd k n e)) h
        { s.read h with opnd := vput (s.read h).opnd (opndIdx k n.toNat e) x } ∧
      (s.gateOf h = .all → x = entryVal k n.toNat h.bus.kind (s.source h)) ∧
      ∀ m b, s.gateOf h = .lanes m b →
        x.tag = (entryVal k n.toNat h.bus.kind (s.source h)).tag ∧
        x.side = (entryVal k n.toNat h.bus.kind (s.source h)).side ∧
        ∀ j, j < 128 → elem x.data 8 j =
          if m.getLsbD j then elem (entryVal k n.toNat h.bus.kind (s.source h)).data 8 j
          else elem (s.landed.entry k n.toNat e).data 8 j

/-- R38, R43, R49, R264, R265, R306, R309: what reading a source delivers and removes, once a bundle. A fixed-latency port is
read and keeps its value; a result queue loses its head, the oldest place of the level that runs; a link queue its word, whose
credit goes back; the inbox the message's next word, header first, and a stream queue its row; `gl` moves its cursor, `spr`
its pointer by 288; any other source keeps what it has. -/
def Sys2Proof.Claims.SourcesRemove : Prop :=
  ∀ (s : State) (h : Head), let t := s.landed
    (∀ k r i, h.src = .res k r → fixedIdx k = some i → s.read h =
      t.setFixed i { t.fixedAt i with port := { (t.fixedAt i).port with unread := false } }) ∧
    (∀ k r i, h.src = .res k r → fixedIdx k = none → queueIdx k r = some i → ∀ before x after,
      t.queue i = before ++ x :: after → (∀ y ∈ before, y.hp ≠ t.inh) → x.hp = t.inh →
      s.read h = { t with queues := vput t.queues i (before ++ after) }) ∧
    (∀ d w rest, h.src = .port (.link d) → (t.link d.num).queue = w :: rest → (s.source h).lo = w ∧
      s.read h = t.setLink d.num { t.link d.num with queue := rest, back := (t.link d.num).back ++ [.credit] }) ∧
    (h.src = .port .inbox →
      (∀ m rest, t.taking = none → t.inbox = m :: rest → (s.source h).lo = m.hdr ∧
        s.read h = { t with inbox := rest, taking := if m.words = [] then none else some (m, 1) }) ∧
      ∀ m k w, t.taking = some (m, k + 1) → m.words[k]? = some w → (s.source h).lo = w ∧
        s.read h = { t with taking := if k + 1 < m.words.length then some (m, k + 2) else none }) ∧
    (∀ q r rest, h.src = .port (.sq q) → (t.strmAt q.num).rows = r :: rest →
      s.source h = .ofRow r (Tag.ofCode ((t.strmAt q.num).bind.extractLsb' 8 6)) ∧
      s.read h = { t with strm := vput t.strm q.num { t.strmAt q.num with rows := rest } }) ∧
    (h.src = .port .gl → s.read h = { t with mx := { t.mx with cursor := (t.mx.cursor + 1) % 8 } } ∧
      s.source h = ⟨(vget .zero t.mx.latch.rows t.mx.cursor).data, t.mx.latchTag, (vget .zero t.mx.latch.rows t.mx.cursor).side⟩) ∧
    (h.src = .port .spr → s.read h = { t with mx := { t.mx with rp := t.mx.rp + 288 } } ∧
      s.source h = .ofRowRecord (t.spm.read t.mx.rp 288)) ∧
    ((∀ k r, h.src ≠ .res k r) → (∀ x, h.src ≠ .port x) → s.read h = t)

/-- Plain moves into links, the scratchpad row port and operand entries, and what a source's reading removes. -/
def Obligations.MoveWritesPortsAndEntries : Prop :=
  MoveWritesPorts ∧ MoveWritesEntry ∧ SourcesRemove

/-! ### Guards, locks and traps -/

/-- R82, R46: a bundle whose one move has a false guard, and which no lock and no due cause holds, issues and has no
effect of any kind. -/
def Sys2Proof.Claims.FalseGuardHasNoEffect : Prop :=
  ∀ (s : State) (i : Instr) (h : Head) (a : Act), actOf i = some (h, a) → s.gateOf h = .off →
    s.considers = true → s.opening.landings.1.boundLocks s.view false = 0 → s.opening.landings.2 = [] →
    (s.opening.inh = true ∨ s.opening.mxError = false) → s.finishes i h s.landed

/-- R46, R47, R40, R336: a waiting bundle that a lock condition holds, with no data-lock collision that its move leaves, does not
issue: nothing of the tile changes but what its engines and its counts do, and nothing else of the module. With such a
collision it ends with the first cause: a deferred fault or a faulted result, the error of MX's load, a check of its ports and
its trigger, the collision. That a trigger is not checked while a lock holds what it samples is the model's reading (log 15). -/
def Sys2Proof.Claims.LockedBundleWaits : Prop :=
  ∀ (s : State) (i : Instr) (h : Head) (a : Act), actOf i = some (h, a) → s.considers = true → s.locksOf h a ≠ 0 →
    (overrun s.opening.landings.2 (s.moves h a) = false → exec i s = .next s.waits) ∧
    (overrun s.opening.landings.2 (s.moves h a) = true → ∃ x, s.traps h a x = true ∧
      let early := earlyCause s.opening (s.found h a) (s.moves h a)
      let check := fun m => heldTrap s.view (s.found h a) (s.ctxOf h a) (s.moves h a) m
      (∀ y, early = some y → x = y) ∧
      (early = none → ∀ y, s.opening.mxErrorTrap = some y → x = y) ∧
      (early = none → s.opening.mxErrorTrap = none → ∀ m, s.moves h a = [m] → ∀ y, check m = some y → x = y) ∧
      (early = none → s.opening.mxErrorTrap = none → (∀ m ∈ s.moves h a, check m = none) → x.code = 0x07))

/-- A false guard, and a held bundle. -/
def Obligations.BundlesWithoutEffect : Prop :=
  FalseGuardHasNoEffect ∧ LockedBundleWaits

/-- R334 to R341, R227, R278: a trap at a bundle, with a handler and INH 0: the bundle has no effect; the four trap
registers hold what R334, R335 and R339 say; INH is 1 and RSOL 0; the next bundle is the handler's; the fixed-latency
results of the eight sockets are captured with their offsets and emptied, and MX's cursor, RP and WP (R279); a deferred fault that is delivered gives the
first store's address, and its record and DFP are cleared; the error of MX's load gives the load's first address, and is
delivered once; the rest of the tile stands as it stood before the landings of the bundle, and the rest of the module as
it was. -/
def Sys2Proof.Claims.TrapEntersHandler : Prop :=
  ∀ (s : State) (i : Instr) (h : Head) (a : Act) (x : Trap), actOf i = some (h, a) → s.takes h a x = true →
    s.opening.inh = false → s.opening.tvec.getLsbD 0 = true →
    (∃ w, s.opening.codeWord (bitsN s.opening.tvec 2 28 * 4) = some w ∧ w.getLsbD 31 = true) →
    ∃ t, exec i s = .next (s.ready.setTile s.cur t) ∧
      t.tpc = BitVec.ofInt 64 (s.opening.pc % 2 ^ 30) ∧
      bitsN t.tcause 0 8 = x.code.toNat ∧ bitsN t.tcause 9 1 = (if x.res2 then 1 else 0) ∧
      bitsN t.tcause 10 5 = x.sock.toNat ∧ bitsN t.tcause 16 16 = x.swcode.toNat ∧ t.taddr = x.addr ∧
      t.inh = true ∧ t.rsol = 0 ∧ bitsN t.tstat 32 8 = x.aux.toNat ∧ bitsN t.tstat 16 16 = x.lmask.toNat ∧
      (∀ d, s.opening.deferred = some d →
        bitsN t.tstat 48 8 = min d.count 0xFF ∧ bitsN t.tstat 40 8 = d.cause.toNat) ∧
      (∀ d, s.opening.deferred = some d → x = s.opening.deferredTrap →
        bitsN t.tcause 0 8 = 0x1A ∧ t.taddr = d.addr ∧ t.deferred = none ∧ t.dfp = false ∧
        bitsN t.tstat 32 8 = if d.cause = 0x11 then d.aux.toNat else 0) ∧
      (s.opening.mxErrorTrap = some x → bitsN t.tcause 0 8 = 0x14 ∧ bitsN t.tcause 10 5 = Sock.mx.num.toNat ∧
        t.mxError = false ∧ ∀ l, s.opening.mx.load = some l →
          t.taddr = BitVec.ofNat 64 ((l.op.ranges.head?.map (·.1)).getD 0)) ∧
      t.pc = bitsN s.opening.tvec 2 28 * 4 ∧ t.via = .xfer (bitsN s.opening.tvec 2 28 * 4) ∧ t.resTrap = x.onResult ∧
      (∀ k, k < 8 → t.fixedAt k = ⟨.empty, [], some (s.opening.fixedAt k).port,
        (s.opening.fixedAt k).pipe.map fun y => { y with due := y.due - s.opening.nb }⟩) ∧
      ∃ fx, { t with fixed := fx } =
        { s.opening with
          tpc := t.tpc, tcause := t.tcause, taddr := t.taddr, tstat := t.tstat, pc := t.pc, via := t.via
          resTrap := t.resTrap, fixed := fx, pre := none
          mxKept := some (s.opening.mx.cursor, s.opening.mx.rp, s.opening.mx.wp)
          deferred := if x.onResult = false ∧ x.code = 0x1A then none else s.opening.deferred
          syncFault := if x.onResult = false ∧ x.code = 0x1A then false else s.opening.syncFault
          mx :=
            if x.onResult = false ∧ x.code = 0x14 ∧ x.sock = Sock.mx.num ∧ s.opening.mxError = true then
              { s.opening.mx with load := s.opening.mx.load.map fun l => { l with bad := false } }
            else s.opening.mx
          slns := countDown s.opening.slns s.opening.slns, slnsH := countDown s.opening.slnsH s.opening.slnsH }

/-- R334, R335, R337, R344: a trap that finds no handler is fatal: with INH 1, code 0x31 with the trap's code as AUX and the
bundle's header address in TADDR; with TVEC.EN 0, code 0x32 with the trap's code in AUX[6:0] and AUX[7] 0; where the word
that TVEC names has S = 0, code 0x32 with AUX[7] 1; TADDR is then 0 (log 94). The tile parks with that report and keeps its
registers, and a record that was to be delivered too (log 93); the report reaches the cluster's supervisor while its ring has
room. -/
def Sys2Proof.Claims.TrapWithoutHandlerParks : Prop :=
  ∀ (s : State) (i : Instr) (h : Head) (a : Act) (x : Trap), actOf i = some (h, a) → s.takes h a x = true →
    (s.tile s.cur).report = none → s.cur < 16384 → let o := s.opening; let handler := bitsN o.tvec 2 28 * 4
    (o.inh = true ∨ o.tvec.getLsbD 0 = false ∨
      (handler < s.view.codeLen ∧ ∃ w, o.codeWord handler = some w ∧ w.getLsbD 31 = false)) →
    ∃ r : Report, r.w1 = (if o.inh then 0x31 else 0x32) ∧
      bitsN r.w0 0 32 = s.cur % 2 ^ 32 ∧
      bitsN r.w0 32 8 = (if o.inh then x.code.toNat
        else (if o.tvec.getLsbD 0 then 128 else 0) + x.code.toNat % 128) ∧
      r.w2 = BitVec.ofInt 64 (o.pc % 2 ^ 30) ∧ r.w3 = (if o.inh then BitVec.ofInt 64 (o.pc % 2 ^ 30) else 0) ∧
      exec i s = .next ((s.waits.onTile s.cur fun t => { t with run := .parked, report := some r }).reported s.cur r) ∧
      (((s.cluster (clusterOf s.cur)).supring.length < 64) →
        ∀ t, exec i s = .next t → (t.cluster (clusterOf s.cur)).supring =
          (s.cluster (clusterOf s.cur)).supring ++ [r])

/-- The waiting bundle holds just this move word, and comes to the checks of its trigger: the tile runs, nothing is taken at the
boundary, the guard lets the move through, no lock condition holds, no earlier cause does, and its source delivers. -/
def Sys2Proof.Claims.Tested (s : State) (i : Instr) (h : Head) (a : Act) : Prop :=
  actOf i = some (h, a) ∧ s.considers = true ∧ s.moves h a ≠ [] ∧ s.locksOf h a = 0 ∧
    earlyCause s.opening (s.found h a) (s.moves h a) = none ∧ s.opening.mxErrorTrap = none ∧
    (s.found h a).srcTrap s.view h.src = none

/-- R44, R109, R266, R273, R282, R311, R335, R341, R390, R391, R424, R431, R467, R485, R494, the checks of a trigger at its bundle: the
cause and the socket that the bundle traps with (what taking the trap does is R334's), and that it has no effect. A misaligned
address and a control word with a bad field are invalid operands; a tag that the operation does not take is a format trap and
names the tag; a scratchpad range that reaches SPADK * 1024 is an access fault at the range; a full queue overflows, a matrix
queue with a code of its own. -/
def Sys2Proof.Claims.OperandTraps : Prop :=
  ∀ (s : State) (i : Instr) (h : Head) (e : Bool) (a : Act), Tested s i h a →
    let takes := fun (c : BitVec 8) (k : Sock) => ∃ x : Trap, s.traps h a x = true ∧ x.code = c ∧ x.sock = k.num
    let ranged := fun (k : Sock) (off : Nat) => ∃ x : Trap, s.traps h a x = true ∧ x.code = 0x12 ∧ x.sock = k.num ∧
      x.addr = BitVec.ofNat 64 off
    let refused := fun (k : Sock) (t : Tag) => ∃ x : Trap, s.traps h a x = true ∧ x.code = 0x05 ∧ x.sock = k.num ∧
      x.aux = t.code.setWidth 8
    let limit := s.landed.spadk * 1024
    let full := fun n d => d ≤ (s.landed.queue n).length
    -- AU
    let t := (s.trigger .au h).lo.toNat
    let o0 := (s.operand .au 0 e).lo
    let o1 := s.operand .au 1 e
    (∀ x ∈ loads, i = x.1 h e → (t % x.2.2.1 ≠ 0 → takes 0x06 .au) ∧ (t % x.2.2.1 = 0 → full 0 32 → takes 0x08 .au)) ∧
    (∀ x ∈ amos, i = x.1 h e →
      (t % 8 ≠ 0 ∨ (x.2.2.1 = .min ∨ x.2.2.1 = .max) ∧ 2 ≤ o1.lo.toNat → takes 0x06 .au) ∧
      (t % 8 = 0 → o1.lo.toNat < 2 → full 0 32 → takes 0x08 .au)) ∧
    (∀ x ∈ stores, i = x.1 h e → t % x.2.2.1 ≠ 0 → takes 0x06 .au) ∧
    (i = .vld h e → 64 ≤ o0.toNat ∨ (Tag.ofCode (o0.setWidth 6)).code ≠ o0.setWidth 6 ∨
      t % rowUnit (Tag.ofCode (o0.setWidth 6)) ≠ 0 → takes 0x06 .au) ∧
    (i = .vst h e → t % rowUnit o1.tag ≠ 0 → takes 0x06 .au) ∧
    (i = .gld h e ∨ i = .sct h e →
      (o1.tag ≠ .i32 → o1.tag ≠ .ui32 → refused .au o1.tag) ∧
      (o1.tag = .i32 ∨ o1.tag = .ui32 →
        (bitsN o0 12 20 ≠ 0 ∨ bitsN o0 6 2 ≠ 0 ∨ 6 < bitsN o0 8 4 ∨
          Tag.ofCode (o0.setWidth 6) ∉ [Tag.i32, .ui32, .fp32, .i64, .ui64, .fp64] → takes 0x06 .au) ∧
        ∀ w, w = 32 ∧ Tag.ofCode (o0.setWidth 6) ∈ [Tag.i32, .ui32, .fp32] ∨
            w = 64 ∧ Tag.ofCode (o0.setWidth 6) ∈ [Tag.i64, .ui64, .fp64] →
          (∃ l ∈ gathered (s.trigger .au h).lo o0 o1 w (fun _ => 0), l.addr.toNat % (w / 8) ≠ 0) ∨
            2 ^ (1024 / w) ≤ bitsN o0 32 32 → takes 0x06 .au)) ∧
    -- VA and VF
    (∀ x ∈ va, i = x.1 h e → 1 ≤ x.2.2.1 →
      let f := s.operand .va 0 e
      let g := s.trigger .va h
      f.tag ≠ .raw → g.tag ≠ .raw → f.tag ≠ g.tag → takes 0x05 .va) ∧
    (∀ x ∈ vf, ∀ u, i = x.1 h u e → 1 ≤ x.2.2.1 →
      let f := s.operand (vfUnit u) 0 e
      let g := s.trigger (vfUnit u) h
      f.tag ≠ .raw → g.tag ≠ .raw → f.tag ≠ g.tag → takes 0x05 (vfUnit u)) ∧
    -- MX
    (let m := (s.trigger .mx h).lo
      let busy := 8 ≤ s.landed.mx.queue.length
      (i ∈ [Instr.mlda h e, .mldb h e, .mma h e, .mzro h e, .mrd h e, .mqrd h e] → s.landed.inh = true → takes 0x06 .mx) ∧
      (s.landed.inh = false →
        (i = .mma h e → (m &&& 0xFFFFFFF0 ≠ 0 → takes 0x06 .mx) ∧ (m &&& 0xFFFFFFF0 = 0 → busy → takes 0x09 .mx)) ∧
        (i = .mlda h e → (m &&& 0xFFFFFF0E ≠ 0 ∨ bitsN m 4 4 < 2 ∨ 8 < bitsN m 4 4 → takes 0x06 .mx) ∧
          (m &&& 0xFFFFFF0E = 0 → 2 ≤ bitsN m 4 4 → bitsN m 4 4 ≤ 8 →
            ∀ n, n < 32 → let x := elem ((s.operand .mx 0 e).data.setWidth 512) 16 n
              x < 2 ^ 15 → limit < 8 * x + 72 → takes 0x12 .mx)) ∧
        (i = .mldb h e → m &&& 0x8000FF0C = 0 → 2 ≤ bitsN m 4 4 → bitsN m 4 4 ≤ 8 →
          (m.getLsbD 1 = false → limit < 8 * bitsN m 16 15 + 2304 → ranged .mx (8 * bitsN m 16 15)) ∧
          (m.getLsbD 1 = true → (bitsN m 16 15 ≠ 0 → takes 0x06 .mx) ∧
            (bitsN m 16 15 = 0 → (∃ n, n < 8 ∧ (s.operand .mx (n / 2) (n % 2 == 1)).tag ≠ Tag.ofBfm (bitsN m 4 4)) →
              takes 0x05 .mx))))) ∧
    -- GP and SF
    (∀ x ∈ [(Instr.ori2 h e, 3, 2), (.ori3 h e, 4, 3), (.incir h e, 4, 2), (.insph h e, 5, 3), (.segx h e, 4, 2)], i = x.1 →
      let off := (s.trigger .gp h).lo.toNat
      let k := (s.operand .gp 1 e).lo
      let len := x.2.1 * x.2.2 * 16 * (if k.getLsbD 0 then 4 else 8) + if k.getLsbD 1 then 128 * x.2.1 else 0
      let bad := off % 64 ≠ 0 ∨ 2 ^ 16 ≤ (s.operand .gp 0 e).lo.toNat ∨ 8 ≤ k.toNat
      (bad → takes 0x06 .gp) ∧ (¬bad → limit < off + len → ranged .gp off) ∧
        (¬bad → off + len ≤ limit → full 4 4 ∨ full 5 4 → takes 0x08 .gp)) ∧
    (i = .sfn h e → let x := s.trigger .sf h
      ((x.tag.fmt = none ∨ s.landed.sf.cm = true ∧ x.tag = .fp64) → refused .sf x.tag) ∧
      (x.tag.fmt ≠ none → s.landed.sf.cm = false → 256 ≤ (s.operand .sf 0 e).lo.toNat → takes 0x06 .sf)) ∧
    -- CP and CH: cards, nests and payloads
    (i = .cpy h e ∨ i = .cpym h e → let off := (s.trigger .cp h).lo.toNat
      (off % 64 ≠ 0 → takes 0x06 .cp) ∧ (off % 64 = 0 → limit < off + 64 → ranged .cp off)) ∧
    (i = .cpnest h e → let off := (s.trigger .cp h).lo.toNat
      (8 ≤ (s.operand .cp 0 e).lo.toNat ∨ off % 256 ≠ 0 → takes 0x06 .cp) ∧
        ((s.operand .cp 0 e).lo.toNat < 8 → off % 256 = 0 → limit < off + 256 → ranged .cp off)) ∧
    (i = .send h e ∨ i = .sendP h e → let w := (s.trigger .ch h).lo
      let off := (s.operand .ch 0 e).lo.toNat
      (bitsN w 60 2 ≠ 0 ∨ bitsN w 32 4 ≠ 0 ∨ bitsN w 14 2 ≠ 0 ∨ 8 < bitsN w 56 4 ∨ off % 8 ≠ 0 → takes 0x06 .ch) ∧
        (sendOk (i = .sendP h e) w = true → off % 8 = 0 → 0 < bitsN w 56 4 → limit < off + 8 * bitsN w 56 4 → ranged .ch off))

/-- R76, R96, R150, R163, what the fetch of the waiting bundle traps with, of a tile that has a handler and runs none: outside the code
segment the fetch fault, at the target, or at the header of the transfer to a target that no 30 bits hold; at a word that
starts no bundle the misaligned target, at the transferring bundle's header, or, where no transfer led there, the illegal
encoding with check code 1; at a bundle that breaks a check, the illegal encoding with the check's code and the offset of
the word. That a launched entry's TADDR is its own address is the model's reading (log 57). -/
def Sys2Proof.Claims.FetchTraps : Prop :=
  ∀ (s : State), let o := s.opening
    (s.tile s.cur).run = .running → o.boundary s.view = none → o.inh = false → o.tvec.getLsbD 0 = true →
    (∃ w, o.codeWord (bitsN o.tvec 2 28 * 4) = some w ∧ w.getLsbD 31 = true) →
    let enters := fun (code aux : Nat) (addr : W64) =>
      ∃ t, exec (.bundleIssue s.cur) s = .next (s.ready.setTile s.cur t) ∧ bitsN t.tcause 0 8 = code ∧ bitsN t.tstat 32 8 = aux ∧
        t.taddr = addr ∧ t.tpc = BitVec.ofInt 64 (o.pc % 2 ^ 30) ∧ t.inh = true ∧ t.rsol = 0 ∧
        t.pc = bitsN o.tvec 2 28 * 4 ∧ t.g = o.g ∧ t.spm = o.spm
    let n := o.pc.toNat
    (o.pc < 0 ∨ (s.view.codeLen : Int) ≤ o.pc →
      (o.via = .seq ∨ o.via = .launch → enters 0x03 0 (BitVec.ofInt 64 (o.pc % 2 ^ 30))) ∧
      ∀ b, o.via = .xfer b → enters 0x03 0 (if 0 ≤ o.pc ∧ o.pc < 2 ^ 30 then BitVec.ofInt 64 o.pc else BitVec.ofNat 64 b)) ∧
    (0 ≤ o.pc → o.pc < s.view.codeLen → (n % 4 ≠ 0 ∨ ∃ w, o.codeWord n = some w ∧ w.getLsbD 31 = false) →
      (∀ b, o.via = .xfer b → enters 0x02 0 (BitVec.ofNat 64 b)) ∧ (o.via = .launch → enters 0x02 0 (BitVec.ofNat 64 n)) ∧
        (o.via = .seq → enters 0x01 0x10 (BitVec.ofNat 64 n))) ∧
    (0 ≤ o.pc → o.pc < s.view.codeLen → n % 4 = 0 → (∃ w, o.codeWord n = some w ∧ w.getLsbD 31 = true) →
      ∀ c off, decodeBundle (o.packetFrom n) = .error (c, off) → enters 0x01 ((16 * c + off) % 256) (BitVec.ofNat 64 n))

/-- Taking a trap, with a handler and without; the traps of a trigger's operands and of the fetch. That the error of MX's load gives the load's first address is the model's reading
(log 24), and that DCNT and DCAUSE hold the deferred record at every entry is too (log 29, with R334 and R475). -/
def Obligations.TrapEntry : Prop :=
  TrapEntersHandler ∧ TrapWithoutHandlerParks ∧ OperandTraps ∧ FetchTraps

/-! ### Control -/

/-- R149 to R151, R400, R401, R429, R453: BR and CALL go to their header plus T[30:0] in two's complement, JMP and RET to
T; CALL's link value, the sequential successor, is on its way to CU's port for the next bundle. -/
def Obligations.ControlTransfers : Prop :=
  ∀ (s : State) (h : Head) (e : Bool),
    (s.completes (.br h e) = true → s.transfers (.br h e) (s.read h)
      (s.header + (BitVec.setWidth 31 (s.trigger .cu h).lo).toInt)) ∧
    (s.completes (.jmp h e) = true → s.transfers (.jmp h e) (s.read h) (s.trigger .cu h).lo.toNat) ∧
    (s.completes (.ret h e) = true → s.transfers (.ret h e) (s.read h) (s.trigger .cu h).lo.toNat) ∧
    (s.completes (.call h e) = true → s.transfers (.call h e)
      ((s.read h).fly 0 1
        (.ofScalar (BitVec.ofNat 64 (s.landed.successor s.header (2 + h.src.literals.length)))) 0 2)
      (s.header + (BitVec.setWidth 31 (s.trigger .cu h).lo).toInt))

/-- R156, over a tile whose active levels are 0 to D - 1 (R153): LOOP with a count pushes level D: active, with that count, its start the sequential successor and its end the
header plus O0[e]; the levels below it stand. With a count of 0 it pushes nothing and goes past the bundle at the end
address. -/
def Sys2Proof.Claims.LoopPushes : Prop :=
  ∀ (s : State) (h : Head) (e : Bool), s.completes (.loop h e) = true → s.landed.ok = true →
    let d := loopDepth s.landed.lc
    let count := (s.trigger .cu h).lo
    let le := s.header + (s.operand .cu 0 e).lo.toNat
    let next := s.landed.successor s.header (2 + h.src.literals.length)
    d < 4 ∧ count.toNat < 2 ^ 32 ∧ s.header < le ∧
    (count ≠ 0 → ∃ v, s.finishes (.loop h e) h v ∧
      (s.landed.lc = (s.read h).lc) ∧
      (vget 0 v.lc d).toNat = 2 ^ 63 + count.toNat ∧
      (vget 0 v.le d).toNat = le % 2 ^ 30 ∧ (vget 0 v.ls d).toNat = next % 2 ^ 30 ∧
      (∀ k, k < d → vget 0 v.lc k = vget 0 s.landed.lc k ∧ vget 0 v.le k = vget 0 s.landed.le k ∧
        vget 0 v.ls k = vget 0 s.landed.ls k) ∧
      ∃ lc les ls, v = { s.read h with lc := lc, le := les, ls := ls }) ∧
    (count = 0 → le < s.view.codeLen →
      s.transfers (.loop h e) (s.read h)
        (s.landed.successor le (headerLen ((s.landed.codeWord le).getD 0))))

/-- R157, the loop step over the registers as a bundle's writes leave them. Without a transfer the highest active level that
ends at the bundle is taken, and those above it go inactive with their counts; from it down, a level with more than one
iteration left counts down and the flow goes to its start, and one with none left goes inactive with count 0 and leaves
the step to the level below while that ends here too. With a transfer the lowest active level that ends here and those
above it go inactive with their counts. Where none ends here nothing changes. -/
def Sys2Proof.Claims.LoopStepRule : Prop :=
  ∀ (t : Tile) (h : Nat),
    let ends := fun n => lcActive t.lc n = true ∧ t.leAt n = h
    let count := fun n => bitsN (vget 0 t.lc n) 0 32
    let off := fun n => vget 0 t.lc n &&& 0x7FFFFFFFFFFFFFFF
    let step := t.loopStep h
    ((∀ n, n < 4 → ¬ ends n) → step = (t, none) ∧ t.loopPop h = t) ∧
    (∀ n, n < 4 → ends n → (∀ m, n < m → m < 4 → ¬ ends m) →
      ∃ e, e ≤ n + 1 ∧ step.1 = { t with lc := step.1.lc } ∧
        (∀ k, k < 4 → n < k → vget 0 step.1.lc k = off k) ∧
        (∀ k, k ≤ n → n < k + e → ends k ∧ count k ≤ 1 ∧ vget 0 step.1.lc k = 0) ∧
        (∀ k, k + e < n → vget 0 step.1.lc k = vget 0 t.lc k) ∧
        (e = n + 1 → step.2 = none) ∧
        (∀ k, k + e = n →
          (ends k ∧ 1 < count k ∧ (vget 0 step.1.lc k).toNat = 2 ^ 63 + (count k - 1) ∧ step.2 = some (t.lsAt k)) ∨
            (¬ ends k ∧ vget 0 step.1.lc k = vget 0 t.lc k ∧ step.2 = none))) ∧
    ∀ n, n < 4 → ends n → (∀ m, m < n → ¬ ends m) →
      t.loopPop h = { t with lc := (t.loopPop h).lc } ∧
        ∀ k, k < 4 → vget 0 (t.loopPop h).lc k = if n ≤ k then off k else vget 0 t.lc k

/-- R160, R412: END halts fetch: the tile drains, and its results are discarded; MX starts nothing from its bundle on. It is a
transfer in the loop step. -/
def Sys2Proof.Claims.EndDrains : Prop :=
  ∀ (s : State) (h : Head) (e : Bool), s.completes (.endTile h e) = true →
    let u := s.opening.landings.1
    let v := if Src.pops h.src then u.srcPop h.src else u
    ∃ b : Books, b.Kept s v ∧ b.lc = (v.loopPop s.header).lc ∧
      exec (.endTile h e) s = .next (s.ready.setTile s.cur
        { v.booked b with
          run := .draining, queues := v.queues.map fun q => q.filter fun x => !x.ready })

/-- LOOP, the loop step, and END. The length taken of a word with S = 0 at a LOOP's end address is the model's choice (log 63). -/
def Obligations.LoopAndEnd : Prop :=
  LoopPushes ∧ LoopStepRule ∧ EndDrains

/-- R337, R344, R475: a TRAP that finds no handler completes its bundle and is then fatal: in a handler with code 0x31, the code
0x0C as AUX and its bundle's header address; with TVEC.EN 0, or a word there that starts no bundle, with code 0x32 and 0x0C, or
0x8C, as AUX. The report's TPC is where the flow would have gone. -/
def Sys2Proof.Claims.SoftwareTrapUnhandled : Prop :=
  ∀ (s : State) (h : Head) (e : Bool), s.completes (.trap h e) = true → s.noLoopEnd (s.read h) →
    (s.tile s.cur).report = none → s.cur < 16384 →
    let o := s.landed
    let handler := bitsN o.tvec 2 28 * 4
    (o.inh = true ∨ o.tvec.getLsbD 0 = false ∨
      (handler < s.view.codeLen ∧ ∃ w, o.codeWord handler = some w ∧ w.getLsbD 31 = false)) →
    ∃ (u : State) (r : Report), exec (.trap h e) s = .next u ∧ (u.tile s.cur).run = .parked ∧ (u.tile s.cur).report = some r ∧
      r.w1 = (if o.inh then 0x31 else 0x32) ∧ bitsN r.w0 0 32 = s.cur ∧
      bitsN r.w0 32 8 = (if o.inh = false ∧ o.tvec.getLsbD 0 = true then 0x8C else 0x0C) ∧
      r.w2 = BitVec.ofInt 64 (o.successor s.header (2 + h.src.literals.length) % 2 ^ 30) ∧
      r.w3 = (if o.inh then BitVec.ofNat 64 s.header else 0) ∧
      (u.tile s.cur).tcause = o.tcause ∧ (u.tile s.cur).nb = o.nb + 1

/-- R158, R475: TRAP completes its bundle and then enters the handler with code 0x0C and T[15:0]; TPC holds where the
flow would have gone. -/
def Obligations.SoftwareTrap : Prop :=
  SoftwareTrapUnhandled ∧
  ∀ (s : State) (h : Head) (e : Bool), s.completes (.trap h e) = true →
    s.landed.inh = false → s.landed.tvec.getLsbD 0 = true →
    (∃ w, s.landed.codeWord (bitsN s.landed.tvec 2 28 * 4) = some w ∧ w.getLsbD 31 = true) →
    ∃ b : Books, b.Fair s h (s.read h) ∧ ∃ t,
      exec (.trap h e) s = .next (s.ready.setTile s.cur t) ∧
      t = { ((s.read h).booked b).enter { code := 0x0C, swcode := (s.trigger .cu h).lo.setWidth 16 } b.pc
              (bitsN s.landed.tvec 2 28 * 4) with slns := b.slns, slnsH := b.slnsH } ∧
      t.tcause = 0x0C ||| (((s.trigger .cu h).lo &&& 0xFFFF) <<< 16) ∧ t.taddr = 0 ∧
      t.tpc = BitVec.ofInt 64 (b.pc % 2 ^ 30) ∧ t.pc = bitsN s.landed.tvec 2 28 * 4

/-- R150, R157, R159, R279, R342, R476: TRET with INH 1 puts the captured results back, each due as many bundles after TPC's as it
was, in the order in which they are due, discards the handler's places and its own results in flight, clears INH and goes to
TPC; MX's cursor and its row pointers are again what the trap's entry captured; the loop levels are popped as by any transfer;
no other register changes. -/
def Sys2Proof.Claims.TrapReturns : Prop :=
  ∀ (s : State) (h : Head) (e : Bool), s.completes (.tret h e) = true → s.landed.resTrap = false →
    s.landed.inh = true ∧ ∃ t, exec (.tret h e) s = .next (s.ready.setTile s.cur t) ∧
      t.inh = false ∧ t.pc = bitsN s.landed.tpc 0 30 ∧
      (∀ k, k < 8 → let f := s.landed.fixedAt k
        let back := f.shadows.map fun y => { y with due := y.due + (s.landed.nb + 1) }
        (t.fixedAt k).port = f.shPort.getD .empty ∧ (t.fixedAt k).shPort = none ∧ (t.fixedAt k).shadows = [] ∧
        (t.fixedAt k).pipe.Pairwise (fun y z => y.due ≤ z.due) ∧
        ∀ d, (t.fixedAt k).pipe.filter (fun y => y.due == d) = back.filter fun y => y.due == d) ∧
      (∀ k, k < 7 → t.queue k = ((s.read h).queue k).filter fun p => !p.hp) ∧
      t.lc = ((s.read h).loopPop s.header).lc ∧ t.le = (s.read h).le ∧ t.ls = (s.read h).ls ∧
      (∀ n, t.gRead n = (s.read h).gRead n) ∧ t.v = (s.read h).v ∧ t.p = (s.read h).p ∧ t.q = (s.read h).q ∧
      t.opnd = (s.read h).opnd ∧ t.rrc = (s.read h).rrc ∧ t.flm = (s.read h).flm ∧ t.fpc = (s.read h).fpc ∧
      t.tvec = (s.read h).tvec ∧ t.tpc = (s.read h).tpc ∧ t.tcause = (s.read h).tcause ∧ t.taddr = (s.read h).taddr ∧
      t.tstat = (s.read h).tstat &&& 0x7FFFFFFFFFFFFFFF ∧ t.spm = (s.read h).spm ∧ t.log = (s.read h).log ∧
      ∀ c r w, s.landed.mxKept = some (c, r, w) → t.mx.cursor = c ∧ t.mx.rp = r ∧ t.mx.wp = w

/-- R342, step 3: a TRET that returns from a faulted result, of any queue, resolves its place: RSOL 1 makes it valid with zero
and the operation's tag, RSOL 2 valid with TADDR, RSOL 3 removes it, and RSOL 0 makes it invalid in its position and issues its
operation again: the tile is what the re-issue of the operands that the place captured makes of it, on the tile that holds the
place invalid, its other queues without the handler's places, and its requests and operand entries as they stood. At AU the
place carries the tag of its operation: an RDM's carries none (R450). -/
def Sys2Proof.Claims.TrapReturnResolves : Prop :=
  ∀ (s : State) (h : Head) (e : Bool) (k : Sock) (i : Nat) (x : Place) (rest : List Place),
    s.completes (.tret h e) = true → s.landed.resTrap = true → resultCode (bitsN s.landed.tcause 0 8) = true →
    Sock.ofNum (s.landed.tcause.extractLsb' 10 5) = some k → queueIdx k (s.landed.tcause.getLsbD 9) = some i →
    ((s.read h).queue i).filter (fun p => !p.hp) = x :: rest → x.flt = true →
    ∃ t, exec (.tret h e) s = .next (s.ready.setTile s.cur t) ∧
      (s.landed.rsol = 1 → t.queue i = { x with ready := true, val := ⟨0, x.rtag, 0⟩, flt := false } :: rest) ∧
      (s.landed.rsol = 2 → t.queue i = { x with ready := true, val := .ofScalar s.landed.taddr, flt := false } :: rest) ∧
      (s.landed.rsol = 3 → t.queue i = rest) ∧
      (s.landed.rsol = 0 → ∃ w : Tile, w.queue i = { x with ready := false, flt := false, rep := .zero } :: rest ∧
        (∀ j, j < 7 → j ≠ i → w.queue j = ((s.read h).queue j).filter fun p => !p.hp) ∧ w.inh = false ∧
        w.reqs = (s.read h).reqs ∧ w.opnd = (s.read h).opnd ∧ w.pc = bitsN s.landed.tpc 0 30 ∧
        t = { w.reissue s.view k x with slns := t.slns, slnsH := t.slnsH }) ∧
      (s.landed.rsol = 0 → k = .au → ∃ g : Tag,
        (t.queue i).head? = some { x with ready := false, flt := false, rep := .zero, rtag := g } ∧
        (x.ops.opc = 0x1A → g = .raw) ∧ (x.ops.opc.toNat < 7 → ∃ r ∈ t.reqs, r.id = x.id))

/-- R45, R342, R352, a faulted port: a record of a fixed-latency port in which FAULT was written traps the move that reads it,
with its CODE, its socket and its FADDR; a TRET that returns from it resolves the port that the entry captured, where it is faulted
still: RSOL 1 leaves zero with the port's tag, RSOL 2 TADDR. What RSOL 0 and 3 make of a port, which has no request and no place
behind it, is the model's reading (log 106). -/
def Sys2Proof.Claims.FaultedPorts : Prop :=
  (∀ (t : Tile) (k : Sock) (r2 : Bool) (i : Nat), fixedIdx k = some i → queueIdx k r2 = none →
    let p := (t.fixedAt i).port
    (p.flt = true → ∃ x, t.faultTrap (.res k r2) = some x ∧ x.code = p.rep.code ∧ x.sock = k.num ∧ x.addr = p.rep.addr ∧
      x.onResult = true) ∧
    (p.flt = false → t.faultTrap (.res k r2) = none)) ∧
  ∀ (s : State) (h : Head) (e : Bool) (k : Sock) (i : Nat) (p : Port),
    s.completes (.tret h e) = true → s.landed.resTrap = true → Sock.ofNum (s.landed.tcause.extractLsb' 10 5) = some k →
    queueIdx k (s.landed.tcause.getLsbD 9) = none → fixedIdx k = some i → i < 8 → (s.landed.fixedAt i).shPort = some p →
    ∃ t, exec (.tret h e) s = .next (s.ready.setTile s.cur t) ∧ t.inh = false ∧ t.pc = bitsN s.landed.tpc 0 30 ∧
      (p.flt = false → (t.fixedAt i).port = p) ∧
      (p.flt = true → (s.landed.rsol = 0 → (t.fixedAt i).port = p) ∧
        (s.landed.rsol = 1 → (t.fixedAt i).port = { p with val := ⟨0, p.val.tag, 0⟩, flt := false }) ∧
        (s.landed.rsol = 2 → (t.fixedAt i).port = { p with val := .ofScalar s.landed.taddr, flt := false }) ∧
        (s.landed.rsol = 3 → (t.fixedAt i).port = .empty))

/-- TRET, and the resolution of the trapped result. -/
def Obligations.TrapReturn : Prop :=
  TrapReturns ∧ TrapReturnResolves ∧ FaultedPorts

/-! ### Vector results -/

/-- R471, R479, the VA arithmetic: F, and element by element the exact result under F's signedness, wrapped or clamped;
an element that the guard leaves out is zero; the result carries F and a zero sidecar and no flag. -/
def Obligations.VaResults : Prop :=
  ∀ x ∈ va, ∀ (s : State) (h : Head) (e : Bool), s.completes (x.1 h e) = true →
    let a := s.operand .va 0 e
    let b := s.operand .va 1 e
    let t := s.trigger .va h
    ∃ f w, formatOf ([t.tag, a.tag, b.tag].take (x.2.2.1 + 1)) f ∧ f.isInt = true ∧ f.width = some w ∧
      ∃ row opc, s.finishes (x.1 h e) h ((s.read h).fly 4 x.2.1 (.ofRow row f) 0 opc) ∧
        ∀ i, i < 1024 / w → elem row w i =
          if picked s h w i then
            let y := x.2.2.2.2 w (readAs f w (elem a.row w i)) (readAs f w (elem b.row w i)) (readAs f w (elem t.row w i))
            ((if x.2.2.2.1 then max (least f w) (min (greatest f w) y) else y : Int) % 2 ^ w).toNat
          else 0

/-- R106, R480, VAND, VOR and VXOR: bit by bit over whole rows of any tag, with the tag and sidecar of T, or of O0[e] when T is
tagged NONE; what the guard leaves out, by elements of that tag, is zero. -/
def Sys2Proof.Claims.VectorBits : Prop :=
  ∀ x ∈ vbit, ∀ (s : State) (h : Head) (e : Bool), s.completes (x.1 h e) = true →
    let a := s.operand .va 0 e
    let t := s.trigger .va h
    let k := if t.tag = .raw then a else t
    let w := k.tag.width.getD 16
    ∃ row opc, s.finishes (x.1 h e) h
        ((s.read h).fly 4 1 ⟨BitVec.setWidth 2048 row, k.tag, sideOf k⟩ 0 opc) ∧
      ∀ j, j < 1024 → BitVec.getLsbD (w := 1024) row j =
        (picked s h w (j / w) && x.2 (a.row.getLsbD j) (t.row.getLsbD j))

/-- R481, the VCMP conditions: the condition chooses the signedness, and the outcomes stand in a PRED row. -/
def Obligations.VectorCompares : Prop :=
  ∀ x ∈ vcmp, ∀ (s : State) (h : Head) (e : Bool), s.completes (x.1 h e) = true →
    let a := s.operand .va 0 e
    let t := s.trigger .va h
    ∃ f w, formatOf [t.tag, a.tag] f ∧ f.isInt = true ∧ f.width = some w ∧
      ∃ row opc, s.finishes (x.1 h e) h ((s.read h).fly 4 1 (.ofRow row .pred) 0 opc) ∧
        IsPred w (fun i => picked s h w i &&
          x.2.2 (readAs (.intOf w x.2.1) w (elem a.row w i)) (readAs (.intOf w x.2.1) w (elem t.row w i))) row

/-- R106, R137, R493, VSEL: lane i is O0[e]'s where T's governing bit is 1, else O1[e]'s, a byte of a BFM row sign-filled; the width, tag and sidecar are those of
O0[e], or of O1[e] when O0[e] is tagged NONE. -/
def Sys2Proof.Claims.VectorSelect : Prop :=
  ∀ (s : State) (h : Head) (e : Bool), s.completes (.vsel h e) = true →
    let a := s.operand .va 0 e
    let b := s.operand .va 1 e
    let k := if a.tag = .raw then b else a
    let w := k.tag.width.getD 16
    ∃ row opc, s.finishes (.vsel h e) h
        ((s.read h).fly 4 1 ⟨BitVec.setWidth 2048 row, k.tag, sideOf k⟩ 0 opc) ∧
      ∀ i, i < 1024 / w → elem (n := 1024) row w i =
        if picked s h w i then
          asMade k.tag (if governs (s.trigger .va h).lo w i then elem a.row w i else elem b.row w i)
        else 0

/-- The bitwise operations of VA, and VSEL. The zero sidecar under a tag that is not BFM, R106 against R480 and R493, is the
model's reading (log 58), and so are the 16-bit elements of a NONE or PRED row (log 50). -/
def Obligations.VectorBitsAndSelect : Prop :=
  VectorBits ∧ VectorSelect

/-- R410, R414, R415, R420, R422, the VF arithmetic: element by element in F, under RMODE as it stood, with the flags of
the elements that are computed. -/
def Obligations.VfResults : Prop :=
  ∀ x ∈ vf, ∀ (s : State) (h : Head) (u e : Bool), s.completes (x.1 h u e) = true →
    let a := s.operand (vfUnit u) 0 e
    let b := s.operand (vfUnit u) 1 e
    let t := s.trigger (vfUnit u) h
    ∃ f fm, formatOf ([t.tag, a.tag, b.tag].take (x.2.2.1 + 1)) f ∧ f.fmt = some fm ∧
      let each := fun i => x.2.2.2 fm (modeField s 0) (elem a.row fm.width i) (elem b.row fm.width i) (elem t.row fm.width i)
      ∃ row fl opc, s.finishes (x.1 h u e) h
          ((s.read h).fly (if u then 6 else 5) x.2.1 (.ofRow row f) fl opc) ∧
        (∀ i, i < 1024 / fm.width → elem row fm.width i =
          if picked s h fm.width i then (each i).bits % 2 ^ fm.width else 0) ∧
        IsFlags (1024 / fm.width) (picked s h fm.width) (fun i => (each i).fl) fl

/-- R410, R416, the FCMP conditions: the outcome of each selected element, by the order of the two values or as the
condition says where one is a NaN, in a PRED row, with NV for signalling NaNs and, in the ordered conditions, for quiet
ones. -/
def Obligations.VfCompares : Prop :=
  ∀ x ∈ fcmp, ∀ (s : State) (h : Head) (u e : Bool), s.completes (x.1 h u e) = true →
    let a := s.operand (vfUnit u) 0 e
    let t := s.trigger (vfUnit u) h
    ∃ f fm, formatOf [t.tag, a.tag] f ∧ f.fmt = some fm ∧
      let l := fun i => fm.decode (elem a.row fm.width i)
      let r := fun i => fm.decode (elem t.row fm.width i)
      let nan := fun i => (l i).isNan || (r i).isNan
      ∃ row fl opc, s.finishes (x.1 h u e) h ((s.read h).fly (if u then 6 else 5) 2 (.ofRow row .pred) fl opc) ∧
        IsPred fm.width (fun i => picked s h fm.width i && if nan i then x.2.2.1 else x.2.1 (Fp.cmp (l i) (r i))) row ∧
        IsFlags (1024 / fm.width) (picked s h fm.width)
          (fun i => if (l i).isSig || (r i).isSig || (nan i && x.2.2.2) then flNV else 0) fl

/-- R417, R418, R423, FCVT and FRND: each element of T, from its place under the PART field, converted under the mode of
the control word O0[e]; an element that the guard leaves out, and one outside the part, is zero. -/
def Obligations.VfConversions : Prop :=
  ∀ (s : State) (h : Head) (u e : Bool),
    let k := (s.operand (vfUnit u) 0 e).lo
    let t := s.trigger (vfUnit u) h
    (s.completes (.fcvt h u e) = true →
      let tgt := Tag.ofCode (k.setWidth 6)
      ∃ ws wt, t.tag.width = some ws ∧ tgt.width = some wt ∧ (t.tag.isFp = true ∨ tgt.isFp = true) ∧
        let each := fun j => convertElem (modeField s (bitsN k 6 3)) t.tag tgt (elem t.row ws j)
        ∃ row fl opc, s.finishes (.fcvt h u e) h
            ((s.read h).fly (if u then 6 else 5) 3 (.ofRow row tgt) fl opc) ∧
          (∀ i, i < 1024 / wt → elem row wt i =
            match fromPart ws wt (bitsN k 9 3) i with
            | some j => if picked s h ws j then (each j).bits % 2 ^ wt else 0
            | none => 0) ∧
          IsFlags (1024 / ws) (fun j => picked s h ws j &&
            (List.range (1024 / wt)).any fun i => fromPart ws wt (bitsN k 9 3) i = some j) (fun j => (each j).fl) fl) ∧
    (s.completes (.frnd h u e) = true →
      ∃ fm, t.tag.fmt = some fm ∧
        let each := fun i => roundIntegral (modeField s (bitsN k 6 3)) (k.getLsbD 9) fm (elem t.row fm.width i)
        ∃ row fl opc, s.finishes (.frnd h u e) h
            ((s.read h).fly (if u then 6 else 5) 3 (.ofRow row t.tag) fl opc) ∧
          (∀ i, i < 1024 / fm.width → elem row fm.width i =
            if picked s h fm.width i then (each i).bits % 2 ^ fm.width else 0) ∧
          IsFlags (1024 / fm.width) (picked s h fm.width) (fun i => (each i).fl) fl)

/-- R106, R137, R472, R482, R487, VPERM, VBCST and VCMPX: T selects elements of O0[e] and O1[e]; one element of O0[e] goes everywhere;
the elements of T that the mask selects are packed down; a byte of a BFM row is sign-filled. The zero sidecar under a tag that is not BFM, R106 against R482 and R487,
is the model's reading (log 58), and so are VCMPX's 16-bit elements of a NONE or PRED row (log 50). -/
def Obligations.VxPermutes : Prop :=
  ∀ (s : State) (h : Head) (e : Bool),
    let a := s.operand .vx 0 e
    let b := s.operand .vx 1 e
    let t := s.trigger .vx h
    (s.completes (.vperm h e) = true →
      let k := if a.tag = .raw then b else a
      ∃ w, t.tag.isInt = true ∧ t.tag.width = some w ∧
        ∃ row opc, s.finishes (.vperm h e) h
            ((s.read h).fly 7 2 ⟨BitVec.setWidth 2048 row, k.tag, sideOf k⟩ 0 opc) ∧
          ∀ i, i < 1024 / w → elem (n := 1024) row w i =
            if picked s h w i then
              let j := elem t.row w i % (2 * (1024 / w))
              asMade k.tag (if j < 1024 / w then elem a.row w j else elem b.row w (j - 1024 / w))
            else 0) ∧
    (s.completes (.vbcst h e) = true →
      let w := a.tag.width.getD 16
      ∃ row opc, s.finishes (.vbcst h e) h
          ((s.read h).fly 7 2 ⟨BitVec.setWidth 2048 row, a.tag, sideOf a⟩ 0 opc) ∧
        ∀ i, i < 1024 / w → elem (n := 1024) row w i =
          if picked s h w i then asMade a.tag (elem a.row w (t.lo.toNat % 128 % (1024 / w))) else 0) ∧
    (s.completes (.vcmpx h e) = true →
      let w := t.tag.width.getD 16
      let kept := (List.range (1024 / w)).filter (governs a.lo w)
      ∃ row opc, s.finishes (.vcmpx h e) h
          ((s.read h).fly 7 4 ⟨BitVec.setWidth 2048 row, t.tag, sideOf t⟩ 0 opc) ∧
        ∀ i, i < 1024 / w → elem (n := 1024) row w i =
          match kept[i]? with
          | some j => asMade t.tag (elem t.row w j)
          | none => 0)

/-- R490, R491, VRED: each segment of the length that LSEG gives is merged by the fixed tree, into one element of the
result; the rest of the result is zero. -/
def Sys2Proof.Claims.VxReductions : Prop :=
  ∀ x ∈ vred, ∀ (s : State) (h : Head) (e : Bool), s.completes (x.1 h e) = true →
    let lseg := bitsN (s.operand .vx 0 e).lo 0 3
    let t := s.trigger .vx h
    ∃ w, t.tag.width = some w ∧
      let n := 1024 / w
      let g := if lseg = 0 then n else 2 ^ lseg
      let take := fun ident i => if picked s h w i then elem t.row w i else ident
      g ≤ n ∧ ∃ row fl opc, s.finishes (x.1 h e) h ((s.read h).fly 7 6 (.ofRow row t.tag) fl opc) ∧
        (∀ j, n / g ≤ j → j < n → elem row w j = 0) ∧
        (∀ f, t.tag.fmt = some f →
          let merged := fun j => mergeTree (fun p q => ((x.2.2.1 f p q).bits, (x.2.2.1 f p q).fl)) 0 8
            (segment (take (x.2.1 f)) g j)
          (∀ j, j < n / g → elem row w j = (merged j).1 % 2 ^ w) ∧
          IsFlags (n / g) (fun _ => true) (fun j => (merged j).2) fl) ∧
        (t.tag.isInt = true → fl = 0 ∧ ∀ j, j < n / g → elem row w j =
          ((segment (take (x.2.2.2.1 t.tag w)) g j).drop 1).foldl (x.2.2.2.2 t.tag w) (take (x.2.2.2.1 t.tag w) (j * g)))

/-- R492, VSCAN.ADD: inclusive sums within each segment, low to high; FP sums are rounded under RMODE, and a NaN that a
segment begins with is delivered in its canonical form. -/
def Sys2Proof.Claims.VxScan : Prop :=
  ∀ (s : State) (h : Head) (e : Bool), s.completes (.vscanAdd h e) = true →
    let lseg := bitsN (s.operand .vx 0 e).lo 0 3
    let t := s.trigger .vx h
    ∃ w, t.tag.width = some w ∧
      let n := 1024 / w
      let g := if lseg = 0 then n else 2 ^ lseg
      let take := fun ident i => if picked s h w i then elem t.row w i else ident
      g ≤ n ∧ ∃ row fl opc, s.finishes (.vscanAdd h e) h ((s.read h).fly 7 8 (.ofRow row t.tag) fl opc) ∧
        (∀ f, t.tag.fmt = some f →
          let first := take (2 ^ (w - 1))
          let start := fun j => if (f.decode (first j)).isNan then f.nan else first j
          let sum := fun i => ((segment first g (i / g)).take (i % g + 1)).drop 1 |>.foldl
            (fun p q => (f.add (modeField s 0) p q).bits) (start (i / g * g))
          (∀ i, i < n → elem row w i = sum i % 2 ^ w) ∧
          IsFlags n (fun _ => true) (fun i =>
            if i % g ≠ 0 then (f.add (modeField s 0) (sum (i - 1)) (first i)).fl
            else if (f.decode (first i)).isSig then flNV else 0) fl) ∧
        (t.tag.isInt = true → fl = 0 ∧ ∀ i, i < n →
          elem row w i = ((segment (take 0) g (i / g)).take (i % g + 1)).sum % 2 ^ w)

/-- VRED and VSCAN. -/
def Obligations.VxReductionsAndScan : Prop :=
  VxReductions ∧ VxScan

/-- R483, R484, R488, R489, VQNT, VQNT.SR, VDQN and VCVT: a quantised block takes its place in the row and the sidecar of
O1[e]; a dequantised or converted element comes from its place under the PART field. -/
def Obligations.VxConversions : Prop :=
  ∀ (s : State) (h : Head) (e : Bool),
    let k := (s.operand .vx 0 e).lo
    let base := if (s.operand .vx 1 e).tag = .raw then Val.zero else s.operand .vx 1 e
    let t := s.trigger .vx h
    let tgt := Tag.ofCode (k.setWidth 6)
    (∀ x ∈ [(Instr.vqnt h e, QRound.mode (modeField s (bitsN k 9 3))),
        (.vqntSr h e, .seed ((s.operand .vx 0 e).data.extractLsb' 64 64))],
      s.completes x.1 = true → ∃ f, t.tag.fmt = some f ∧ f ≠ .f64 ∧
        let m := bitsN k 4 4
        let blk := bitsN k 0 2
        let blocks := if f = .f32 then 1 else 2
        let q := fun j => quantBlock m x.2 (32 * j) ((List.range 32).map fun i =>
          f.decode (elem t.row f.width (32 * (j - blk) + i)))
        2 ≤ m ∧ m ≤ 8 ∧ blk + blocks ≤ 4 ∧
          ∃ row side fl opc, s.finishes x.1 h
              ((s.read h).fly 7 6 ⟨BitVec.setWidth 2048 row, .ofBfm m, BitVec.setWidth 192 side⟩ fl opc) ∧
            (∀ j, j < 4 →
              (∀ i, i < 32 → elem (n := 1024) row 8 (32 * j + i) =
                if blk ≤ j ∧ j < blk + blocks then (((q j).q[i]?.getD 0) % 256).toNat
                else elem base.row 8 (32 * j + i)) ∧
              BitVec.extractLsb' (24 * j) 24 (side : BitVec 96) =
                if blk ≤ j ∧ j < blk + blocks then (q j).scale else base.scale j) ∧
            IsFlags 4 (fun j => decide (blk ≤ j ∧ j < blk + blocks)) (fun j => (q j).fl) fl) ∧
    (s.completes (.vdqn h e) = true → ∃ m f, t.tag.bfm = some m ∧ tgt.fmt = some f ∧
      let each := fun j => dequant (modeField s (bitsN k 6 3)) f m (t.scale (j / 32)) (elem t.row 8 j)
      ∃ row fl opc, s.finishes (.vdqn h e) h ((s.read h).fly 7 6 (.ofRow row tgt) fl opc) ∧
        (∀ i, i < 1024 / f.width → elem row f.width i =
          let j := bitsN k 9 3 * (1024 / f.width) + i
          if picked s h 8 j then (each j).bits % 2 ^ f.width else 0) ∧
        IsFlags 128 (fun j => picked s h 8 j && decide (j / (1024 / f.width) = bitsN k 9 3)) (fun j => (each j).fl) fl) ∧
    (s.completes (.vcvt h e) = true → ∃ ws wt, t.tag.isInt = true ∧ tgt.isInt = true ∧ t.tag.width = some ws ∧
      tgt.width = some wt ∧ ∃ row opc, s.finishes (.vcvt h e) h ((s.read h).fly 7 3 (.ofRow row tgt) 0 opc) ∧
        ∀ i, i < 1024 / wt → elem row wt i =
          match fromPart ws wt (bitsN k 7 3) i with
          | some j =>
            if picked s h ws j then
              let y := readAs t.tag ws (elem t.row ws j)
              ((if k.getLsbD 6 then max (least tgt wt) (min (greatest tgt wt) y) else y : Int) % 2 ^ wt).toNat
            else 0
          | none => 0)

/-! ### Memory operations -/

/-- R243, R424, R431, R434, R485, the loads, at an address aligned as the operation asks: a place at the tail of AU's
queue, and one request for its accesses; nothing else. -/
def Sys2Proof.Claims.LoadsEnter : Prop :=
  (∀ x ∈ loads, ∀ (s : State) (h : Head) (e : Bool), s.completes (x.1 h e) = true →
    let o := sampledOps s h .au e x.2.1
    (s.trigger .au h).lo.toNat % x.2.2.1 = 0 ∧
      s.finishes (x.1 h e) h (asked (placed (s.read h) 0 x.2.2.2.2.2 o) x.2.2.2.2.1 o
        [⟨0, (s.trigger .au h).lo, x.2.2.2.1, .issue, 0⟩])) ∧
  (∀ (s : State) (h : Head) (e : Bool), s.completes (.vld h e) = true →
    let o := sampledOps s h .au e 0x10
    let tag := Tag.ofCode ((s.operand .au 0 e).lo.setWidth 6)
    (s.trigger .au h).lo.toNat % rowUnit tag = 0 ∧
      s.finishes (.vld h e) h (asked (placed (s.read h) 0 tag o) (.vload (rowBytes tag) tag) o
        [⟨0, (s.trigger .au h).lo, rowBytes tag, .issue, 0⟩])) ∧
  ∀ (s : State) (h : Head) (e : Bool), s.completes (.gld h e) = true →
    let o := sampledOps s h .au e 0x12
    let k := (s.operand .au 0 e).lo
    let tag := Tag.ofCode (k.setWidth 6)
    ∃ w, tag.width = some w ∧ (w = 32 ∨ w = 64) ∧
      s.finishes (.gld h e) h (asked (placed (s.read h) 0 tag o) (.gload tag) o
        (gathered (s.trigger .au h).lo k (s.operand .au 1 e) w fun _ => 0))

/-- R390, the atomics, at an address that is a multiple of 8: a place, and one request of 8 bytes. -/
def Sys2Proof.Claims.AtomicsEnter : Prop :=
  ∀ x ∈ amos, ∀ (s : State) (h : Head) (e : Bool), s.completes (x.1 h e) = true →
    let o := sampledOps s h .au e x.2.1
    (s.trigger .au h).lo.toNat % 8 = 0 ∧
      s.finishes (x.1 h e) h (asked (placed (s.read h) 0 .raw o) (.amo x.2.2.1 x.2.2.2) o
        [⟨0, (s.trigger .au h).lo, 8, .issue, 0⟩])

/-- R449, R456, R467, R494, the stores and PREF: one request with the bytes to store, and no place; SCT with no active
lane does nothing. -/
def Sys2Proof.Claims.StoresEnter : Prop :=
  (∀ x ∈ stores, ∀ (s : State) (h : Head) (e : Bool), s.completes (x.1 h e) = true →
    (s.trigger .au h).lo.toNat % x.2.2.1 = 0 ∧
      s.finishes (x.1 h e) h (asked (s.read h) x.2.2.2 (sampledOps s h .au e x.2.1)
        [⟨0, (s.trigger .au h).lo, x.2.2.1, .issue,
          BitVec.ofNat 1120 ((s.operand .au 0 e).lo.toNat % 2 ^ (8 * x.2.2.1))⟩])) ∧
  (∀ (s : State) (h : Head) (e : Bool), s.completes (.vst h e) = true →
    let x := s.operand .au 1 e
    (s.trigger .au h).lo.toNat % rowUnit x.tag = 0 ∧
      s.finishes (.vst h e) h (asked (s.read h) .store (sampledOps s h .au e 0x11)
        [⟨0, (s.trigger .au h).lo, rowBytes x.tag, .issue,
          if x.tag.bfm = none then x.row.setWidth 1120 else (x.side.setWidth 96 ++ x.row : BitVec 1120)⟩])) ∧
  (∀ (s : State) (h : Head) (e : Bool), s.completes (.sct h e) = true →
    let k := (s.operand .au 0 e).lo
    ∃ w, (Tag.ofCode (k.setWidth 6)).width = some w ∧ (w = 32 ∨ w = 64) ∧
      let lanes := gathered (s.trigger .au h).lo k (s.operand .au 1 e) w fun i =>
        BitVec.ofNat 1120 (elem (s.operand .au 1 (!e)).row w i)
      s.finishes (.sct h e) h
        (if lanes = [] then s.read h else asked (s.read h) .store (sampledOps s h .au e 0x13) lanes)) ∧
  ∀ (s : State) (h : Head) (e : Bool), s.completes (.pref h e) = true →
    s.finishes (.pref h e) h
      (asked (s.read h) .pref (sampledOps s h .au e 0x38) [⟨0, (s.trigger .au h).lo, 1, .issue, 0⟩])

/-- The atomics and the stores of AU. -/
def Obligations.AtomicsAndStoresEnter : Prop :=
  AtomicsEnter ∧ StoresEnter

/-- R243, R250, R253, RDM, RDM.S, TKQ and TKX: a place, and a request that makes no access of its own. -/
def Sys2Proof.Claims.TicketRequestsEnter : Prop :=
  ∀ (s : State) (h : Head) (e : Bool),
    ∀ x ∈ [(Instr.rdm h e, (0x1A : BitVec 6), ReqKind.rdm), (.rdmS h e, 0x1B, .rdmS (s.operand .au 0 e).lo.toNat),
        (.tkq h e, 0x1C, .tkq), (.tkx h e, 0x1D, .tkx)],
      s.completes x.1 = true →
        let o := sampledOps s h .au e x.2.1
        s.finishes x.1 h (asked (placed (s.read h) 0 .raw o) x.2.2 o [])

/-- The loads, and the ticket operations, of AU. -/
def Obligations.LoadsAndTicketsEnter : Prop :=
  LoadsEnter ∧ TicketRequestsEnter

/-- R116 to R119, R123, SPB and FLA: a transfer at the tail of the engine's queue, of at most four; its registers are the
physical ones that the names reach before the bundle, none for a dead name; SPB's values are those of its trigger unless
a fill of the register is still due (the value it then has is the model's reading, log 88); a failed fill of these registers
ends. -/
def Obligations.SpillsEnter : Prop :=
  ∀ (s : State) (h : Head) (e : Bool),
    ∀ x ∈ [(Instr.spb h e, false), (.fla h e, true)], s.completes x.1 = true →
      let d := (s.trigger .au h).lo
      let n := bitsN d 8 6 + 1
      let first := bitsN d 0 6
      let vf := d.getLsbD 16
      s.landed.spill.length < 4 ∧ ∃ r : Spill,
        s.finishes x.1 h
          { s.read h with
            spill := (s.read h).spill ++ [r]
            failed := (s.read h).failed.filter fun y => !(y.1 == vf && r.regs.contains (some y.2.1)) } ∧
        r.id = (s.read h).nextId ∧ r.fill = x.2 ∧ r.vfile = vf ∧ r.off = bitsN d 32 18 ∧ r.pos = 0 ∧ r.half = false ∧
        (r.regs.length = n ∧ ∀ i, i < n → r.regs[i]? = some
          (if vf then some (first + i)
           else if BitVec.ofNat 6 (first + i) = 0 ∨ s.landed.gDead (BitVec.ofNat 6 (first + i)) = true then none
           else some (s.landed.gPhys (BitVec.ofNat 6 (first + i))))) ∧
        (r.vals.length = n ∧ ∀ (i k : Nat), r.regs[i]? = some (some k) → r.vals[i]? = some
          (if x.2 = true ∨ (s.read h).token true vf k = true then none
           else some (if vf then
             let y := vget .zero (s.read h).v k
             (0#26 ++ y.tag.code ++ y.side ++ y.data : BitVec 1152) else (vget 0 (s.read h).g k).setWidth 1152)))

/-! ### Synchronisation, time and tasks -/

/-- R220, R221, R396, R419, R447, PHASE.T, PHASE.G, BAR and FENCE: an operation that holds the bundle after it, and knows how
many deferred faults there were. -/
def Sys2Proof.Claims.SyncsEnter : Prop :=
  ∀ (s : State) (h : Head) (e : Bool),
    ∀ x ∈ [(Instr.phaseT h e, SyncKind.phaseT), (.phaseG h e, .phaseG), (.bar h e, .bar), (.fence h e, .fence)],
      s.completes x.1 = true →
        let t := s.read h
        s.finishes x.1 h
          { t with sync := t.sync ++ [⟨x.2, t.nextId, t.nb, t.inh, false, (t.deferred.map (·.count)).getD 0⟩] } ∧
        (x.2 = .phaseG ∨ x.2 = .bar → s.landed.inh = true → s.landed.arr = false ∧ s.landed.gangSize = 1)

/-- R409, R463, R477, R478, R495, SLNS, TWNS, TSTMP, CYCLE and WAIT: SLNS starts its interval of ceil(T · f / 10^9)
cycles, of the handler or of the interrupted code; TWNS keeps a bound that the next WAIT consumes; TSTMP, CYCLE and WAIT
take a place, CYCLE's valid at once with the count of cycles. -/
def Sys2Proof.Claims.WaitsAndTime : Prop :=
  ∀ (s : State) (h : Head) (e : Bool),
    let t := s.read h
    let x := (s.trigger .sy h).lo
    let cycles := fun ns => (ns * s.view.mhz + 999) / 1000
    (s.completes (.slns h e) = true → s.finishes (.slns h e) h
      (if t.inh then { t with slnsH := cycles x.toNat } else { t with slns := cycles x.toNat })) ∧
    (s.completes (.twns h e) = true → s.finishes (.twns h e) h
      { t with twb := if x = 0 then none else some x.toNat }) ∧
    (s.completes (.tstmp h e) = true → s.finishes (.tstmp h e) h (placed t 1 .raw (sampledOps s h .sy e 0x07))) ∧
    (s.completes (.cycle h e) = true → s.finishes (.cycle h e) h
      ((placed t 1 .raw (sampledOps s h .sy e 0x08)).arrive 1 t.nextId (.ofScalar (BitVec.ofNat 64 t.cyc)) 0)) ∧
    (s.completes (.wait h e) = true → x &&& 0x1F0F ≠ 0 ∧ x &&& ~~~0x1F1F = 0 ∧
      let o := sampledOps s h .sy e 0x04
      s.finishes (.wait h e) h
        { placed t 1 .raw o with
          waits := t.waits ++ [⟨t.nextId, x, [o.e00, o.e01, o.e10, o.e11], t.twb.map cycles⟩], twb := none })

/-- SY's synchronising operations, WAIT and times. -/
def Obligations.SyncsAndWaitsEnter : Prop :=
  SyncsEnter ∧ WaitsAndTime

/-- R180, R183, ENQ and JOIN: a place, and a request that carries the queue's number and the 32-byte record read at
O0[e], or the latch's address. -/
def Sys2Proof.Claims.TasksEnter : Prop :=
  ∀ (s : State) (h : Head) (e : Bool),
    let x := (s.trigger .sy h).lo
    let off := (s.operand .sy 0 e).lo.toNat
    (s.completes (.enq h e) = true → x.toNat < 256 ∧ off % 32 = 0 ∧ off + 32 ≤ s.landed.limit ∧
      let o := sampledOps s h .sy e 0x09
      s.finishes (.enq h e) h (asked (placed (s.read h) 1 .raw o) (.enq x.toNat off) o
        [⟨0, 0, 32, .hit 0, BitVec.ofNat 1120 (s.landed.spm.value off 32)⟩])) ∧
    (s.completes (.join h e) = true → x.toNat % 64 = 0 ∧
      let o := sampledOps s h .sy e 0x0A
      s.finishes (.join h e) h
        (asked (placed (s.read h) 1 .raw o) .join o [⟨0, x, 64, .issue, 0⟩]))

/-- R193, R30, R90, R99, R105, R111, R119, R213, R259: what stands at the offsets of the tile window's blocks, the results,
the inbox and the run state aside: the write log's data and tags, the accumulators, the physical g registers, the v
registers' records, the predicates, the special registers and the operand entries. -/
def Sys2Proof.Claims.WindowBlocks : Prop :=
  ∀ (env : Env) (t : Tile) (lock : BitVec 6), let at_ := t.winRead env lock
    (∀ k, k < 4096 → at_ (0x50000 + 8 * k) = ((t.logAt k).map fun x => histData x.hist).getD 0 ∧
      at_ (0x58000 + 8 * k) = ((t.logAt k).map fun x => logTag (histMask x.hist) x.dbl).getD 0) ∧
    (∀ n i j, n < 4 → i < 32 → j < 32 →
      at_ (0x60000 + 0x2000 * n + 8 * (32 * i + j)) = vget 0 (vget (Vector.replicate 32 0) t.mx.acc (32 * n + i)) j) ∧
    (∀ n, n < 64 → at_ (0x70000 + 8 * n) = vget 0 t.g n) ∧
    (∀ n k, n < 32 → k < 18 → at_ (0x71000 + 144 * n + 8 * k) = chunk (vget .zero t.v n).record k) ∧
    at_ 0x74000 = t.p.setWidth 64 ∧ (∀ n, n < 8 → at_ (0x74008 + 8 * n) = vget 0 t.q n) ∧
    (∀ r : SReg, at_ (0x75000 + 8 * r.num.toNat) = t.sregRead env r) ∧
    ∀ (k : Sock) (p : Nat) (e : Bool), p < 2 → let b := 0x80000 + 0x200 * ((4 * k.num.toNat + p) * 2 + e.toNat)
      match k, p with
      | .cu, 1 => at_ b = 0
      | .mx, _ => ∀ j, j < 36 → at_ (b + 8 * j) = chunk (t.entry k p e).rowBits j
      | .va, _ | .vf0, _ | .vf1, _ | .vx, _ | .sf, _ | .au, 1 =>
        ∀ j, j < 18 → at_ (b + 8 * j) = chunk (t.entry k p e).vreg.record j
      | _, _ => at_ b = (t.entry k p e).lo ∧ at_ (b + 8) = 0

/-- A record of 256 bytes at offset `b` shows a result, as R352 lays it out. -/
def Sys2Proof.Claims.shows (at_ : Nat → W64) (b : Nat) (x : Val) (fl : Flags) (off : Nat) (rep : FaultRep)
    (rt hp flt ready unread : Bool) (opc : BitVec 6) : Prop :=
  (∀ k, k < 16 → at_ (b + 8 * k) = chunk x.data k) ∧ at_ (b + 128) = chunk x.side 0 ∧
    at_ (b + 136) = chunk x.side 1 &&& 0xFFFFFFFF ∧
    at_ (b + 144) = (1#1 ++ fl ++ BitVec.ofNat 16 off ++ rep.code ++ 0#5 ++ BitVec.ofBool rt ++ BitVec.ofBool hp ++
      BitVec.ofBool flt ++ BitVec.ofBool ready ++ BitVec.ofBool unread ++ 0#8 ++ opc ++ 0#2 ++ x.tag.code : BitVec 64) ∧
    at_ (b + 152) = rep.addr

/-- The areas of the fixed-latency sockets but MX (R351): number, base, records. -/
def Sys2Proof.Claims.fixedAreas : List (Nat × Nat × Nat) :=
  [(0, 0x90000, 4), (1, 0x90400, 4), (2, 0x90800, 4), (3, 0x90C00, 20), (4, 0x95400, 8), (5, 0x95C00, 8),
   (6, 0x96400, 8), (7, 0x96C00, 12)]

/-- The areas of the result queues (R351): queue, base, places. -/
def Sys2Proof.Claims.placeAreas : List (Nat × Nat × Nat) :=
  [(0, 0x92000, 32), (1, 0x94000, 4), (2, 0x94400, 8), (3, 0x94C00, 8), (4, 0x97800, 4), (5, 0x97C00, 4),
   (6, 0x98000, 8)]

/-- R351, R352: record 0 of a fixed-latency socket shows its live port; while INH is 1 record 1 shows the captured port,
and the next ones the captured results, of MX its results in flight by the bundles to go (log 107), and while it is 0 they hold none;
a queue's records show its places from the head,
with the operands of a saved wait. -/
def Sys2Proof.Claims.WindowResults : Prop :=
  ∀ (env : Env) (t : Tile) (lock : BitVec 6), let at_ := t.winRead env lock
    (∀ i b n, (i, b, n) ∈ fixedAreas → let f := t.fixedAt i
      (f.port.full = true → shows at_ b f.port.val f.port.fl 0 f.port.rep false false f.port.flt false f.port.unread
        f.port.opc) ∧
      (f.port.full = false → at_ (b + 144) = 0) ∧
      (t.inh = false → ∀ k, 1 ≤ k → k < n → at_ (b + 256 * k + 144) = 0) ∧
      (t.inh = true → (∀ p, f.shPort = some p → p.full = true →
          shows at_ (b + 256) p.val p.fl 0 p.rep false false p.flt false p.unread p.opc) ∧
        ∀ k x, k + 2 < n → f.shadows[k]? = some x →
          shows at_ (b + 256 * (k + 2)) x.val x.fl x.due x.rep false false x.flt false x.unread x.opc)) ∧
    (∀ q b n, (q, b, n) ∈ placeAreas → ∀ k, k < n →
      ((t.queue q)[k]? = none → at_ (b + 256 * k + 144) = 0) ∧
      ∀ p, (t.queue q)[k]? = some p →
        shows at_ (b + 256 * k) p.val p.fl 0 p.rep p.rt p.hp p.flt p.ready false p.ops.opc ∧
        at_ (b + 256 * k + 160) = (if p.rt then p.ops.t.lo else 0) ∧
        at_ (b + 256 * k + 168) = (if p.rt then p.ops.e00 else 0) ∧
        at_ (b + 256 * k + 176) = (if p.rt then p.ops.e01 else 0) ∧
        at_ (b + 256 * k + 184) = (if p.rt then p.ops.e10 else 0) ∧
        at_ (b + 256 * k + 192) = (if p.rt then p.ops.e11 else 0) ∧
        at_ (b + 256 * k + 200) =
          (if p.rt then BitVec.ofNat 64 ((if p.ops.e then 64 else 0) + p.ops.opc.toNat) else 0)) ∧
    (let f := t.fixedAt 8
     let p := f.port
     (∀ k, k < 32 → at_ (0x99000 + 8 * k) = chunk p.val.data k) ∧
     (∀ k, k < 3 → at_ (0x99100 + 8 * k) = chunk p.val.side k) ∧ at_ 0x99118 = 0 ∧ at_ 0x99128 = p.rep.addr ∧
     (p.full = false → at_ 0x99120 = 0) ∧
     (t.inh = false → ∀ k, 1 ≤ k → k < 16 → at_ (0x99120 + 512 * k) = 0) ∧
     (t.inh = true →
       (∀ q, f.shPort = some q → (q.full = false → at_ 0x99320 = 0) ∧
         (∀ k, k < 32 → at_ (0x99200 + 8 * k) = chunk q.val.data k) ∧
         (q.full = true → (at_ 0x99320).getLsbD 63 = true ∧ (at_ 0x99320).getLsbD 22 = q.unread ∧
           (at_ 0x99320).extractLsb' 8 6 = q.opc)) ∧
       ∀ k x, k + 2 < 16 → f.pipe[k]? = some x →
         (∀ j, j < 32 → at_ (0x99000 + 512 * (k + 2) + 8 * j) = chunk x.val.data j) ∧
         (at_ (0x99120 + 512 * (k + 2))).getLsbD 63 = true ∧
         (at_ (0x99120 + 512 * (k + 2))).extractLsb' 40 16 = BitVec.ofNat 16 (x.due - t.mxNow)))

/-- R353, R307, R198: the fields of a tile's control and run state, the inbox's words and counts, and the grants. -/
def Sys2Proof.Claims.WindowState : Prop :=
  ∀ (env : Env) (t : Tile) (lock : BitVec 6), let at_ := t.winRead env lock
    (at_ 0xB1000).getLsbD 8 = t.inh ∧ (at_ 0xB1000).extractLsb' 16 6 = lock ∧
    (at_ 0xB1000).extractLsb' 0 3 = (match t.run with
      | .idle => 0 | .running => if t.stopReq then 4 else if lock = 0 then 1 else 2
      | .parked => 3 | .stopping => 4 | .draining => 5 | .quarantined => 6) ∧
    at_ 0xB1008 = BitVec.ofNat 64 ((List.range 4).filter (lcActive t.lc)).length ∧
    (at_ 0xB1010).extractLsb' 0 32 = t.barCount ∧ (at_ 0xB1010).getLsbD 32 = t.arr ∧ (at_ 0xB1010).getLsbD 33 = t.rel ∧
    at_ 0xB1018 = BitVec.ofNat 64 t.img ∧ (at_ 0xB1020).getLsbD 63 = t.twb.isSome ∧
    (∀ b, t.twb = some b → at_ 0xB1020 &&& 0x7FFFFFFFFFFFFFFF = BitVec.ofNat 64 (b % 2 ^ 63)) ∧
    (t.slns ≠ 0 → at_ 0xB1028 = BitVec.ofNat 64 (max t.slns t.slnsH)) ∧
    (at_ 0xB1030).getLsbD 0 = t.sf.cm ∧ (at_ 0xB1030).extractLsb' 32 32 = t.sf.gen ∧
    at_ 0xB1038 = BitVec.ofNat 64 t.spill.length ∧
    (∀ k, k < 4 → at_ (0xB1040 + 8 * k) = chunk t.dirty k) ∧
    (t.mx.cursor < 8 → at_ 0xB1060 =
      (0#5 ++ BitVec.ofNat 3 t.mx.cursor ++ 0#6 ++ BitVec.ofNat 18 t.mx.wp ++ 0#14 ++ BitVec.ofNat 18 t.mx.rp : BitVec 64)) ∧
    at_ 0xB1068 = BitVec.ofNat 64 t.mx.queue.length ∧ at_ 0xB1070 = BitVec.ofNat 64 t.cyc ∧
    (∀ q, q < 6 → at_ (0xB1100 + 8 * q) = (t.strmAt q).bind) ∧ at_ 0xB1800 = 0 ∧
    (∀ k j m, k < 64 → j < 16 → (t.inboxAll)[k]? = some m → at_ (0xA0000 + 128 * k + 8 * j) = (m.all[j]?).getD 0) ∧
    at_ 0xA2000 = BitVec.ofNat 64 (min t.disc 0xFFFF * 2 ^ 48 + t.inboxAll.length) ∧
    (∀ k, k < 4 → at_ (0xA3000 + 16 * k) = (vget .empty t.cbufs k).counts ∧
      at_ (0xA3008 + 16 * k) = (vget .empty t.cbufs k).desc) ∧
    ∀ j, j < 4 → at_ (0xB0000 + 8 * j) = vget 0 t.grants j

/-- R194, R103, R111, R114, R352, R353: what a double written into the window changes: a register, an accumulator's
element, a predicate's bits, a special register's writable bits, a double of an operand entry, the value, tag, flags, code
and marks of a result that stands there, the TWNS bound; read-only blocks, dead g positions, p0 and p1, a port that holds
no result and a place that is not ready ignore it. -/
def Sys2Proof.Claims.WindowWrites : Prop :=
  ∀ (t : Tile) (x : W64),
    (∀ o, o < 0x60000 ∨ (0xA0000 ≤ o ∧ o ≠ 0xB0000 ∧ o ≠ 0xB1020) → t.winWrite o x = t) ∧
    (∀ n i j, n < 4 → i < 32 → j < 32 → t.winWrite (0x60000 + 0x2000 * n + 8 * (32 * i + j)) x =
      let row := vput (vget (Vector.replicate 32 0) t.mx.acc (32 * n + i)) j x
      { t with mx := { t.mx with acc := vput t.mx.acc (32 * n + i) row } }) ∧
    (∀ n, n < 64 → t.winWrite (0x70000 + 8 * n) x =
      if n = 0 ∨ (32 ≤ n ∧ t.ld ≤ (n - t.rrb) % 32) then t else { t with g := vput t.g n x }) ∧
    (∀ n k, n < 32 → k < 18 → t.winWrite (0x71000 + 144 * n + 8 * k) x =
      { t with v := vput t.v n (VReg.ofRecord (setChunk (vget .zero t.v n).record k x)) }) ∧
    (∀ (r : BitVec 1152) k j, k < 18 → j < 18 → chunk (setChunk r k x) j = if j = k then x else chunk r j) ∧
    t.winWrite 0x74000 x = { t with p := (x.setWidth 16 &&& 0xFFFC) ||| 1 } ∧
    (∀ n, n < 8 → t.winWrite (0x74008 + 8 * n) x = { t with q := vput t.q n x }) ∧
    (∀ r : SReg, t.winWrite (0x75000 + 8 * r.num.toNat) x =
      if r = .rrc then (t.sregWrite x .rrc).gZeroDead else t.sregWrite x r) ∧
    (∀ (k : Sock) (p : Nat) (e : Bool), k ∈ [.ia0, .ia1, .im, .sy, .ch, .cp, .gp] → p < 2 →
      t.winWrite (0x80000 + 0x200 * ((4 * k.num.toNat + p) * 2 + e.toNat)) x =
        { t with opnd := vput t.opnd (opndIdx k p e) (.ofScalar x) }) ∧
    (∀ (k : Sock) (p : Nat) (e : Bool) (j : Nat), k ∈ [.va, .vf0, .vf1, .vx, .sf] → p < 2 → j < 18 →
      t.winWrite (0x80000 + 0x200 * ((4 * k.num.toNat + p) * 2 + e.toNat) + 8 * j) x =
        let y := (VReg.ofRecord (setChunk (t.entry k p e).vreg.record j x)).val
        { t with opnd := vput t.opnd (opndIdx k p e) y }) ∧
    (∀ i b n, (i, b, n) ∈ fixedAreas → let p := (t.fixedAt i).port
      (p.full = false → ∀ k, k < 32 → ((t.winWrite (b + 8 * k) x).fixedAt i).port = p) ∧
      (p.full = true →
        ((t.winWrite (b + 144) x).fixedAt i).port = { p with
          val := { p.val with tag := Tag.ofCode (x.setWidth 6) }
          fl := x.extractLsb' 56 7
          flt := x.getLsbD 24
          rep := { p.rep with code := x.extractLsb' 32 8 }
          unread := x.getLsbD 22 } ∧
        ∀ k, k < 16 → ((t.winWrite (b + 8 * k) x).fixedAt i).port =
          { p with val := { p.val with data := setChunk p.val.data k x } })) ∧
    (∀ q b n k p, (q, b, n) ∈ placeAreas → k < n → (t.queue q)[k]? = some p →
      (∀ j, j < 32 → p.ready = false → ((t.winWrite (b + 256 * k + 8 * j) x).queue q)[k]? = some p) ∧
      (p.ready = true → ((t.winWrite (b + 256 * k + 144) x).queue q)[k]? = some { p with
        val := { p.val with tag := Tag.ofCode (x.setWidth 6) }
        fl := x.extractLsb' 56 7
        flt := x.getLsbD 24
        rep := { p.rep with code := x.extractLsb' 32 8 } })) ∧
    t.winWrite 0xB1020 x = { t with twb := if x.getLsbD 63 then some (bitsN x 0 63) else none }

/-- R440, R465, R466, MODE, SRD and SWR: MODE answers FLM as it stood and writes the bits that its mask selects; SRD
answers, and SWR writes, the window double at T, after the bundle's rotation (which changes what no g name reads) and
MX's load hold. -/
def Sys2Proof.Claims.ModeAndWindow : Prop :=
  ∀ (s : State) (h : Head) (e : Bool),
    let t := s.read h
    let x := (s.trigger .sy h).lo
    let y := (s.operand .sy 0 e).lo
    (s.completes (.mode h e) = true → y &&& ~~~0x4F0E = 0 ∧ ∃ v,
      s.finishes (.mode h e) h v ∧
        v = { (placed t 1 .raw (sampledOps s h .sy e 0x0B)).arrive 1 t.nextId (.ofScalar s.landed.flm) 0 with
              flm := ((t.flm &&& ~~~y) ||| (x &&& y)) &&& 0x4F0E }) ∧
    ∃ (g : Vector W64 64) (m : Mx), (∀ n, ({ t with g := g } : Tile).gRead n = t.gRead n) ∧
      (m = t.mx ∨ m = t.mx.extend) ∧
      let u := { t with g := g, mx := m }
      (s.completes (.srd h e) = true → s.finishes (.srd h e) h
        ((placed u 1 .raw (sampledOps s h .sy e 0x0C)).arrive 1 t.nextId
          (.ofScalar (u.winRead s.view 0 x.toNat)) 0)) ∧
      (s.completes (.swr h e) = true → s.finishes (.swr h e) h (u.winWrite x.toNat y))

/-- ENQ, JOIN, MODE, SRD and SWR, and what the window that SRD reads and SWR writes holds. That a write of RRC through the window
clears dead positions at once is the model's reading (log 27), and so are MX's records (log 107). -/
def Obligations.TasksAndModesEnter : Prop :=
  TasksEnter ∧ ModeAndWindow ∧ WindowBlocks ∧ WindowResults ∧ WindowState ∧ WindowWrites

/-! ### Messages, collectives and copies -/

/-- R304, R306, R308, R404, R451, R460, R469, the operations of CH: a send queued with its payload (one to the tile's own
device is a deferred fault), a RECV that waits for a message or takes one, a stream queue bound or cleared, and a
collective submitted with its card, its device list, and what its DST and its SRC hold: from now on DST stands undefined
(what stands there is the model's free value, log 79). -/
def Sys2Proof.Claims.ChannelsEnter : Prop :=
  ∀ (s : State) (h : Head) (e : Bool),
    let t := s.read h
    let x := (s.trigger .ch h).lo
    let payload := (List.range (bitsN x 56 4)).map fun k => s.landed.spm.double ((s.operand .ch 0 e).lo.toNat + 8 * k)
    (s.completes (.send h e) = true → s.landed.sends.length < 8 ∧ s.finishes (.send h e) h
      { t with sends := t.sends ++ [⟨t.nextId, false, x, payload, false⟩] }) ∧
    (s.completes (.sendP h e) = true → s.landed.sends.length < 8 ∧ s.finishes (.sendP h e) h
      (if bitsN x 36 20 = s.view.devid.toNat then t.defer 0x10 x 0
       else { t with sends := t.sends ++ [⟨t.nextId, true, x, payload, false⟩] })) ∧
    (s.completes (.recv h e) = true → x.toNat % 8 = 0 ∧ x.toNat + 72 ≤ s.landed.limit ∧ ∃ v,
      s.finishes (.recv h e) h v ∧
      let u := placed t 2 .raw (sampledOps s h .ch e 0x02)
      (t.inbox = [] → v = { u with recvs := t.recvs ++ [⟨t.nextId, x.toNat⟩] }) ∧
      ∀ m rest, t.recvs = [] → t.inbox = m :: rest →
        v = (({ u with inbox := rest }.writeMsg x.toNat m).arrive 2 t.nextId (.ofScalar m.hdr) 0)) ∧
    (s.completes (.strm h e) = true → bitsN x 0 3 < 6 ∧ s.finishes (.strm h e) h
      { t with strm := vput t.strm (bitsN x 0 3) (if x.getLsbD 63 then ⟨x, [], [], false⟩ else .empty) }) ∧
    (s.completes (.coll h e) = true → x.toNat % 64 = 0 ∧
      let card := s.landed.card x.toNat
      let n := collDstLen card s.landed.gangSize
      ∃ old undef early : List Byte, undef.length = n ∧ old.length = n ∧ (t.colls = [] → old = t.spm.read (collDst card) n) ∧
        ((∀ r ∈ t.reqs, r.kind.isStore = false) →
          early = t.spm.read (collSrc card) (collSrcLen card s.landed.gangSize)) ∧
        s.finishes (.coll h e) h
        { placed t 2 .raw (sampledOps s h .ch e 0x04) with
          spm := t.spm.write (collDst card) undef
          colls := t.colls ++ [⟨t.nextId, card,
            BitVec.ofNat 16384 (s.landed.spm.value (bitsN (vget 0 card 4) 0 18)
              (if (vget 0 card 0).getLsbD 50 then 4 * (bitsN (vget 0 card 0) 41 9 + 1) else 0)), none, 0,
            old, early⟩] })

/-- R280, R283, R287, R296, R405 to R408, the operations of CP: a copy submitted with its card and the nest it names,
CPYM's with its MLDB and MMA behind it in MX's queue; a nest loaded; a circular buffer set up with every slot free; a
slot freed, and a TAKE that waits for a filled slot or takes it. -/
def Sys2Proof.Claims.CopiesEnter : Prop :=
  ∀ (s : State) (h : Head) (e : Bool),
    let t := s.read h
    let x := (s.trigger .cp h).lo
    let w := s.landed.card x.toNat
    let card : Card := ⟨w, vget 0 s.landed.nests (bitsN (vget 0 w 2) 54 3)⟩
    (s.completes (.cpy h e) = true → x.toNat % 64 = 0 ∧ s.finishes (.cpy h e) h
      { placed t 3 .raw (sampledOps s h .cp e 0x00) with cpys := t.cpys ++ [⟨t.nextId, card, false, none⟩] }) ∧
    (s.completes (.cpym h e) = true → x.toNat % 64 = 0 ∧
      let f := vget 0 w 7
      s.finishes (.cpym h e) h
        { placed t 3 .raw (sampledOps s h .cp e 0x01) with
          cpys := t.cpys ++ [⟨t.nextId, card, true, none⟩]
          mx := { t.mx with queue := t.mx.queue ++
            [⟨t.nextId, t.nb, .mldb (f.getLsbD 0) (bitsN f 4 4) false (8 * bitsN f 16 15) [] (some t.nextId) false⟩,
             ⟨t.nextId, t.nb, .mma (f.getLsbD 34) (f.getLsbD 35) (bitsN f 32 2)⟩] } }) ∧
    (s.completes (.cpnest h e) = true → x.toNat % 256 = 0 ∧ (s.operand .cp 0 e).lo.toNat < 8 ∧ s.finishes (.cpnest h e) h
      { t with nests := vput t.nests (s.operand .cp 0 e).lo.toNat (BitVec.ofNat 2048 (s.landed.spm.value x.toNat 256)) }) ∧
    (s.completes (.cpbuf h e) = true → s.finishes (.cpbuf h e) h
      { t with cbufs := vput t.cbufs (bitsN x 0 2) ⟨x, bitsN x 16 6 + 1, 0, 0, 0, 0, 0, 0, 0, []⟩ }) ∧
    (s.completes (.cpadv h e) = true → 0 < x.toNat ∧ x.toNat < 16 ∧ ∃ v, s.finishes (.cpadv h e) h v ∧
      let k := bitsN x 0 2
      let b := t.cbuf k
      let freed := if x.getLsbD 2 then
          (if b.taken = 0 then { b with owed := b.owed + 1 } else { b with taken := b.taken - 1, free := b.free + 1 })
        else b
      let u := { t with cbufs := if x.getLsbD 2 then vput t.cbufs k freed else t.cbufs }
      (x.getLsbD 3 = false → v = u) ∧
      (x.getLsbD 3 = true → (∀ y ∈ t.takes, y.buf ≠ k) →
        let p := placed u 3 .raw (sampledOps s h .cp e 0x04)
        (freed.filled = 0 → v = { p with takes := t.takes ++ [⟨t.nextId, k⟩] }) ∧
        (freed.filled ≠ 0 → freed.owed = 0 → (∀ y ∈ t.takes, y.id ≠ t.nextId) →
          v = ({ p with cbufs := vput t.cbufs k { freed with
              filled := freed.filled - 1, taken := freed.taken + 1
              takeAt := (freed.takeAt + 1) % (bitsN b.desc 16 6 + 1) } }.arrive 3 t.nextId
            (.ofScalar (BitVec.ofNat 64 (bitsN b.desc 32 18 + freed.takeAt * (bitsN b.desc 4 12 * 128)))) 0))))

/-- The operations of CH and CP. -/
def Obligations.ChannelsAndCopiesEnter : Prop :=
  ChannelsEnter ∧ CopiesEnter

/-! ### GP, SF and MX -/

/-- R311, R313, R323, R324 to R332, the operations of GP and SF: a place in each of the unit's result queues, and the
operation at the tail of the unit's queue with its sampled operands; SFCM's mode changes at once. -/
def Sys2Proof.Claims.UnitsEnter : Prop :=
  ∀ (s : State) (h : Head) (e : Bool),
    let t := s.read h
    (∀ x ∈ [(Instr.ori2 h e, (0 : BitVec 6)), (.ori3 h e, 1), (.incir h e, 2), (.insph h e, 3), (.segx h e, 4),
        (.gpst h e, 0x10)], s.completes x.1 = true →
      let o := sampledOps s h .gp e x.2
      s.finishes x.1 h
        { placed (placed t 4 .i64 o) 5 (if x.2 = 0x10 then .raw else .pred) o with
          gp := { t.gp with queue := t.gp.queue ++ [⟨t.nextId, x.2, o.t.lo.toNat, o.o0.lo.setWidth 16, o.o1.lo.getLsbD 0,
            o.o1.lo.getLsbD 1, bitsN o.o1.lo 2 2, t.cyc, t.nb⟩] } }) ∧
    (∀ x ∈ [(Instr.sfn h e, (0 : BitVec 6), (s.trigger .sf h).tag), (.sfrow h e, 1, .fp64), (.sfld h e, 2, .raw)],
      s.completes x.1 = true →
      let o := sampledOps s h .sf e x.2.1
      ∃ sel, s.finishes x.1 h
        { placed t 6 x.2.2 o with
          sf := { t.sf with queue := t.sf.queue ++
            [⟨t.nextId, t.nb, x.2.1, o.t, o.o0.lo, sel, s.landed.fpc.setWidth 2, s.landed.sf.cm⟩] } } ∧
        ∀ m b, s.gateOf h = .lanes m b → sel = m) ∧
    (s.completes (.sfcm h e) = true →
      let o := sampledOps s h .sf e 3
      o.t.lo.toNat < 4 ∧ ∃ sel, s.finishes (.sfcm h e) h
        { placed t 6 .raw o with
          sf := { t.sf with
            queue := t.sf.queue ++ [⟨t.nextId, t.nb, 3, o.t, if t.sf.cm then 1 else 0, sel, 0, t.sf.cm⟩]
            cm := if o.t.lo.getLsbD 1 then t.sf.cm else o.t.lo.getLsbD 0 } })

/-- R263, R266 to R273, the operations of MX: the pointers take what T gives, and the operation stands at the tail of the
queue; MZRO of no accumulator only writes the pointers. -/
def Sys2Proof.Claims.MatrixOpsEnter : Prop :=
  ∀ (s : State) (h : Head) (e : Bool),
    let t := s.read h
    let x := (s.trigger .mx h).lo
    let entries := (List.range 8).map fun i => s.operand .mx (i / 2) (i % 2 == 1)
    let mode := BitVec.setWidth 2 s.landed.fpc
    let m := { t.mx with
      rp := if x.getLsbD 32 then 8 * bitsN x 34 15 else t.mx.rp
      wp := if x.getLsbD 33 then 8 * bitsN x 49 15 else t.mx.wp }
    ∀ y ∈ [(Instr.mlda h e, MxOp.mlda (x.getLsbD 0) (bitsN x 4 4) ((s.operand .mx 0 e).data.setWidth 512)),
        (.mldb h e, .mldb (x.getLsbD 0) (bitsN x 4 4) (x.getLsbD 1) (8 * bitsN x 16 15)
          (if x.getLsbD 1 then entries else []) none false),
        (.mma h e, .mma (x.getLsbD 2) (x.getLsbD 3) (bitsN x 0 2)),
        (.mzro h e, .mzro (x.setWidth 4)),
        (.mrd h e, .mrd (x.getLsbD 12) (bitsN x 10 2) (bitsN x 4 5) (bitsN x 0 2) mode),
        (.mqrd h e, .mqrd (x.getLsbD 16) (bitsN x 12 4) (bitsN x 4 5) (bitsN x 0 2) mode)],
      s.completes y.1 = true → s.landed.inh = false ∧ s.finishes y.1 h
        (if y.2 = .mzro 0 then { t with mx := m }
         else { t with mx := { m with queue := m.queue ++ [⟨t.nextId, t.nb, y.2⟩] } })

/-- The operations of GP, SF and MX. -/
def Obligations.UnitsAndMatrixEnter : Prop :=
  UnitsEnter ∧ MatrixOpsEnter

/-! ### Events: bundles, pipelines and engines -/

/-- R46, the general bundle: where the waiting bundle of the current tile holds just one move word, a cycle of the tile is
the meaning of that move word. -/
def Sys2Proof.Claims.OneMoveBundles : Prop :=
  ∀ (s : State) (i : Instr), s.waitingMove = some i →
    exec (.bundleIssue s.cur) s = exec i s ∧ exec i s = .next (s.runBundle s.cur)

/-- R24, R80, R102, R103: a bundle of any number of moves into g registers reads every source before any is written, all
under RRB as it stood; without ROT each name written reads as its value, and the others as before. With ROT, RRB counts
down after the writes: what a name of the rotating region held its successor holds, g32 what g63 held, and a name at a dead
position reads as zero. -/
def Sys2Proof.Claims.BundlesOfMoves : Prop :=
  ∀ (s : State) (b : Bundle) (ws : List (Head × BitVec 6)), s.bundleIssues b = true →
    b.moves = ws.map (fun x => Instr.move x.1 (.g x.2)) → (ws.map (·.2)).Nodup →
    let u := s.landed
    let value := fun n : BitVec 6 =>
      match ws.find? fun x => x.2 == n && decide (s.gateOf x.1 ≠ .off) with
      | some x => if n = 0 ∨ u.gDead n = true then 0 else (s.source x.1).lo
      | none => u.gRead n
    ∃ t : Tile, exec (.bundleIssue s.cur) s = .next (s.ready.setTile s.cur t) ∧
      t.p = u.p ∧ t.q = u.q ∧ t.v = u.v ∧ t.opnd = u.opnd ∧ t.spm = u.spm ∧ t.log = u.log ∧ t.flm = u.flm ∧
      (b.rot = false → t.rrc = u.rrc ∧ ∀ n, t.gRead n = value n) ∧
      (b.rot = true → t.rrb = (u.rrb + 31) % 32 ∧ t.ld = u.ld ∧ (∀ n, n.toNat < 32 → t.gRead n = value n) ∧
        (∀ n, 33 ≤ n.toNat → t.gRead n = if u.gDead n then 0 else value (n - 1)) ∧
        (u.ld = 32 → t.gRead 32 = value 63) ∧
        (u.ld < 32 → (∀ n, u.gDead n = true → vget 0 u.g (u.gPhys n) = 0) → t.gRead 32 = 0))

/-- R24: an operation of IA triggered in the bundle that also moves into its entry O0[e], in either order, takes the value
that the bundle moves there. -/
def Sys2Proof.Claims.EntryReachesItsTrigger : Prop :=
  ∀ (s : State) (b : Bundle) (h k : Head) (u e : Bool), ∀ x ∈ ia, s.bundleIssues b = true →
    b.moves = [.move h (.opnd (iaSock u) 0 e), x.1 k u e] ∨ b.moves = [x.1 k u e, .move h (.opnd (iaSock u) 0 e)] →
    s.gateOf h = .all → s.gateOf k ≠ .off →
    ∃ t : Tile, exec (.bundleIssue s.cur) s = .next (s.ready.setTile s.cur t) ∧
      t.entry (iaSock u) 0 e = .ofScalar (s.source h).lo ∧
      ∃ f ∈ (t.fixedAt (if u then 2 else 1)).pipe, f.due = s.landed.nb + 1 ∧
        f.val = .ofScalar (x.2 (s.source h).lo (s.operand (iaSock u) 1 e).lo (s.trigger (iaSock u) k).lo)

/-- Bundles: of one move, of several, and of an operation with its operand. -/
def Obligations.BundleIssueRunsTheMove : Prop :=
  OneMoveBundles ∧ BundlesOfMoves ∧ EntryReachesItsTrigger

/-- R38 to R41, R265, R274, R275, R338, RESULT_LAND, MX_OP_START, MX_LOAD_READY and MMA_COMPLETE: where the waiting bundle is
not held and what the event names is due in it, the start of that bundle is made, and kept so that it can be undone: that any
of the four events makes the whole start, ahead of the bundle and undoable, is the model's reading of R338 (log 22). In
free-running mode a port takes the last result due; in data-locked mode the first, once the port has been read. A load
writes its file, and MLDA the latch, whose cursor returns to 0. The head of MX's queue starts, but in a bundle that performs
END (R412); MMAs that are due are done. -/
def Sys2Proof.Claims.BundleStarts : Prop :=
  ∀ (s : State) (k : Nat), s.unlocked k = true →
    let t := s.tile k
    ∃ u : Tile, u.undo = t ∧
      ((∃ f ∈ vlist t.fixed, ∃ x ∈ f.pipe, x.due ≤ t.nb) → exec (.resultLand k) s = .next (s.setTile k u)) ∧
      (t.inh = false → (t.landings.1.mx.dueStart t.nb).isSome = true →
        exec (.mxOpStart k) s = .next (if t.endsNow (s.env k) then s else s.setTile k u)) ∧
      (t.inh = false → (t.mx.loadDue t.nb).isSome = true → exec (.mxLoadReady k) s = .next (s.setTile k u)) ∧
      (t.inh = false → (∃ r ∈ t.mx.runs, r.done ≤ t.nb) → exec (.mmaComplete k) s = .next (s.setTile k u)) ∧
      (∀ j, j < 8 →
        let f := t.fixedAt j
        let due := f.pipe.filter (·.due ≤ t.nb)
        (fixedLocked t.flm j = false → ∀ x, due.getLast? = some x →
          (u.fixedAt j).port = ⟨x.val, true, x.opc, true, x.fl, x.flt, x.rep⟩ ∧
            (u.fixedAt j).pipe = f.pipe.filter fun y => !decide (y.due ≤ t.nb)) ∧
        (fixedLocked t.flm j = true → f.port.unread = false → ∀ x, due.head? = some x →
          (u.fixedAt j).port = ⟨x.val, true, x.opc, true, x.fl, x.flt, x.rep⟩) ∧
        (fixedLocked t.flm j = true → f.port.unread = true → (u.fixedAt j).port = f.port)) ∧
      (t.inh = false →
        (∀ l, t.mx.loadDue t.nb = some l →
          (∀ f w x, l.op = .mlda f w x → u.mx.fileA f = ⟨l.rows, w⟩ ∧ u.mx.latch = ⟨l.rows, w⟩ ∧ u.mx.cursor = 0) ∧
          (∀ f w x o c y z, l.op = .mldb f w x o c y z → u.mx.fileB f = ⟨l.rows, w⟩)) ∧
        (t.endsNow (s.env k) = true → u.mx.queue = t.mx.queue) ∧
        (t.endsNow (s.env k) = false → ∀ q, t.landings.1.mx.dueStart t.nb = some q →
          t.mx.queue = q :: u.mx.queue ∧ u.mx.lastStart = some t.nb) ∧
        ∀ r ∈ u.mx.runs, t.nb < r.done)

/-- Element (i, j) of an accumulator. -/
def Sys2Proof.Claims.accElem (m : Mx) (acc i j : Nat) : W64 := vget 0 (vget (Vector.replicate 32 0) m.acc (32 * acc + i)) j

/-- R143: element (i, j) after block `b` of an MMA, and the flags that this raises. -/
def Sys2Proof.Claims.afterBlock (x y : MxFile) (i j b : Nat) (acc : W64) : W64 × Flags :=
  let (qa, sa) := x.block i b
  let (qb, sb) := y.block j b
  let p := ((List.range 32).map fun k => (qa[k]?).getD 0 * (qb[k]?).getD 0).sum
  let e : Int := (scaleE sa : Int) + scaleE sb - 2 * 127 - 2 * 16 - ((x.width - 1 : Nat) : Int) - ((y.width - 1 : Nat) : Int)
  let v := Fmt.f64.round .rne (decide (p < 0)) (p.natAbs * (65536 + scaleF sa) * (65536 + scaleF sb)) e
  let r := Fmt.f64.add .rne acc.toNat v.bits
  if scaleE sa = 255 ∨ scaleE sb = 255 then (BitVec.ofNat 64 Fmt.f64.nan, flBV)
  else if scaleE sa = 0 ∨ scaleE sb = 0 then (acc, 0)
  else (BitVec.ofNat 64 r.bits, v.fl ||| r.fl)

/-- What the start of a bundle that is not held leaves, where one of the four events says that it is made. -/
def Sys2Proof.Claims.Started (s : State) (k : Nat) (u : Tile) : Prop :=
  let t := s.tile k
  ((∃ f ∈ vlist t.fixed, ∃ x ∈ f.pipe, x.due ≤ t.nb) → exec (.resultLand k) s = .next (s.setTile k u)) ∧
    (t.inh = false → (∃ r ∈ t.mx.runs, r.done ≤ t.nb) → exec (.mmaComplete k) s = .next (s.setTile k u)) ∧
    (t.inh = false → (t.landings.1.mx.dueStart t.nb).isSome = true → t.endsNow (s.env k) = false →
      exec (.mxOpStart k) s = .next (s.setTile k u))

/-- R143, R144, R269 to R272, what MX's operations leave. An MMA that is due has added its two blocks, K ascending, to every
element of its accumulator, its flags in FPC, and to no other accumulator; MZRO sets the elements of the accumulators it names
to +0; MRD and MQRD send the row that they read to the result port, MRD in its format and MQRD quantised, each with its tag and
its flags. That an MMA applies both blocks as it completes is the model's choice (log 101). -/
def Sys2Proof.Claims.MatrixResults : Prop :=
  ∀ (s : State) (k : Nat), s.unlocked k = true → (s.tile k).inh = false →
    let t := s.tile k
    ∃ u : Tile, Started s k u ∧
      (∀ r, t.mx.runs.filter (·.done ≤ t.nb) = [r] → r.acc < 4 →
        (∀ q n, t.landings.1.mx.dueStart t.nb = some q → q.op ≠ .mzro n) →
        ∀ i j, i < 32 → j < 32 →
          let x := afterBlock r.a r.b i j 0 (accElem t.mx r.acc i j)
          let y := afterBlock r.a r.b i j 1 x.1
          accElem u.mx r.acc i j = y.1 ∧ orFlags u.fpc (x.2 ||| y.2) = u.fpc ∧
            ∀ n, n < 4 → n ≠ r.acc → accElem u.mx n i j = accElem t.mx n i j) ∧
      (t.endsNow (s.env k) = false → ∀ q, t.landings.1.mx.dueStart t.nb = some q →
        (∀ mask, q.op = .mzro mask → ∀ n i j, n < 4 → i < 32 → j < 32 →
          accElem u.mx n i j = if mask.getLsbD n then 0 else accElem t.landings.1.mx n i j) ∧
        (∀ hi fmt row acc mode, q.op = .mrd hi fmt row acc mode → fmt ≤ 2 →
          let f := if fmt = 0 then Fmt.f64 else if fmt = 1 then Fmt.f32 else Fmt.bf16
          let res := fun j => f.ofFp (RMode.of mode) (Fmt.f64.decode (accElem u.mx acc row j).toNat)
          ∃ x ∈ (u.fixedAt 8).pipe, x.due = t.nb + 4 ∧ x.id = q.id ∧ x.val.tag = f.tag ∧ x.val.side = 0 ∧
            x.val.data.toNat < 2 ^ (32 * f.width) ∧
            (fmt = 0 → x.fl = 0 ∧ ∀ j, j < 32 →
              elem x.val.data 64 j = (accElem u.mx acc row (if hi then (j + 16) % 32 else j)).toNat) ∧
            (fmt ≠ 0 → x.fl = (List.range 32).foldl (fun a j => a ||| (res j).fl) 0 ∧
              ∀ j, j < 32 → elem x.val.data f.width j = (res j).bits % 2 ^ f.width)) ∧
        ∀ pair width row acc mode, q.op = .mqrd pair width row acc mode →
          let blk := fun n => quantBlock width (.mode (RMode.of mode)) 0
            ((List.range 32).map fun j => Fmt.f64.decode (accElem u.mx n row j).toNat)
          ∃ x ∈ (u.fixedAt 8).pipe, x.due = t.nb + 8 ∧ x.id = q.id ∧ x.val.tag = Tag.ofBfm width ∧
            x.val.scale 0 = (blk acc).scale ∧ x.val.scale 1 = (if pair then (blk (acc + 1)).scale else 0) ∧
            (∀ n, 2 ≤ n → n < 8 → x.val.scale n = 0) ∧
            x.fl = (blk acc).fl ||| (if pair then (blk (acc + 1)).fl else 0) ∧
            ∀ j, j < 256 → elem x.val.data 8 j =
              if j < 32 then (((blk acc).q)[j]?.map (wrapN 8)).getD 0
              else if j < 64 ∧ pair = true then (((blk (acc + 1)).q)[j - 32]?.map (wrapN 8)).getD 0 else 0)

/-- R136, the flags of what lands for the waiting bundle: FPC keeps what it had, gains those of every result due in a free-running
socket and of the one that lands in a data-locked socket, and no others but those of MMAs that complete. -/
def Sys2Proof.Claims.LandingFlags : Prop :=
  ∀ (s : State) (k : Nat), s.unlocked k = true →
    let t := s.tile k
    let lands := fun j x => let f := t.fixedAt j
      j < (if t.inh then 8 else 9) ∧ x ∈ f.pipe ∧ x.due ≤ t.nb ∧
        (fixedLocked t.flm j = true → f.port.unread = false ∧ (f.pipe.filter (·.due ≤ t.nb)).head? = some x)
    ∃ u : Tile, Started s k u ∧ t.fpc &&& ~~~u.fpc = 0 ∧ (∀ j x, lands j x → orFlags u.fpc x.fl = u.fpc) ∧
      ∀ n, u.fpc.getLsbD n = true → t.fpc.getLsbD n = false → (t.inh = false ∧ ∃ r ∈ t.mx.runs, r.done ≤ t.nb) ∨
        ∃ j x, lands j x ∧ (orFlags 0 x.fl).getLsbD n = true

/-- The start of a bundle, made by an event of its own; what MX leaves; and the flags. -/
def Obligations.BundleStartEvents : Prop :=
  BundleStarts ∧ MatrixResults ∧ LandingFlags

/-- R314, the determinant of an operation over the translated differences `p j` of its points, in the order given. -/
def Sys2Proof.Claims.det {α : Type} (add sub mul : α → α → α) (opc : Nat) (p : Nat → Nat → α) : α :=
  let x := fun n => p n 0
  let y := fun n => p n 1
  let z := fun n => p n 2
  let cross := fun n m => sub (mul (x n) (y m)) (mul (x m) (y n))
  let lift := fun n => add (mul (x n) (x n)) (mul (y n) (y n))
  let lift3 := fun n => add (lift n) (mul (z n) (z n))
  if opc = 1 then
    add (add (mul (x 0) (sub (mul (y 1) (z 2)) (mul (z 1) (y 2)))) (mul (x 1) (sub (mul (y 2) (z 0)) (mul (z 2) (y 0)))))
      (mul (x 2) (sub (mul (y 0) (z 1)) (mul (z 0) (y 1))))
  else if opc = 2 then
    add (add (mul (lift 0) (cross 1 2)) (mul (lift 1) (cross 2 0))) (mul (lift 2) (cross 0 1))
  else if opc = 3 then
    let abc := add (sub (mul (z 0) (cross 1 2)) (mul (z 1) (cross 0 2))) (mul (z 2) (cross 0 1))
    let bcd := add (sub (mul (z 1) (cross 2 3)) (mul (z 2) (cross 1 3))) (mul (z 3) (cross 1 2))
    let cda := add (add (mul (z 2) (cross 3 0)) (mul (z 3) (cross 0 2))) (mul (z 0) (cross 2 3))
    let dab := add (add (mul (z 3) (cross 0 1)) (mul (z 0) (cross 1 3))) (mul (z 1) (cross 3 0))
    add (sub (mul (lift3 3) abc) (mul (lift3 2) dab)) (sub (mul (lift3 1) cda) (mul (lift3 0) bcd))
  else sub (mul (x 0) (y 1)) (mul (y 0) (x 1))

/-- R315, an operation of stage 0: its rounded result, and whether neither it nor what it comes from overflowed or gave a tiny
inexact result. -/
def Sys2Proof.Claims.rounded (f : Fp → Fp → Fp × Flags) (a b : Fp × Bool) : Fp × Bool :=
  let r := Fmt.f64.finish .rne (f a.1 b.1)
  let x := Fmt.f64.decode r.bits
  (x, a.2 && b.2 && (r.fl &&& (flOF ||| flUF)) == 0 && x.finite)

/-- R316, an operation of stage 1: the exact value of the pair that it gives. -/
def Sys2Proof.Claims.paired (f : Fp → Fp → Fp × Flags) (a b : Fp × Bool) : Fp × Bool :=
  let v := f a.1 b.1
  let hi := Fmt.f64.finish .rne v
  let x := Fmt.f64.decode hi.bits
  let lo := Fmt.f64.finish .rne (Fp.add .rne v.1 x.neg)
  ((Fp.add .rne x (Fmt.f64.decode lo.bits)).1,
    a.2 && b.2 && (hi.fl &&& (flOF ||| flUF)) == 0 && (lo.fl &&& (flOF ||| flUF)) == 0 && x.finite)

/-- R315 to R317, the sign of an operation's determinant on `n` points, and the stage that decides it. -/
def Sys2Proof.Claims.decided (opc n : Nat) (pt : Nat → Nat → Fp) : Int × Nat :=
  let by_ : (Fp × Bool → Fp × Bool → Fp × Bool) → Nat → Nat → Fp × Bool := fun sub p j => sub (pt p j, true) (pt (n - 1) j, true)
  let alpha : Fp := match opc with
    | 1 => .fin false (7 * 2 ^ 50 + 7) (-103) | 2 => .fin false (10 * 2 ^ 49 + 6) (-102)
    | 3 => .fin false (16 * 2 ^ 48 + 7) (-101) | _ => .fin false (3 * 2 ^ 49 + 1) (-102)
  let beta : Fp := match opc with
    | 1 => .fin false 1 (-100) | 2 => .fin false 1 (-99) | 3 => .fin false 1 (-97) | _ => .fin false 1 (-102)
  let d0 := det (rounded fpAdd) (rounded fpSub) (rounded Fp.mul) opc (by_ (rounded fpSub))
  let p0 := det (rounded fpAdd) (rounded fpAdd) (rounded Fp.mul) opc
    fun p j => let a := by_ (rounded fpSub) p j; (a.1.abs, a.2)
  let beyond := fun (d c : Fp) => d.abs.gt (Fmt.f64.decode (Fmt.f64.finish .rne (Fp.mul c p0.1)).bits)
  let d1 := det (paired fpAdd) (paired fpSub) (paired Fp.mul) opc (by_ (paired fpSub))
  if d0.2 = true ∧ p0.2 = true ∧ (p0.1.isZero = true ∨ beyond d0.1 alpha = true) then
    (if p0.1.isZero then 0 else fpSignInt d0.1, 0)
  else if d1.2 = true ∧ beyond d1.1 beta = true then (fpSignInt d1.1, 1)
  else ((det (· + ·) (· - ·) (· * ·) opc fun p j => fpScaled (pt p j) - fpScaled (pt (n - 1) j)).sign, 2)

/-- R320, the sign that the points with these ranks, in `d` dimensions, have when they are perturbed: that of the lowest-order
coefficient. Coordinates and perturbations are scaled by one power of two. -/
def Sys2Proof.Claims.perturbed (opc n d : Nat) (rank : Nat → Nat) (pt : Nat → Nat → Fp) : Int :=
  let x : Nat → Nat → Poly := fun p j =>
    Poly.addTerm (2 ^ ((rank p + 1) * d - (j + 1))) (2 ^ 1074 : Nat) (Poly.addTerm 0 (fpScaled (pt p j)) [])
  let sub := fun a b => Poly.add a (Poly.neg b)
  match det Poly.add sub Poly.mul opc (fun p j => sub (x p j) (x (n - 1) j)) with
  | [] => 0
  | (_, c) :: _ => c.sign

/-- R319, the case code of SEGX from its four orientations and its points. -/
def Sys2Proof.Claims.contact (o : Nat → Int) (pt : Nat → Nat → Fp) : Int :=
  let le := fun a b => fpScaled (pt a 0) < fpScaled (pt b 0) ∨
    fpScaled (pt a 0) = fpScaled (pt b 0) ∧ fpScaled (pt a 1) ≤ fpScaled (pt b 1)
  let some_ := fun (r : Nat → Nat → Prop) => r 0 2 ∨ r 0 3 ∨ r 1 2 ∨ r 1 3

  if 0 < o 0 * o 1 ∨ 0 < o 2 * o 3 then 0
  else if o 0 ≠ 0 ∧ o 1 ≠ 0 ∧ o 2 ≠ 0 ∧ o 3 ≠ 0 then 1
  else if ¬(o 0 = 0 ∧ o 1 = 0 ∧ o 2 = 0 ∧ o 3 = 0) then 2
  else if some_ (fun a c => le a c) ∧ some_ (fun a c => le c a) then 3
  else 4

/-- R310 to R323, the operations of GP: a cycle of a tile starts the next predicate where none runs and no earlier store to its
layout is open. Each active lane of finite coordinates gets the sign that R314 to R317 decide, or, an exact zero under SOS, the
perturbed sign, or SEGX's case code; the other lanes get 0; res2 has the exact zeros and the lanes that are not finite; the time
it takes, its faults and its report follow. GPST answers with the last predicate's report. -/
def Sys2Proof.Claims.Predicates : Prop :=
  ∀ (s : State) (k : Nat) (op : GpOp) (rest : List GpOp),
    let t := s.tile k
    t.pre = none → t.spill = [] → t.weir = 0 → t.waits = [] → t.gp.run = none → t.gp.queue = op :: rest → op.cyc ≤ t.cyc →
    (op.opc = 0x10 → ∃ u r, exec (.spillEngineCycle k) s = .next (s.setTile k u) ∧ u.gp = ⟨rest, some r, t.gp.last⟩ ∧
      r.op = op ∧ r.doneAt = t.cyc + 3 ∧ r.flt = none ∧ r.res.tag = .i64 ∧ r.res.side = 0 ∧
      (t.gp.last = none → r.res2 = 0 ∧ ∀ i, i < 16 → elem r.res.data 64 i = 2 ^ 64 - 1) ∧
      ∀ x, t.gp.last = some x → r.res2 = BitVec.ofNat 64 (x.cycles + x.opc.toNat * 2 ^ 32) ∧
        ∀ i y, i < 16 → x.stages[i]? = some y → elem r.res.data 64 i = y.toNat) ∧
    (op.opc.toNat ≤ 4 →
      let c := op.opc.toNat
      let n := if c = 0 then 3 else if c = 3 then 5 else 4
      let d := if c = 1 ∨ c = 3 then 3 else 2
      let w := if op.f32 then 4 else 8
      let len := n * d * 16 * w + if op.sos then 128 * n else 0
      let pt := fun i p j =>
        let x := t.spm.value (op.off + (p * d + j) * 16 * w + i * w) w
        if op.f32 then Fmt.f32.decode x else Fmt.f64.decode x
      let ids := fun i p => t.spm.value (op.off + n * d * 16 * w + 128 * p + 8 * i) 8
      let rank := fun i p => ((List.range n).filter fun q => decide (ids i q < ids i p ∨ ids i q = ids i p ∧ q < p)).length
      let good := fun i => op.mask.getLsbD i = true ∧ ∀ p j, p < n → j < d → (pt i p j).finite = true
      -- an orientation, or the predicate, on the points that `at_` names
      let dec := fun i (at_ : Nat → Nat) => if c = 4 then decided 0 3 fun p j => pt i (at_ p) j else decided c n (pt i)
      let sign := fun i (at_ : Nat → Nat) =>
        if (dec i at_).1 = 0 ∧ op.sos = true then
          if c = 4 then perturbed 0 3 2 (fun p => rank i (at_ p)) fun p j => pt i (at_ p) j else perturbed c n d (rank i) (pt i)
        else (dec i at_).1
      let idx := fun (l : List Nat) p => (l[p]?).getD 0
      let four := [[0, 1, 2], [0, 1, 3], [2, 3, 0], [2, 3, 1]].map idx
      let uses := if c = 4 then four else [id]
      let cost := if c = 1 then 160 else if c = 2 then 220 else if c = 3 then 400 else 90
      t.storeOpen k op.off len op.nb = false →
      ∃ u r st, exec (.spillEngineCycle k) s = .next (s.setTile k u) ∧ u.gp = ⟨rest, some r, some st⟩ ∧ r.op = op ∧
        r.res.tag = .i64 ∧ r.res.side = 0 ∧ st.opc = op.opc ∧ r.doneAt = t.cyc + 1 + st.cycles ∧
        (∀ i, i < 16 → good i →
          elem r.res.data 64 i = wrapN 64 (if c = 4 then contact (fun m => sign i ((four[m]?).getD id)) (pt i) else sign i id) ∧
          (r.res2.getLsbD i = true ↔ ∃ a ∈ uses, (dec i a).1 = 0) ∧ r.res2.getLsbD (16 + i) = false ∧
          st.stages[i]? = some (BitVec.ofNat 64 ((uses.map fun a => (dec i a).2).foldl max 0))) ∧
        (∀ i, i < 16 → ¬good i → elem r.res.data 64 i = 0 ∧ r.res2.getLsbD i = false ∧
          r.res2.getLsbD (16 + i) = op.mask.getLsbD i ∧ st.stages[i]? = some (BitVec.allOnes 64)) ∧
        (∀ g : Nat → Bool, (∀ i, g i = true ↔ good i) →
          st.cycles = 12 + (((List.range 16).filter g).map fun i =>
            (if ((uses.map fun a => (dec i a).2).foldl max 0) = 0 then 0 else 24) +
              cost * (uses.filter fun a => (dec i a).2 == 2).length).sum) ∧
        (t.spmBad op.off len = true → r.flt = some ⟨0x14, BitVec.ofNat 64 op.off, 0, 0⟩) ∧
        (t.spmBad op.off len = false → op.nfp = 0 → (∃ i, i < 16 ∧ op.mask.getLsbD i = true ∧ ¬good i) →
          r.flt = some ⟨0x18, BitVec.ofNat 64 op.off, 0, r.res2.extractLsb' 16 16⟩) ∧
        (t.spmBad op.off len = false → (op.nfp ≠ 0 ∨ ∀ i, i < 16 → op.mask.getLsbD i = true → good i) → r.flt = none))

/-- R326, the special results of the shipped bank, with the flag each sets. -/
def Sys2Proof.Claims.sfSpecial (f : Fmt) (slot : Nat) (x : Fp) : Option (Nat × Flags) :=
  let one := fun s : Bool => (f.ofInt .rne (if s then -1 else 1)).bits
  let zero := fun s : Bool => if s then 2 ^ (f.width - 1) else 0
  match x with
  | .nan _ => none
  | .inf s =>
    if slot ≤ 1 then some (if s then 0 else f.infBits false, 0)
    else if slot = 4 then some (zero s, 0)
    else if slot = 5 ∧ s = false then some (0, 0)
    else if slot = 2 ∨ slot = 3 ∨ slot = 5 ∨ slot = 6 then (if s then some (f.nan, flNV) else none)
    else if slot = 7 ∨ slot = 8 then some (f.nan, flNV)
    else if slot = 9 ∨ slot = 13 then some (one s, 0)
    else if slot = 10 then some (if s then 0 else one false, 0)
    else some (if s then zero true else f.infBits false, 0)
  | .fin s 0 _ =>
    if slot ≤ 1 ∨ slot = 8 then some (one false, 0)
    else if slot = 2 ∨ slot = 3 then some (f.infBits true, flDZ)
    else if slot = 4 ∨ slot = 5 then some (f.infBits s, flDZ)
    else if slot = 6 then (if s then some (zero true, 0) else none)
    else if slot = 10 then none
    else some (zero s, 0)
  | .fin s _ _ => if s = true ∧ (slot = 2 ∨ slot = 3 ∨ slot = 5 ∨ slot = 6) then some (f.nan, flNV) else none

/-- R330, a step of a microprogram on x, n, t and acc, over the table words `tab` and the input: none where it stops. -/
def Sys2Proof.Claims.sfStep (tab : Nat → Nat) (x0 : Nat) (w : W64) : Option (Nat × Int × Nat × Nat) → Option (Nat × Int × Nat × Nat)
  | none => none
  | some (x, n, t, acc) =>
    let cnt := bitsN w 56 4
    let t_ := fun i => tab (bitsN w 43 10 + i)
    match bitsN w 60 4 with
    | 1 =>
      match (Fp.mul (f64dec x) (f64dec (t_ 0))).1 with
      | .fin s m e =>
        let k := (roundToInt .rne s m e).1
        some ((fusedSub (fusedSub x k (t_ 1)).bits k (t_ 2)).bits, k, t, acc)
      | _ => none
    | 2 => some (x, n / (2 ^ cnt : Nat), t_ (n % (2 ^ cnt : Nat)).toNat, acc)
    | 3 => some (x, n, t, (List.range cnt).foldl (fun a i => (Fmt.f64.fma .rne false false a x (t_ i)).bits) acc)
    | 4 => some (x, n, t, (Fmt.f64.finish .rne ((Fp.mul (f64dec acc) (f64dec t)).1.scale n, 0)).bits)
    | 5 => some (x, n, t, fpClamp acc (t_ 0) (t_ 1))
    | 6 =>
      let k := (List.range cnt).foldl (fun k i => if fpLessEq (t_ (3 * i)) x0 then i else k) 0
      some (x, n, t, fpClamp acc (t_ (3 * k + 1)) (t_ (3 * k + 2)))
    | _ => if fpLess x0 (t_ 0) || fpLess (t_ 1) x0 then none else some (x, n, t, acc)

/-- R113, R325, R326, R329, R330, SFN, element by element: a NaN gives the canonical NaN, and so does an empty slot; the shipped
bank its special results, RCP and SQRT correctly rounded (that to nearest under every RMODE is the model's choice, log 109), and
EXP2 of an integer exactly; a loaded image its special results, or what its steps leave, rounded to the format, or, where DOMAIN stops them, a NaN.
What follows a REDUCE of a product that is no number is free (log 119). -/
def Sys2Proof.Claims.SfnValues : Prop :=
  ∀ (s : State) (k : Nat) (op : SfOp) (rest : List SfOp) (f : Fmt),
    let t := s.tile k
    t.sf.queue = op :: rest → op.opc = 0 → op.t.tag.fmt = some f → op.cm = false →
    t.storeOpen k 0 0 op.nb = false → t.spmBad 0 0 = false →
    let slot := bitsN op.o0 0 8
    let w := f.width
    let bit := match f with | .f16 => 58 | .bf16 => 59 | .f32 => 60 | .f64 => 61
    ∃ v fl, exec (.sfOpComplete k) s =
        .next (s.setTile k ({ t with sf := { t.sf with queue := rest } }.arrive 6 op.id v fl)) ∧ v.tag = op.t.tag ∧
      ∀ i, i < 1024 / w →
        let x := elem op.t.data w i
        let y := elem v.data w i
        let gives := fun (z : Nat) (g : Flags) => y = z % 2 ^ w ∧ fl ||| g = fl
        (elemPicked op.sel w i = false → y = 0) ∧
        (elemPicked op.sel w i = true →
          (∀ ws, look slot t.sf.bank.slots = some ws →
            let w0 := (ws[0]?).getD 0
            let w1 := (ws[1]?).getD 0
            let steps := (ws.drop 2).take (bitsN w0 52 6)
            let runs := w0.getLsbD 63 = true ∧ w0.getLsbD bit = true ∧ 1 ≤ bitsN w0 52 6 ∧ bitsN w0 52 6 ≤ 32 ∧ ws.length = 34 ∧
              ∀ st ∈ steps, 1 ≤ bitsN st 60 4 ∧ bitsN st 60 4 ≤ 7
            (w0.getLsbD 63 = false ∨ w0.getLsbD bit = false → gives f.nan flNV) ∧
            (runs → (∀ sig, f.decode x = .nan sig → gives f.nan (if sig then flNV else 0)) ∧
              ∀ code, (match f.decode x with
                  | .inf neg => some (bitsN w1 (if neg then 48 else 32) 16)
                  | .fin neg 0 _ => some (bitsN w1 (if neg then 16 else 0) 16)
                  | .fin _ _ _ => some 9
                  | .nan _ => none) = some code →
                (code = 0 → gives f.nan flNV) ∧ (code = 1 → gives 0 0) ∧ (code = 2 → gives (2 ^ (w - 1)) 0) ∧
                (code = 3 → gives (f.infBits false) 0) ∧ (code = 4 → gives (f.infBits true) 0) ∧
                (code = 5 → gives (f.infBits false) flDZ) ∧ (code = 6 → gives (f.infBits true) flDZ) ∧
                (code = 7 → gives (f.ofInt .rne 1).bits 0) ∧ (code = 8 → gives x 0) ∧
                (code = 9 →
                  let x0 := (Fmt.f64.ofFp .rne (f.decode x)).bits
                  let run := fun l : List W64 => l.foldl (fun a st => sfStep (fun n => t.sf.bank.word n) x0 st a)
                    (some (x0, 0, (Fmt.f64.ofInt .rne 1).bits, 0))
                  (∀ r, run steps = some r → gives (f.ofFp (RMode.of op.mode) (f64dec r.2.2.2)).bits 0) ∧
                  ∀ pre st post, steps = pre ++ st :: post → (run pre).isSome = true → bitsN st 60 4 = 7 →
                    run (pre ++ [st]) = none → gives f.nan flNV))) ∧
          (look slot t.sf.bank.slots = none →
            (14 ≤ slot → gives f.nan flNV) ∧
            (slot < 14 → (∀ sig, f.decode x = .nan sig → gives f.nan (if sig then flNV else 0)) ∧
              (t.sf.bank.table = [] →
                (∀ z g, sfSpecial f slot (f.decode x) = some (z, g) → gives z g) ∧
                ∀ neg m e, f.decode x = .fin neg m e → m ≠ 0 →
                  (slot = 4 → gives (f.roundQuot .rne neg 1 m (-e)).bits 0) ∧
                  (slot = 6 → neg = false → gives (f.roundSqrt .rne m e).bits 0) ∧
                  (∀ n, slot = 1 → fpAsInt m e = some n → n ≤ 2 ^ 11 → (f.round .rne false 1 (signedM neg n)).fl = 0 →
                    gives (f.round .rne false 1 (signedM neg n)).bits 0) ∧
                  ((slot = 2 ∨ slot = 3) → neg = false → m = 2 ^ Nat.log2 m → e + (Nat.log2 m : Int) = 0 → gives 0 0) ∧
                  (slot = 3 → neg = false → m = 2 ^ Nat.log2 m → gives (f.ofInt .rne (e + (Nat.log2 m : Int))).bits 0)))))

/-- R119, R120, R322, R324, R328, R331, R332, R369, R374, SPILL_ENGINE_CYCLE, SPILL_TRANSFER_COMPLETE, GP_OP_COMPLETE,
SF_OP_COMPLETE and SLNS_EXPIRE. A cycle of the engine moves one g register of its head transfer, with the value of the trigger,
and a register at a dead position stays (R103); two cycles move one v register, with its sidecar and its tag; both results of a
GP operation arrive together; an SF operation answers, SFROW with its four statistics (spelled out for one block of at most 64
elements) and SFCM with the mode it found; a package is loaded into the shadow bank, and an accepted one is measured and its
bank made active (R333). What the shadow bank keeps afterwards is the model's choice (log 71). -/
def Sys2Proof.Claims.EngineSteps : Prop :=
  ∀ (s : State) (k : Nat),
    let t := s.tile k
    (∃ u, exec (.spillEngineCycle k) s = .next (s.setTile k u) ∧ u.cyc = t.cyc + 1 ∧
      (t.pre = none → ∀ r rest, t.spill = r :: rest → r.vfile = false → r.pos < r.regs.length →
        let off := r.off + 8 * r.pos
        (r.fill = false → t.spm.wf = true → ∀ j x, r.regs[r.pos]? = some (some j) → r.vals[r.pos]? = some (some x) →
          u.spm.read off 8 = bytesOf 8 x ∧ u.spill = { r with pos := r.pos + 1, half := false } :: rest) ∧
        (r.fill = true → t.spmBad off 8 = false → ∀ j, j < 64 → r.regs[r.pos]? = some (some j) →
          vget 0 u.g j = (if t.deadNow j then vget 0 t.g j else BitVec.ofNat 64 (t.spm.value off 8)) ∧
            u.spill = { r with pos := r.pos + 1, half := false } :: rest)) ∧
      (t.pre = none → ∀ r rest, t.spill = r :: rest → r.vfile = true → r.pos < r.regs.length →
        let off := r.off + 144 * r.pos
        (r.half = false → u.spill = { r with half := true } :: rest ∧ u.v = t.v ∧ u.spm = t.spm) ∧
        (r.half = true → r.fill = false → t.spm.wf = true → ∀ j x, r.regs[r.pos]? = some (some j) →
          r.vals[r.pos]? = some (some x) →
          u.spm.read off 144 = bytesOf 144 x ∧ u.spill = { r with pos := r.pos + 1, half := false } :: rest) ∧
        (r.half = true → r.fill = true → t.spmBad off 144 = false → ∀ j, j < 32 → r.regs[r.pos]? = some (some j) →
          let x := t.spm.value off 144
          vget .zero u.v j = ⟨BitVec.ofNat 1024 x, Tag.ofCode (BitVec.ofNat 6 (x / 2 ^ 1120)), BitVec.ofNat 96 (x / 2 ^ 1024)⟩ ∧
            u.spill = { r with pos := r.pos + 1, half := false } :: rest))) ∧
    (∀ r rest, t.spill = r :: rest → r.regs.length ≤ r.pos →
      exec (.spillTransferComplete k) s = .next (s.setTile k { t with spill := rest })) ∧
    (∀ r, t.gp.run = some r → r.doneAt ≤ t.cyc + 1 →
      let u := { t with gp := { t.gp with run := none } }
      exec (.gpOpComplete k) s = .next (s.setTile k
        (match r.flt with
        | some f => (u.arriveFault 4 r.op.id f).arriveFault 5 r.op.id f
        | none => (u.arrive 4 r.op.id r.res 0).arrive 5 r.op.id
            ⟨r.res2.setWidth 2048, if r.op.opc = 0x10 then .raw else .pred, 0⟩ 0))) ∧
    (∀ op rest, t.sf.queue = op :: rest →
      let range := op.range t
      t.storeOpen k range.1 range.2 op.nb = false →
      let u := { t with sf := { t.sf with queue := rest } }
      (t.spmBad range.1 range.2 = true → exec (.sfOpComplete k) s =
        .next (s.setTile k (u.arriveFault 6 op.id ⟨0x14, BitVec.ofNat 64 range.1, 0, 0⟩))) ∧
      (t.spmBad range.1 range.2 = false →
        (op.opc = 0 → exec (.sfOpComplete k) s =
          .next (s.setTile k (u.arrive 6 op.id (sfnRow t.sf.bank op.cm op).1 (sfnRow t.sf.bank op.cm op).2))) ∧
        (op.opc = 1 →
          let f := ((Tag.ofCode (op.o0.extractLsb' 16 6)).fmt).getD .f64
          let n := bitsN op.o0 0 14
          let xs := (List.range n).map fun i => f.decode (t.spm.value (op.t.lo.toNat + f.width / 8 * i) (f.width / 8))
          ∃ row fl, exec (.sfOpComplete k) s = .next (s.setTile k (u.arrive 6 op.id (.ofRow row .fp64) fl)) ∧
            (∀ i, 4 ≤ i → i < 16 → elem row 64 i = 0) ∧
            ((∃ x ∈ xs, x.isNan = true) → ∀ i, i < 4 → elem row 64 i = Fmt.f64.nan) ∧
            ((∀ x ∈ xs, x.isNan = false) → 1 ≤ n → n ≤ 64 →
              let ys := xs.map fun x => (Fmt.f64.ofFp .rne x).bits
              let add := fun a b => (Fmt.f64.add .rne a b).bits
              let sub := fun a b => (Fmt.f64.sub .rne a b).bits
              let mean := (divCount (ys.foldl add 0) n).bits
              ∃ m ∈ ys, (∀ y ∈ ys, Fp.cmp (Fmt.f64.decode m) (Fmt.f64.decode y) ≠ .lt) ∧ elem row 64 0 = m % 2 ^ 64 ∧
                elem row 64 1 =
                  (ys.map fun y => (sfElem t.sf.bank 0 .f64 (RMode.of op.mode) (sub y m)).bits).foldl add 0 % 2 ^ 64 ∧
                elem row 64 2 = mean % 2 ^ 64 ∧
                elem row 64 3 = (divCount ((ys.map fun y =>
                  (Fmt.f64.mul .rne (sub y mean) (sub y mean)).bits).foldl add 0) n).bits % 2 ^ 64)) ∧
        (op.opc = 3 → exec (.sfOpComplete k) s = .next (s.setTile k (u.arrive 6 op.id
          (.ofScalar ((t.sf.gen.setWidth 64 <<< 32) ||| boolW (op.o0.getLsbD 0))) 0))) ∧
        (op.opc = 2 → pkgVerified t.spm range.1 = true →
          exec (.sfOpComplete k) s = .next
            { s.setTile k ({ u with sf := { u.sf with
                bank := t.sf.bank.load t.spm range.1, shadow := t.sf.bank, gen := t.sf.gen + 1 } }.arrive 6 op.id
                (.ofScalar ((t.sf.gen + 1).setWidth 64 <<< 32)) 0) with
              dev := { s.dev with sec := { s.dev.sec with
                measures := s.dev.sec.measures ++ [sha3_512 (t.spm.read range.1 (pkgLen (t.spm.double range.1)))] } } }) ∧
        (op.opc = 2 → pkgVerified t.spm range.1 = false → exec (.sfOpComplete k) s =
          .next (s.setTile k ({ u with sf := { u.sf with shadow := t.sf.bank.load t.spm range.1 } }.arrive 6 op.id
            (.ofScalar ((t.sf.gen.setWidth 64 <<< 32) ||| 1)) 0))))) ∧
    (t.slns = 1 ∨ t.slnsH = 1 → ∃ u, exec (.slnsExpire k) s = .next (s.setTile k u) ∧ u.cyc = t.cyc + 1 ∧
      (t.slns ≤ 1 → u.slns = 0) ∧ (t.slnsH ≤ 1 → u.slnsH = 0) ∧ u.pc = t.pc ∧ u.nb = t.nb)

/-- The engines' steps, and what GP's predicates and SFN give. -/
def Obligations.EngineEvents : Prop :=
  EngineSteps ∧ Predicates ∧ SfnValues

/-- R309, R337, R343, R353, R383, R162, R27, STREAM_END_EVENT, CTL_PARK, CTL_STOP, CTL_RELEASE, CODE_PAGE_LOAD,
CODE_PAGE_PREFETCH and TILE_RESET. A RELEASE of a parked tile is done at once where its engines are done, else as soon as they
are. That a tile reset keeps the scratchpad, the frames, the TLB, the links and their count of discards, and the Weir's
response, is the model's choice (logs 2, 45 and 91). -/
def Sys2Proof.Claims.TileControlEvents : Prop :=
  ∀ (s : State) (k : Nat),
    let t := s.tile k
    (t.run = .running → t.pre = none → t.stopReq = false → t.parkReq = false → t.inh = false →
      ∀ q, q < 6 → (t.strmAt q).eos = true → (∀ j, j < q → (t.strmAt j).eos = false) →
      let a := bitsN (t.strmAt q).bind 32 30
      (∃ w, t.codeWord a = some w ∧ w.getLsbD 31 = true) →
      ∃ u : Tile, exec (.streamEndEvent k) s = .next (s.setTile k u) ∧ u.pc = a ∧ bitsN u.tcause 0 8 = 0x20 ∧
        bitsN u.tstat 32 8 = q ∧ u.inh = true ∧ u.tpc = BitVec.ofInt 64 (t.pc % 2 ^ 30) ∧
        u.strm = vput t.strm q { t.strmAt q with eos := false }) ∧
    (s.up = true → t.run = .running →
      exec (.ctlPark k) s = .next (s.setTile k { t with parkReq := true }) ∧
      exec (.ctlStop k) s = .next (s.setTile k { t with stopReq := true })) ∧
    (s.up = true → t.run = .parked →
      (s.atRest k = true → ∃ u : State, exec (.ctlRelease k) s = .next u ∧ u.hbm = s.hbm ∧
        (u.tile k).run = .idle ∧ (u.tile k).report = none ∧ (u.tile k).grants = Vector.replicate 4 0 ∧
        (u.tile k).spm = t.spm ∧ (u.tile k).log = [] ∧ (u.tile k).queues = Vector.replicate 7 [] ∧
        (∀ j, j ≠ k → u.tile j = s.tile j) ∧ (t.relReq = true → exec (.tileRelease k) s = .next u)) ∧
      (s.atRest k = false → exec (.ctlRelease k) s = .next (s.setTile k { t with relReq := true }))) ∧
    (∀ p x bs s2, s.neededPage k = some (p, x) → s.loadPage t.img p = (.page bs, s2) →
      exec (.codePageLoad k) s = .next (s2.setTile k ((s2.tile k).undo.installPage p bs))) ∧
    (∀ p bs s2, t.run = .running → p = t.pc.toNat / 4096 + 1 → t.frameOf p = none → s.loadPage t.img p = (.page bs, s2) →
      exec (.codePagePrefetch k) s = .next (s2.setTile k ((s2.tile k).installPage p bs))) ∧
    (∀ p bs s2, s.loadPage t.img p = (.page bs, s2) → ∃ x ref, s.named t.img = some x ∧ p < x.npages ∧ x.rev = false ∧
      (s.handleRead x.codeh.toNat (4096 * p) 4096).1 = some bs ∧
      ((s.handleRead x.codeh.toNat (4096 * p) 4096).2.handleRead x.hashh.toNat (64 * p) 64).1 = some ref ∧
      sha3_512 bs = BitVec.ofNat 512 (ofBytes ref)) ∧
    (t.resident = false → exec (.tileReset k) s = .next (s.setTile k { Tile.reset with
      spm := t.spm, badSpm := t.badSpm, frames := t.frames, tlb := t.tlb, links := t.links, linkDisc := t.linkDisc
      weir := t.weir
      nb := t.nb
      nextId := t.nextId }))

/-- R350, a page whose bytes do not have the hash that the image gives is a fatal fault 0x33 of the tile, and the image is
revoked. -/
def Sys2Proof.Claims.BadPageRevokesImage : Prop :=
  ∀ (s s2 : State) (k p i : Nat) (x : Option Tile), s.neededPage k = some (p, x) → k < 16384 →
    s.loadPage (s.tile k).img p = (.badHash i, s2) → (s2.tile k).report = none →
    ∃ u : State, exec (.codePageLoad k) s = .next u ∧ (u.image i).rev = true ∧ (u.tile k).run = .parked ∧
      ∃ r : Report, (u.tile k).report = some r ∧ r.w1 = 0x33

/-- Controls, stream ends, code pages and tile reset. That a RELEASE before the engines are done is kept and takes effect later, and
what being done means, is the model's reading of R343 and R353 (log 83). -/
def Obligations.TileControlAndCode : Prop :=
  TileControlEvents ∧ BadPageRevokesImage

/-! ### Links, messages and streams -/

/-- R51, R52, R54, LINK_WORD_ARRIVE, LINK_MARKER_ARRIVE, LINK_CREDIT_RETURN and LINK_CREDIT_NOTICE, between two
neighbours: a word enters the receiver's queue, or is discarded before an awaited marker, or, with no gang resident, is
discarded and its credit returned; a marker ends one discard; a credit returns; a notice sets the credits to the places that
it names, eight of an emptied queue, and is answered by a marker. -/
def Sys2Proof.Claims.LinkEvents : Prop :=
  ∀ (s : State) (k d : Nat), k < 16384 → d < 4 → edgeAt k d = false →
    let n := neighbour k d
    let t := s.tile k
    let u := s.tile n
    let l := t.link d
    let m := u.link (opposite d)
    let taken := fun wire => s.setTile n (u.setLink (opposite d) { m with wire := wire })
    let backed := fun back => s.setTile n (u.setLink (opposite d) { m with back := back })
    (∀ w rest, m.wire = .word w :: rest → exec (.linkWordArrive k d) s = .next ((taken rest).setTile k
      (if l.await ≠ 0 then { t with linkDisc := t.linkDisc + 1 }
       else if t.resident then t.setLink d { l with queue := l.queue ++ [w] }
       else { t.setLink d { l with back := l.back ++ [.credit] } with linkDisc := t.linkDisc + 1 }))) ∧
    (∀ rest, m.wire = .marker :: rest → exec (.linkMarkerArrive k d) s =
      .next ((taken rest).setTile k (t.setLink d { l with await := l.await - 1 }))) ∧
    (∀ rest, m.back = .credit :: rest → exec (.linkCreditReturn k d) s =
      .next ((backed rest).setTile k (t.setLink d { l with credit := min 8 (l.credit + 1) }))) ∧
    (∀ places rest, m.back = .notice places :: rest → exec (.linkCreditNotice k d) s =
      .next ((backed rest).setTile k (t.setLink d { l with credit := places, wire := l.wire ++ [.marker] })))

/-- R303 to R306, R309, R182, MESSAGE_ARRIVE, STREAM_WORD_ARRIVE and SEND_ACCEPTED, for the oldest send of a tile: a message
with its header enters the target's inbox, or is discarded where no gang is resident; a stream send's doubles become rows of
sixteen in the bound queue; a send to a tile outside the gang, or to a peer, exposes it; a delivered send leaves the send
queue. -/
def Sys2Proof.Claims.MessageEvents : Prop :=
  ∀ (s : State) (k : Nat) (x : Send) (rest : List Send), (s.tile k).sends = x :: rest → s.hbm.wf = true →
    let d := sendTid x.word
    let t := s.tile d
    let exposes := fun u : State => ∀ g, s.gangOf k = some g →
      (d ∉ g.tiles → Exposed s u k) ∧ (d ∈ g.tiles → u.hbm = s.hbm)
    let sent := fun u : State => ((u.tile k).sends.head?.map (·.delivered)) = some true
    (x.delivered = true → exec (.sendAccepted k) s =
      .next (s.setTile k { s.tile k with sends := (s.tile k).sends.filter fun y => !(y.id == x.id) })) ∧
    (x.delivered = false → x.peer = true → s.route (sendDev x.word) ≠ .down → ∃ u : State,
      exec (.messageArrive k) s = .next u ∧ sent u ∧ Exposed s u k) ∧
    (x.delivered = false → x.peer = false → d ≠ k →
      let kind := if sendStr x.word then 2 else 0
      let m : Msg := ⟨msgHeader kind x.payload.length s.dev.devid.toNat (bitsN x.word 16 16) k, x.payload⟩
      (t.resident = false → ∃ u : State, exec (.messageArrive k) s = .next u ∧ (u.tile d).disc = t.disc + 1 ∧
        (u.tile d).inbox = t.inbox ∧ sent u ∧ exposes u) ∧
      (t.resident = true → t.toStream x.word = false → t.inboxFull = false → t.waits = [] → t.recvs = [] →
        ∃ u : State, exec (.messageArrive k) s = .next u ∧ (u.tile d).inbox = t.inbox ++ [m] ∧
          sent u ∧ exposes u) ∧
      (t.resident = true → t.toStream x.word = true →
        let q := sendQ x.word
        (t.strmAt q).accepts x.payload (sendEos x.word) = true →
        ∃ u : State, exec (.streamWordArrive k q) s = .next u ∧
          (u.tile d).strmAt q = (t.strmAt q).append x.payload (sendEos x.word) ∧
          sent u ∧ exposes u))

/-- R309: what a stream queue's rows and its unfinished doubles hold, in order, is what was sent; a row is complete at
sixteen doubles; EOS pads the last one with zeros. -/
def Sys2Proof.Claims.StreamRowsInOrder : Prop :=
  ∀ (x : Strm) (ws : List W64), x.asm.length < 16 →
    let y := x.append ws false
    y.asm.length < 16 ∧ (∃ new, y.rows = x.rows ++ new ∧
      (new.flatMap fun r => (elems r 64).map (BitVec.ofNat 64)) ++ y.asm = x.asm ++ ws) ∧
    (x.append ws true).asm = []

/-- Links, messages and streams. -/
def Obligations.LinksAndMessages : Prop :=
  LinkEvents ∧ MessageEvents ∧ StreamRowsInOrder

/-! ### Events: translation -/

/-- R16, R18, R20: LOC's word for a place of cluster `c` as tile `k` sees it, `near` its cost class on the tile's own die. -/
def Sys2Proof.Claims.placeWord (k kind c near : Nat) (slice : Option Nat) : W64 :=
  let row := fun c : Nat => c / 16
  let col := fun c : Nat => c % 8 / 4
  let n := ((col (clusterOf k) : Int) - (col c : Int)).natAbs + ((row (clusterOf k) : Int) - (row c : Int)).natAbs
  let cost := if n = 0 then near else min (3 + n) 6
  let sv := match slice with
    | some x => 2 ^ 25 + x
    | none => 0
  BitVec.ofNat 64 (kind * 2 ^ 62 + cost * 2 ^ 22 + n * 2 ^ 19 + (2 * row c + col c) * 2 ^ 16 + c * 2 ^ 10 + sv)

/-- R18, R19: the words that name no cluster, by KIND and COST. -/
def Sys2Proof.Claims.plainWord (kind cost : Nat) : W64 := BitVec.ofNat 64 (kind * 2 ^ 62 + cost * 2 ^ 22)

/-- R19, R20: LOC's word for on-chip state at an address that its window defines. The cost of the tile's own cluster window is the
model's choice (log 60). -/
def Sys2Proof.Claims.chipWord (k : Nat) : Loc → W64
  | .tile t _ => placeWord k 0 (clusterOf t) (if t = k then 0 else if clusterOf t = clusterOf k then 1 else 2) none
  | .slice x _ => placeWord k 0 (x / 16) (if x / 16 = clusterOf k then 1 else 2) (some x)
  | .cluster c _ => placeWord k 0 c (if c = clusterOf k then 1 else 2) none
  | .boundary _ _ | .device _ => plainWord 0 6

/-- R18 to R20, R190, R196, R205, R207, R211, TLB_MISS_WALK of an access that is next to be looked up. In space 0x0, on a hit of the
tile's TLB, it takes its physical address, LOC its location word; an address past memory fails it with 0x10; a hit of the
cluster's L2 alone does the same and fills the tile's TLB. On a miss of both TLBs it waits on its granule's entry in the
cluster's list, or takes the lowest free entry, which starts a walk; a PREF is dropped. A leaf with W 0 is no hit for a store or
an atomic. On-chip state and another device's memory need no translation; a LOC there gives the place's word. -/
def Sys2Proof.Claims.TlbLookups : Prop :=
  ∀ (s : State) (k id lane : Nat) (r : Req) (l : Lane), (s.tile k).lane? id lane = some (r, l) →
    s.nextUp k r l = true →
    let t := s.tile k
    let n := clusterOf k
    let c := s.cluster n
    let at_ := fun pa => s.setTile k (t.onLane r.id l.idx fun l => { l with st := .hit pa })
    let w : Waiter := ⟨k, r.id, l.idx, r.kind.acc⟩
    let waits := fun j p => (s.setCluster n { c with pend := put j p c.pend }).setTile k
      (t.onLane r.id l.idx fun l => { l with st := .miss })
    (∀ va, spaceOf l.addr = .virt va →
      let gran := va / 65536
      (∀ e, tlbFind t.tlb gran r.kind.acc = some e →
        (r.kind ≠ .store → r.kind ≠ .loc → r.kind ≠ .pref → addressable (e.paOf va) l.len = true →
          exec (.tlbMissWalk k id lane) s = .next (at_ (e.paOf va))) ∧
        (r.kind = .loc → exec (.tlbMissWalk k id lane) s =
          .next (s.setTile k (t.laneDone r.id l.idx
            ((if e.paOf va < 0xF000000000 then placeWord k 1 (sliceOf (e.paOf va) / 16) 3 (some (sliceOf (e.paOf va)))
              else plainWord 3 7).setWidth 1120)))) ∧
        (needsW r.kind.acc = true → e.w = true) ∧
        (r.kind.isLoad = true → addressable (e.paOf va) l.len = false → exec (.tlbMissWalk k id lane) s =
          .next (s.setTile k (t.onLane r.id l.idx fun l => { l with st := .flt 0x10 0 })))) ∧
      (∀ e, tlbFind t.tlb gran r.kind.acc = none → tlbFind (c.l2.map (·.2)) gran r.kind.acc = some e →
        r.kind ≠ .store → r.kind ≠ .loc → r.kind ≠ .pref → addressable (e.paOf va) l.len = true →
        ∃ u : State, exec (.tlbMissWalk k id lane) s = .next u ∧ (u.tile k).tlb.head? = some e ∧
          (u.tile k).reqs = (t.onLane r.id l.idx fun l => { l with st := .hit (e.paOf va) }).reqs ∧
          (∀ k', k' ≠ k → u.tile k' = s.tile k') ∧ u.clusters = s.clusters ∧ u.hbm = s.hbm) ∧
      (tlbFind t.tlb gran r.kind.acc = none → tlbFind (c.l2.map (·.2)) gran r.kind.acc = none →
        (r.kind ≠ .loc → r.kind ≠ .pref →
          (∀ j p, c.pendOf gran = some (j, p) →
            exec (.tlbMissWalk k id lane) s = .next (waits j { p with waiters := p.waiters ++ [w] })) ∧
          (∀ j, c.pendOf gran = none → lowestFree 64 c.pend = some j →
            exec (.tlbMissWalk k id lane) s = .next (waits j ⟨gran, false, false, 0, true, k, [w], []⟩))) ∧
        (r.kind = .pref → exec (.tlbMissWalk k id lane) s =
          .next (s.setTile k { t with reqs := t.reqs.filter fun x => x.id != r.id })))) ∧
    (r.kind.isLoad = true ∨ r.kind.isStore = true ∨ r.kind.isAmo = true →
      (∀ x, spaceOf l.addr = .chip x → exec (.tlbMissWalk k id lane) s = .next (at_ l.addr.toNat)) ∧
      (∀ dev off, spaceOf l.addr = .peer dev off → dev ≠ s.dev.devid.toNat →
        exec (.tlbMissWalk k id lane) s = .next (at_ l.addr.toNat))) ∧
    (r.kind = .loc →
      let answers := fun w : W64 => exec (.tlbMissWalk k id lane) s = .next (s.setTile k (t.laneDone r.id l.idx (w.setWidth 1120)))
      (∀ x, spaceOf l.addr = .chip x → answers (if x.defined then chipWord k x else plainWord 3 7)) ∧
      (∀ dev off, spaceOf l.addr = .peer dev off →
        answers (if dev = s.dev.devid.toNat then plainWord 3 7 else plainWord 2 7)) ∧
      (spaceOf l.addr = .nowhere → answers (plainWord 3 7)))

/-- R211 to R213, a store of space 0x0 that hits and touches no HASHH region enters the write log, where there is room: its
request ends, memory stands, and the tile's later accesses read its bytes. -/
def Sys2Proof.Claims.StoresAreLogged : Prop :=
  ∀ (s : State) (k id lane : Nat) (r : Req) (l : Lane) (va : Nat) (e : Tlb), (s.tile k).lane? id lane = some (r, l) →
    s.nextUp k r l = true → spaceOf l.addr = .virt va → r.kind = .store → r.lanes = [l] →
    ((s.tile k).reqs.map (·.id)).Nodup → tlbFind (s.tile k).tlb (va / 65536) 1 = some e →
    let pa := e.paOf va
    addressable pa l.len = true → s.hashed pa l.len = false → 0 < l.len → l.len ≤ 140 →
    (s.tile k).log.length + (pieces pa l.len l.data).length ≤ 4096 → (s.tile k).ovf = [] →
    ∃ u : State, exec (.tlbMissWalk k id lane) s = .next u ∧ u.hbm = s.hbm ∧ (u.tile k).req? id = none ∧
      (u.tile k).ovf = [] ∧ ∀ j, j < l.len →
        (u.tile k).ownByte (r.id + 1) (pa + j) = some (l.data.extractLsb' (8 * j) 8)

/-- R207, R208, R434, PAGE_WALK_COMPLETE of an entry on which one access waits: a leaf gives it its address and both TLBs the
entry, and frees the place; a fault keeps the entry and fills the lowest free place of the fault buffer; an error of the
tables fails it with the memory-error cause. A store or an atomic that meets a leaf with W 0 faults the entry as write-protect
(KIND 2), with its access and the leaf's level, and goes on waiting; the L2 holds that leaf. A LOC that waits for the walk
answers KIND 3 where it gives no leaf. -/
def Sys2Proof.Claims.WalksComplete : Prop :=
  ∀ (s : State) (k id lane : Nat) (r : Req) (l : Lane) (j : Nat) (p : Pend), (s.tile k).lane? id lane = some (r, l) →
    l.st = .miss → (∀ x ∈ (s.tile k).reqs, x.id = id → ∀ y ∈ x.lanes, y.idx = lane → y = l) →
    let n := clusterOf k
    let c := s.cluster n
    look j c.pend = some p → p.walking = true →
    (r.kind.isLoad = true → p.waiters = [⟨k, id, lane, 0⟩] → p.locs = [] →
      (∀ e s2, s.walk p.gran = (.leaf e, s2) → spaceOf l.addr = .virt l.va → addressable (e.paOf l.va) l.len = true →
        ∃ u : State, exec (.pageWalkComplete n j) s = .next u ∧ laneOf (u.tile k) id lane = some (.hit (e.paOf l.va), l.data) ∧
          (u.tile k).tlb.head? = some e ∧ (u.cluster n).l2.any (fun x => x.2 == e) = true ∧ look j (u.cluster n).pend = none) ∧
      (∀ s2, s.walk p.gran = (.error, s2) →
        ∃ u : State, exec (.pageWalkComplete n j) s = .next u ∧ laneOf (u.tile k) id lane = some (.flt 0x14 0, l.data)) ∧
      (∀ kind level s2 f, s.walk p.gran = (.fault kind level, s2) → lowestFree 8 c.fb = some f →
        ∃ u : State, exec (.pageWalkComplete n j) s = .next u ∧ u.tile k = s2.tile k ∧
          (u.cluster n).pend = put j { p with faulted := true, fb := true, kind := kind, walking := false } c.pend ∧
          (u.cluster n).fb = put f ⟨kind, 0, level, p.gran, BitVec.ofNat 32 s.ns, p.starter⟩ c.fb)) ∧
    (∀ acc e s2 f, (r.kind.isStore = true ∧ acc = 1 ∨ r.kind.isAmo = true ∧ acc = 2) → p.waiters = [⟨k, id, lane, acc⟩] →
      p.locs = [] → s.walk p.gran = (.leaf e, s2) → e.w = false → lowestFree 8 c.fb = some f →
      ∃ u : State, exec (.pageWalkComplete n j) s = .next u ∧ u.tile k = s2.tile k ∧
        (u.cluster n).l2.any (fun x => x.2 == e) = true ∧
        (u.cluster n).pend = put j { p with faulted := true, fb := true, kind := 2, walking := false } c.pend ∧
        (u.cluster n).fb = put f ⟨2, acc, e.psz, p.gran, BitVec.ofNat 32 s.ns, p.starter⟩ c.fb) ∧
    (r.kind = .loc → p.waiters = [] → p.locs = [⟨k, id, lane, 3⟩] →
      (∀ e, (s.walk p.gran).1 ≠ .leaf e) →
      ∃ u : State, exec (.pageWalkComplete n j) s = .next u ∧
        laneOf (u.tile k) id lane = some (.fin, locNone.setWidth 1120))

/-- R202 to R204, a walk over tables that no memory error touches: it begins at level 4 in the table at PTROOT, a root whose table
is not addressable being a malformed one of that level, and takes at most five levels; the entry of a level is the double at its table plus 8 times the granule's index there; one that is not present ends the walk with kind 1, a malformed
one with kind 3, a leaf gives its page. -/
def Sys2Proof.Claims.WalkFollowsTables : Prop :=
  (∀ (s : State) (gran : Nat),
    let root := bitsN s.dev.ptroot 12 28 * 4096
    s.walk gran = if root + 4096 ≤ 0xF000000000 then s.walkFrom gran 4 root else (.fault 3 4, s)) ∧
  ∀ (s : State) (gran level table : Nat), s.badHbm = [] →
    let index := if level = 0 then gran % 32 else gran / 32 / 512 ^ (level - 1) % 512
    let e := s.hbm.double (table + 8 * index)
    (s.walkFrom gran level table).1 =
      (if e.getLsbD 63 = false then .fault 1 level
       else if pteBad e level = true then .fault 3 level
       else if e.getLsbD 62 = true then
         let span := if level = 0 then 1 else 32 * 512 ^ (level - 1)
         .leaf ⟨level, e.getLsbD 61, gran / span * span, bitsN e 8 32 * 256⟩
       else if level = 0 then .fault 3 0
       else (s.walkFrom gran (level - 1) (bitsN e 8 32 * 256)).1)

/-- Translation, the write log's stores, and the walk. -/
def Obligations.Translation : Prop :=
  TlbLookups ∧ StoresAreLogged ∧ WalksComplete ∧ WalkFollowsTables

/-- R206, R209, the TLB commands: INVAL_ALL leaves no entry in the cluster's L2 and in its tiles' L1s, INVAL_PAGE none that
covers GRAN; REPLAY_ALL empties the fault buffer, clears DROPPED and walks every faulted entry again (FAULTED, FB and KIND 0, its granule and its
waiters kept), the others standing as they are; FAIL_PAGE fails the waiters of
GRAN's faulted entry with the translation fault and its kind; the command's end clears BUSY. -/
def Obligations.TlbCommandEvents : Prop :=
  ∀ (s : State) (n : Nat),
    let c := s.cluster n
    (c.commanded 1 = true → ∃ u : State, exec (.invalAll n) s = .next u ∧ (u.cluster n).l2 = [] ∧
      (∀ k, look k s.tiles ≠ none → clusterOf k = n → (u.tile k).tlb = []) ∧
      (∀ k, clusterOf k ≠ n → u.tile k = s.tile k) ∧ u.hbm = s.hbm) ∧
    (c.commanded 2 = true → ∃ u : State, exec (.invalPage n) s = .next u ∧
      (∀ x ∈ (u.cluster n).l2, x.2.covers (bitsN c.tlbop 0 41) = false ∧ x ∈ c.l2) ∧
      (∀ x ∈ c.l2, x.2.covers (bitsN c.tlbop 0 41) = false → x ∈ (u.cluster n).l2) ∧
      ∀ k, look k s.tiles ≠ none → clusterOf k = n →
        (u.tile k).tlb = (s.tile k).tlb.filter fun e => !e.covers (bitsN c.tlbop 0 41)) ∧
    (c.commanded 3 = true → ∃ d : Cluster, exec (.replayAll n) s = .next (s.setCluster n d) ∧ d.fb = [] ∧ d.dropped = false ∧
      d.pend.length = c.pend.length ∧ (∀ x ∈ d.pend, x.2.faulted = false) ∧
      (∀ j p, look j c.pend = some p → look j d.pend =
        some (if p.faulted = true then { p with faulted := false, fb := false, kind := 0, walking := true } else p)) ∧
      d.l2 = c.l2) ∧
    (c.commanded 4 = true → ∀ j p k id lane r l, c.pendOf (bitsN c.tlbop 0 41) = some (j, p) → p.faulted = true →
      p.waiters = [⟨k, id, lane, 0⟩] → (s.tile k).lane? id lane = some (r, l) → l.st = .miss → r.kind.isLoad = true →
      ∃ u : State, exec (.failPage n) s = .next u ∧
        (u.tile k) = (s.tile k).onLane r.id l.idx (fun l => { l with st := .flt 0x11 (BitVec.ofNat 8 p.kind) }) ∧
        look j (u.cluster n).pend = none ∧ ∀ x ∈ (u.cluster n).fb, x.2.gran ≠ bitsN c.tlbop 0 41) ∧
    (c.tlbBusy = true → c.tlbPend = false → c.tlbWait = [] →
      exec (.tlbcmdDone n) s = .next (s.setCluster n { c with tlbBusy := false, tlbWait := [] }))

/-! ### Events: accesses at their targets -/

/-- R215 to R217, R224, R431, LOAD_AT_TARGET. A load of space 0x0 that nothing holds answers, byte by byte, with the tile's
own logged store where there is one; else, where neither the cache nor a fill has the line, with what memory holds, but
with what it held before where a gang-mate has published the double ahead of the gang's barrier and the tile has not come to
see it (no write of another agent to a part of that double shows before: R217). -/
def Sys2Proof.Claims.LoadEvents : Prop :=
  ∀ (s : State) (k id lane : Nat) (r : Req) (l : Lane) (pa va : Nat),
    (s.tile k).lane? id lane = some (r, l) → l.st = .hit pa → (r.lanes.map (·.idx)).Nodup →
    let t := s.tile k
    (spaceOf l.addr = .virt va → r.kind.isLoad = true → s.mayPerform k r l = true →
      t.storesSettled (fun x => decide (x.id < r.id)) = true → s.badHbm = [] → t.fills = [] → 0 < l.len → l.len ≤ 140 →
      ∃ (u : State) (d : BitVec 1120), exec (.loadAtTarget k id lane) s = .next u ∧ u.hbm = s.hbm ∧
        laneOf (u.tile k) id lane = some (.fin, d) ∧
        ∀ j, j < l.len →
          (∀ b, t.ownByte r.id (pa + j) = some b → d.extractLsb' (8 * j) 8 = b) ∧
          (t.ownByte r.id (pa + j) = none → t.cache.any (fun x => x.line == (pa + j) / 128) = false →
            ((∀ h ∈ s.held, h.dbl ≠ (pa + j) / 8) → d.extractLsb' (8 * j) 8 = s.hbm.get (pa + j)) ∧
            ∀ g h, s.gangOf k = some g →
              s.held.find? (fun x => x.gid == g.gid && x.dbl == (pa + j) / 8 && !x.seers.contains t.rank) = some h →
              d.extractLsb' (8 * j) 8 = h.old.extractLsb' (8 * ((pa + j) % 8)) 8))

/-- The rest of a load's way: R42 to R45, R216. -/
def Sys2Proof.Claims.FillsAndResults : Prop :=
  (∀ (s : State) (k line : Nat) (f : Fill), (s.tile k).fills.find? (·.line == line) = some f →
    let t := s.tile k
    exec (.readCacheFill k line) s = .next (s.setTile k { t with
      fills := t.fills.erase f
      cache := if f.discard = true ∨ f.badLo = true ∨ f.badHi = true then t.cache
        else ⟨line, f.data⟩ :: (t.cache.filter fun x => x.line != line).take 255 })) ∧
  (∀ (s : State) (k line : Nat), exec (.readCacheEviction k line) s =
    .next (s.setTile k { s.tile k with cache := (s.tile k).cache.filter fun x => x.line != line })) ∧
  (∀ (s : State) (k id : Nat) (r : Req), (s.tile k).req? id = some r → r.kind.places = true → r.lanes ≠ [] →
    (∀ l ∈ r.lanes, l.open_ = false) →
    let u := { s.tile k with reqs := (s.tile k).reqs.filter fun x => x.id != id }
    exec (.resultArrive k id) s = .next (s.setTile k
      (match r.fault with
      | some f => u.arriveFault r.kind.queue id f
      | none => u.arrive r.kind.queue id r.value 0))) ∧
  (∀ (r : Req) (l : Lane) (n : Nat), r.lanes = [l] → n = 1 ∨ n = 2 ∨ n = 4 ∨ n = 8 →
    (r.kind = .load n true → r.value.lo = (l.data.setWidth (8 * n)).signExtend 64) ∧
    (r.kind = .load n false → r.value.lo = (l.data.setWidth (8 * n)).setWidth 64)) ∧
  ∀ (t : Tile) (q id : Nat) (x : Val) (fl : Flags), q < 7 → (∃ p ∈ t.queue q, p.id = id ∧ p.ready = false) →
    (t.arrive q id x fl).queue q = (t.queue q).map fun p =>
      if p.id = id ∧ p.ready = false then { p with ready := true, val := x, fl := fl } else p

/-- Loads at their targets, the read cache, and results. That a double published ahead of a barrier shows whole as it was to the
gang-mates still in the phase, whoever writes to it, is the model's reading of R217 and R224 (log 72). -/
def Obligations.LoadsAndResults : Prop :=
  LoadEvents ∧ FillsAndResults

/-- R182, R228, R391, R392, AMO_AT_SLICE at memory, for a relaxed or acquiring atomic that nothing holds, on a double that the
tile has not logged and that is not its gang's own slot word: the request holds the old double; memory holds the new one
there, the gang's slot word has gained EXPOSED if it had it not, and every other byte stands; the double's line has left the read
cache, and a fill of it on its way is discarded; an acquiring one leaves
nothing in the read cache, and its tile sees what its gang-mates have published (R218). -/
def Sys2Proof.Claims.AtomicsAtMemory : Prop :=
  ∀ (s : State) (k id : Nat) (r : Req) (l : Lane) (op : AmoOp) (o : AmoOrd) (pa va : Nat),
    (s.tile k).lane? id 0 = some (r, l) → r.kind = .amo op o → o ≠ .rel → l.st = .hit pa → spaceOf l.addr = .virt va →
    s.mayPerform k r l = true → (s.tile k).storesSettled (fun x => decide (x.id < r.id)) = true →
    (∀ e ∈ (s.tile k).log, e.dbl ≠ pa / 8) → (∀ e ∈ (s.tile k).ovf, e.dbl ≠ pa / 8) →
    s.badHbm = [] → s.hashed pa 8 = false → s.hbm.wf = true → offExposure s k pa 8 →
    let old := s.hbm.double pa
    ∃ u : State, exec (.amoAtSlice k id) s = .next u ∧
      laneOf (u.tile k) id 0 = some (.fin, old.setWidth 1120) ∧
      u.hbm.double pa = amoAfter op old r.ops.o0.lo r.ops.o1.lo ∧ Exposed s u k ∧
      (∀ a, (a < pa ∨ pa + 8 ≤ a) → offExposure s k a 1 → u.hbm.get a = s.hbm.get a) ∧
      (∀ x ∈ (u.tile k).cache, x.line ≠ pa / 128) ∧
      (∀ f ∈ (u.tile k).fills, f.line = pa / 128 → f.discard = true) ∧
      (o = .acq → (u.tile k).cache = [] ∧
        ∀ g, s.gangOf k = some g → ∀ h ∈ u.held, h.gid = g.gid → (s.tile k).rank ∈ h.seers)

/-- R224, R228, a relaxed or acquiring atomic on a double that the tile has logged: the logged bytes are published first, so that
the old value shows them; the gang-mates go on seeing the double as it was (that they see none of the atomic's own write either is
the model's reading, log 72). -/
def Sys2Proof.Claims.AtomicPublishesItsDouble : Prop :=
  ∀ (s : State) (k id : Nat) (r : Req) (l : Lane) (op : AmoOp) (o : AmoOrd) (pa va : Nat) (e : LogEnt) (g : Gang),
    (s.tile k).lane? id 0 = some (r, l) → r.kind = .amo op o → o ≠ .rel → l.st = .hit pa → spaceOf l.addr = .virt va →
    s.mayPerform k r l = true → (s.tile k).storesSettled (fun x => decide (x.id < r.id)) = true →
    (s.tile k).log = [e] → e.dbl = pa / 8 → pa % 8 = 0 → (s.tile k).ovf = [] → s.withholds k = false →
    s.keepsBack k (fun _ => true) (fun _ => true) = false →
    s.badHbm = [] → s.hashed pa 8 = false → s.hbm.wf = true → offExposure s k pa 8 → s.gangOf k = some g →
    ∃ (u : State) (old : W64), exec (.amoAtSlice k id) s = .next u ∧ (u.tile k).log = [] ∧
      (∀ j, j < 8 → old.extractLsb' (8 * j) 8 = (histByte e.hist j).getD (s.hbm.get (pa + j))) ∧
      laneOf (u.tile k) id 0 = some (.fin, old.setWidth 1120) ∧
      u.hbm.double pa = amoAfter op old r.ops.o0.lo r.ops.o1.lo ∧ Exposed s u k ∧
      ∃ h ∈ u.held, h.gid = g.gid ∧ h.dbl = pa / 8 ∧ h.old = s.hbm.double pa ∧ ∀ x ∈ h.seers, x = (s.tile k).rank

/-- R228, R229, R391, AMO_AT_SLICE of an AMO.REL that nothing holds, its release steps done, the double and the
logged ones not its gang's own slot word: the tile's log is published whole, and then the atomic is performed on what that leaves. -/
def Sys2Proof.Claims.AtomicReleases : Prop :=
  ∀ (s : State) (k id : Nat) (r : Req) (l : Lane) (op : AmoOp) (pa va : Nat),
    (s.tile k).lane? id 0 = some (r, l) → r.kind = .amo op .rel → l.st = .hit pa → spaceOf l.addr = .virt va →
    s.mayPerform k r l = true → (s.tile k).storesSettled (fun x => decide (x.id < r.id)) = true →
    s.releaseReady k r.nb = true → s.withholds k = false → s.keepsBack k (fun _ => true) (fun _ => true) = false →
    s.badHbm = [] → s.hashed pa 8 = false → s.hbm.wf = true → offExposure s k pa 8 →
    (∀ e ∈ (s.tile k).log, offExposure s k (8 * e.dbl) 8) → (∀ e ∈ (s.tile k).ovf, offExposure s k (8 * e.dbl) 8) →
    let old := (s.publish k).hbm.double pa
    ∃ u : State, exec (.amoAtSlice k id) s = .next u ∧ (u.tile k).log = [] ∧ (u.tile k).ovf = [] ∧
      laneOf (u.tile k) id 0 = some (.fin, old.setWidth 1120) ∧
      u.hbm.double pa = amoAfter op old r.ops.o0.lo r.ops.o1.lo ∧ Exposed s u k ∧
      (∀ x ∈ (u.tile k).cache, x.line ≠ pa / 128) ∧
      ∀ a, (a < pa ∨ pa + 8 ≤ a) → offExposure s k a 1 → u.hbm.get a = (s.publish k).hbm.get a

/-- R391, R392, an atomic on a scratchpad of which one grant carries to the tile both the right to read and that to write; where
each right is there but no one grant carries both, it has the access fault and nothing changes in memory. -/
def Sys2Proof.Claims.AtomicsAtScratchpad : Prop :=
  ∀ (s : State) (k id : Nat) (r : Req) (l : Lane) (op : AmoOp) (tid off pa : Nat),
    (s.tile k).lane? id 0 = some (r, l) → r.kind = .amo op .relaxed → l.st = .hit pa →
    spaceOf l.addr = .chip (.tile tid off) → off < 0x40000 → tid ≠ k →
    s.chipCheck (.tile k) false (.tile tid off) 8 = none → s.chipCheck (.tile k) true (.tile tid off) 8 = none →
    (s.tile tid).spmBad off 8 = false → (s.tile tid).spm.wf = true → s.hbm.wf = true →
    s.mayPerform k r l = true → (s.tile k).storesSettled (fun x => decide (x.id < r.id)) = true →
    let old := (s.tile tid).spm.double off
    let both := fun g : W64 => grantAllows g (.tile k) false off 8 && grantAllows g (.tile k) true off 8
    ((vlist (s.tile tid).grants).all (fun g => !both g) = true → ∃ u : State, exec (.amoAtSlice k id) s = .next u ∧
      laneOf (u.tile k) id 0 = some (.flt 0x12 0, l.data) ∧ u.hbm = s.hbm ∧ (u.tile tid).spm = (s.tile tid).spm) ∧
    ((vlist (s.tile tid).grants).any both = true → ∃ u : State, exec (.amoAtSlice k id) s = .next u ∧
      laneOf (u.tile k) id 0 = some (.fin, old.setWidth 1120) ∧
      (u.tile tid).spm.double off = amoAfter op old r.ops.o0.lo r.ops.o1.lo ∧ Exposed s u k ∧
      (∀ a, (a < off ∨ off + 8 ≤ a) → (u.tile tid).spm.get a = (s.tile tid).spm.get a) ∧
      ∀ a, offExposure s k a 1 → u.hbm.get a = s.hbm.get a)

/-- R182, R360, R392, PEER_REQUEST_TIMEOUT of an atomic on another device's memory: it fails with the peer fault, and as it
may have been performed there, the gang is exposed. -/
def Sys2Proof.Claims.PeerAtomicTimesOut : Prop :=
  ∀ (s : State) (k id lane : Nat) (r : Req) (l : Lane) (op : AmoOp) (o : AmoOrd) (dev off pa : Nat),
    (s.tile k).lane? id lane = some (r, l) → r.kind = .amo op o → spaceOf l.addr = .peer dev off → l.st = .hit pa →
    s.hbm.wf = true →
    ∃ u : State, exec (.peerRequestTimeout k id lane) s = .next u ∧
      laneOf (u.tile k) id lane = some (.flt 0x13 0, l.data) ∧ Exposed s u k ∧
      ∀ a, offExposure s k a 1 → u.hbm.get a = s.hbm.get a

/-- R229, R391, an AMO.REL whose address lies in no space: the lookup leaves it with its fault still to come, and AMO_AT_SLICE,
its release steps done, publishes and then gives it the fault. -/
def Sys2Proof.Claims.ReleasePublishesBeforeFault : Prop :=
  ∀ (s : State) (k id : Nat) (r : Req) (l : Lane) (op : AmoOp), (s.tile k).lane? id 0 = some (r, l) →
    r.kind = .amo op .rel → ((s.tile k).reqs.map (·.id)).Nodup →
    (spaceOf l.addr = .nowhere → s.nextUp k r l = true → exec (.tlbMissWalk k id 0) s =
      .next (s.setTile k ((s.tile k).onLane r.id l.idx fun l => { l with st := .deny 0x10 0 }))) ∧
    ∀ code aux, l.st = .deny code aux → s.mayPerform k r l = true →
      (s.tile k).storesSettled (fun x => decide (x.id < r.id)) = true → s.releaseReady k r.nb = true →
      s.withholds k = false → s.keepsBack k (fun _ => true) (fun _ => true) = false →
      ∃ u : State, exec (.amoAtSlice k id) s = .next u ∧ u.hbm = (s.publish k).hbm ∧
        (u.tile k).log = [] ∧ laneOf (u.tile k) id 0 = some (.flt code aux, l.data)

/-- Atomics at memory, at scratchpads and at peers. That an acquiring one lets its tile see what its gang-mates have published
ahead of the barrier, R218 against R224, is the model's reading (log 72). -/
def Obligations.AtomicsAtTargets : Prop :=
  AtomicsAtMemory ∧ AtomicPublishesItsDouble ∧ AtomicReleases ∧ AtomicsAtScratchpad ∧ PeerAtomicTimesOut ∧ ReleasePublishesBeforeFault

/-- R182, R196, R212, R229, R233 to R235, R360, R370, R467, POSTED_STORE_PERFORM, PEER_STORE_ACK and PEER_REQUEST_TIMEOUT. A store
to a scratchpad that grants it, and a releasing store to memory, leave their bytes there and every other byte as it was, but
that a releasing one, and one posted to a peer, expose the gang in its slot word. A releasing store publishes first, before it
is looked up, by an event of its own (the two events are the model's, log 95). A peer's refusal, an address that is not
addressable there, a HASHH region of its, and its silence, are the deferred fault of a store. -/
def Obligations.StoreEvents : Prop :=
  ∀ (s : State) (k id lane : Nat) (r : Req) (l : Lane), (s.tile k).lane? id lane = some (r, l) → r.kind.isStore = true →
    let t := s.tile k
    let bs := bytesOf l.len l.data
    (∀ tid off pa, l.st = .hit pa → spaceOf l.addr = .chip (.tile tid off) → off + l.len ≤ 0x40000 → 0 < l.len →
      r.kind = .store → s.mayPerform k r l = true → s.chipCheck (.tile k) true (.tile tid off) l.len = none →
      (s.tile tid).spm.wf = true →
      ∃ u : State, exec (.postedStorePerform k id lane) s = .next u ∧ (u.tile tid).spm.read off l.len = bs ∧
        (∀ a, (a < off ∨ off + l.len ≤ a) → (u.tile tid).spm.get a = (s.tile tid).spm.get a) ∧ u.hbm = s.hbm) ∧
    (∀ va pa, l.st = .hit pa → spaceOf l.addr = .virt va → r.kind = .storeRel → s.mayPerform k r l = true →
      s.hashed pa l.len = false → s.hbm.wf = true →
      ∃ u : State, exec (.postedStorePerform k id lane) s = .next u ∧ u.hbm.read pa l.len = bs ∧
        (offExposure s k pa l.len → Exposed s u k) ∧
        (∀ a, (a < pa ∨ pa + l.len ≤ a) → offExposure s k a 1 → u.hbm.get a = s.hbm.get a)) ∧
    (l.st = .issue → r.kind = .storeRel → r.sent = none → t.acqHeld r.nb = false → s.releaseReady k r.nb = true →
      t.storesSettled (fun x => decide (x.nb < r.nb)) = true → s.withholds k = false →
      s.keepsBack k (fun _ => true) (fun _ => true) = false →
      ∃ u : State, exec (.postedStorePerform k id lane) s = .next u ∧ u.hbm = (s.publish k).hbm ∧ (u.tile k).log = [] ∧
        (u.tile k).ovf = [] ∧ ((u.tile k).req? id).bind (·.sent) = some []) ∧
    (∀ dev off pa, l.st = .hit pa → spaceOf l.addr = .peer dev off → r.kind = .store → s.mayPerform k r l = true →
      s.route dev = .up → s.hbm.wf = true →
      ∃ u : State, exec (.postedStorePerform k id lane) s = .next u ∧
        laneOf (u.tile k) id lane = some (.fin, l.data) ∧ Exposed s u k ∧
        ∀ a, offExposure s k a 1 → u.hbm.get a = s.hbm.get a) ∧
    (t.req? id = some r → r.lanes = [l] → l.st = .fin →
      let answers := fun v : Tile => exec (.peerStoreAck k id) s = .next ({ s with fresh := s.fresh + 2 }.setTile k v)
      let turned := fun code : BitVec 8 => (t.defer code l.addr 0).closeStore id l.idx
      (bitsN l.addr 0 40 + l.len ≤ 0xF000000000 → answers (t.closeStore id l.idx) ∨ answers (turned 0x13) ∨ answers (turned 0x12)) ∧
      (0xF000000000 < bitsN l.addr 0 40 + l.len → answers (turned 0x13) ∨ answers (turned 0x10))) ∧
    (∀ dev off pa, spaceOf l.addr = .peer dev off → l.st = .hit pa ∨ l.st = .fin →
      exec (.peerRequestTimeout k id lane) s = .next (s.setTile k ((t.defer 0x13 l.addr 0).closeStore id l.idx)))

/-- R196, R304, R305, PEER_ACCESS_CHECK: without the right, an entry, the extent or an address of memory a peer changes
nothing; a load changes no memory; a store changes the bytes it selects of the aligned double, an atomic the double. Its
SEND.P (that it comes as this event is the model's choice, log 80) needs the right to write, and enters the inbox where a gang
is resident and there is room; where none is, it is discarded. -/
def Obligations.PeerRequests : Prop :=
  ∀ (s : State) (peer addr kind value : Nat),
    let pa := addr / 8 * 8
    let right := if kind = 0 then 61 else if kind = 1 then 62 else 60
    (kind ≠ 10 → s.peerAllows peer right pa = false → exec (.peerAccessCheck peer addr kind value) s = .next s) ∧
    (kind ≠ 10 → s.peerAllows peer right pa = true → pa + 8 ≤ 0xF000000000 → s.hashed pa 8 = false → s.badHbm = [] →
      s.hbm.wf = true →
      ∃ u : State, exec (.peerAccessCheck peer addr kind value) s = .next u ∧
        (∀ a, (a < pa ∨ pa + 8 ≤ a) → u.hbm.get a = s.hbm.get a) ∧
        (kind = 0 → u.hbm = s.hbm) ∧
        (kind = 1 → ∀ j, j < 8 → u.hbm.get (pa + j) =
          if (BitVec.ofNat 8 (value / 2 ^ 64)).getLsbD j then (BitVec.ofNat 64 value).extractLsb' (8 * j) 8
          else s.hbm.get (pa + j)) ∧
        (2 ≤ kind → kind < 10 → u.hbm.double pa =
          amoAfter (amoOfNum (kind - 2)) (s.hbm.double pa) (BitVec.ofNat 64 value) (BitVec.ofNat 64 (value / 2 ^ 64)))) ∧
    (kind = 10 →
      let w := BitVec.ofNat 64 value
      let d := sendTid w
      let t := s.tile d
      let ws := (List.range (bitsN w 56 4)).map fun k => BitVec.ofNat 64 (value / 2 ^ (64 * (k + 1)))
      (s.peerRight peer 62 = false → exec (.peerAccessCheck peer addr kind value) s = .next s) ∧
      (s.peerRight peer 62 = true → bitsN w 56 4 ≤ 8 → t.toStream w = false →
        (t.resident = false → exec (.peerAccessCheck peer addr kind value) s = .next (s.setTile d { t with disc := t.disc + 1 })) ∧
        (t.resident = true → t.inboxFull = false → t.waits = [] → t.recvs = [] →
          ∃ u : State, exec (.peerAccessCheck peer addr kind value) s = .next u ∧ u.hbm = s.hbm ∧
            (u.tile d).inbox = t.inbox ++
              [⟨msgHeader (if sendStr w then 2 else 0) ws.length peer (bitsN w 16 16) (addr % 16384), ws⟩])))

/-! ### Publication, barriers and checkpoints -/

/-- R247 (how is the model's reading, log 98): a logged store that an LDT triggered before it must not show, its value not yet to
be fetched, stays in the log at a publication. -/
def Sys2Proof.Claims.StoreStaysBehindTicket : Prop :=
  ∀ (s : State) (k : Nat) (e : LogEnt) (x : LogStore), e ∈ (s.tile k).log → x ∈ e.hist →
    s.keptBy k (fun _ => true) e.dbl x.id = true →
    ∃ e' ∈ ((s.publish k).tile k).log, e'.idx = e.idx ∧ e'.dbl = e.dbl ∧ x ∈ e'.hist

/-- R182, R219, R382, publication: every byte that the write log holds stands in memory, the last store of each winning, but
that a slice refuses a double of a HASHH region (it writes nothing of it, log 77); every other byte of memory stands, but that a log that held something exposes the gang in its slot word; the log is empty, and
the lines it touched have left the read cache. An LDT that is on its way keeps the logged bytes that it took with it (R244; when
it is on its way is the model's reading, log 98). All this where no logged store waits for an LDT before it; one that does stays
in the log. -/
def Obligations.PublicationWritesLog : Prop :=
  StoreStaysBehindTicket ∧
  ∀ (s : State) (k : Nat), s.withholds k = false → (s.tile k).ovf = [] → ((s.tile k).log.map (·.dbl)).Nodup →
    s.hbm.wf = true → s.keepsBack k (fun _ => true) (fun _ => true) = false →
    let u := s.publish k
    (∀ a, offExposure s k a 1 ∨ (s.tile k).log = [] → u.hbm.get a =
      match (s.tile k).log.find? fun e => e.dbl == a / 8 with
      | some e => if s.hashed (8 * (a / 8)) 8 then s.hbm.get a else (histByte e.hist (a % 8)).getD (s.hbm.get a)
      | none => s.hbm.get a) ∧
    ((s.tile k).log ≠ [] → (∀ e ∈ (s.tile k).log, offExposure s k (8 * e.dbl) 8) → Exposed s u k) ∧
    (u.tile k).log = [] ∧ u.hbm.wf = true ∧
    (∀ x ∈ (u.tile k).cache, ∀ e ∈ (s.tile k).log, x.line ≠ e.dbl / 16) ∧
    ∀ r l pa, (s.tile k).reqs = [r] → r.lanes = [l] → s.ldtPlace k r l = some pa → r.sent = none → (s.tile k).log ≠ [] →
      (∀ e ∈ (s.tile k).log, ∀ x ∈ e.hist, x.id ≤ r.id) →
      (u.tile k).reqs = [{ r with sent := some ((List.range l.len).map fun m => (s.tile k).ownByte r.id (pa + m)) }]

/-- R218, R221, R223, R224, R229, SYNC_OP_COMPLETE and BARRIER_COMPLETE: PHASE.T publishes, empties the read cache, counts a
phase and lets its tile see what its gang-mates have published; FENCE ends; PHASE.G and BAR arrive, and end on every member
once all have arrived at one kind, PHASE.G with their read caches empty (R221); what a PHASE.G publishes is kept from the gang-mates until then, by whole doubles. Members
that have arrived at different kinds take the fatal fault 0x30, one that drains after END among them. -/
def Sys2Proof.Claims.SyncEvents : Prop :=
  (∀ (s : State) (k : Nat) (x : Sync), (s.tile k).sync = [x] → x.arrived = false → (s.tile k).syncReady x = true →
    s.phaseFree k x = true → (s.tile k).run = .running →
    let t := s.tile k
    (x.kind = .fence → exec (.syncOpComplete k) s = .next (s.setTile k { t with
      sync := [], syncFault := t.syncFault || (!x.hp && decide (x.faults < (t.deferred.map (·.count)).getD 0)) })) ∧
    (x.kind = .phaseT → ∃ u : State, exec (.syncOpComplete k) s = .next u ∧ u.hbm = (s.publish k).hbm ∧
      (u.tile k).sync = [] ∧ (u.tile k).log = [] ∧ (u.tile k).ovf = [] ∧ (u.tile k).cache = [] ∧
      (u.tile k).phCount = t.phCount + 1 ∧
      ∀ g, s.gangOf k = some g → ∀ h ∈ u.held, h.gid = g.gid → t.rank ∈ h.seers) ∧
    (x.kind = .bar → exec (.syncOpComplete k) s = .next (s.setTile k { t with
      sync := [{ x with arrived := true }], arr := true, barCount := t.barCount + 1 })) ∧
    (x.kind = .phaseG → ∃ u : State, exec (.syncOpComplete k) s = .next u ∧ u.hbm = (s.publish k).hbm ∧
      (u.tile k).sync = [{ x with arrived := true }] ∧ (u.tile k).arr = true ∧ (u.tile k).barCount = t.barCount + 1 ∧
      (u.tile k).log = [] ∧ (u.tile k).phCount = t.phCount ∧
      ∀ g, s.gangOf k = some g → ∀ d ∈ t.loggedDoubles, s.hashed (8 * d) 8 = false →
        ⟨g.gid, d, s.hbm.double (8 * d), [t.rank]⟩ ∈ u.held)) ∧
  (∀ (s : State) (gid : Nat) (g : Gang), s.gang? gid = some g → s.barrierKind (s.members g) = some none →
    (s.members g).Nodup → ∃ u : State, exec (.barrierComplete gid) s = .next u ∧
      ∀ m ∈ s.members g, (s.tile m).run = .running ∨ (s.tile m).run = .stopping ∨ (s.tile m).run = .draining →
        (u.tile m).run = .parked ∧ ∃ x, (u.tile m).report = some x ∧ x.w1 = 0x30) ∧
  ∀ (s : State) (gid : Nat) (g : Gang) (kind : SyncKind), s.gang? gid = some g →
    s.barrierKind (s.members g) = some (some kind) → (s.members g).Nodup →
    (kind = .bar ∨ g.ckpt = false) → ∃ u : State, exec (.barrierComplete gid) s = .next u ∧ u.hbm = s.hbm ∧
      (∀ h ∈ u.held, h.gid ≠ g.gid) ∧
      (∀ m ∈ s.members g, ∀ x, (s.tile m).atBarrier = some x → (u.tile m).arr = false ∧
        (u.tile m).sync = (s.tile m).sync.filter (fun y => y.id != x.id) ∧
        (u.tile m).phCount = (s.tile m).phCount + (if kind = .phaseG then 1 else 0) ∧
        (kind = .phaseG → (u.tile m).cache = [] ∧ ∀ y ∈ (u.tile m).fills, y.discard = true)) ∧
      ∀ m, m ∉ s.members g → u.tile m = s.tile m

/-- R185, CHECKPOINT: with room in a CKPOOL that takes them the members' saves are kept as the gang's checkpoint, each with its
PHASE.G complete, and the PHASE.G ends; without, the gang's old save is gone, and the PHASE.G ends. -/
def Sys2Proof.Claims.CheckpointEvent : Prop :=
  ∀ (s : State) (gid : Nat) (g : Gang), s.gang? gid = some g → g.ckpt = true → g.why = none →
    s.barrierKind (s.members g) = some (some .phaseG) → (∀ m ∈ s.members g, s.quiet m = true ∧ s.arrived m = true) →
    (s.members g).Nodup →
    let save := fun off : Nat => (⟨{ g with exposed := false }, true, off, saveSize g.log2n,
      (s.barrierEnd g.gid (s.members g)).memberSaves g (s.members g)⟩ : Save)
    let taken := fun off => ((s.dropSaves g).poolSave (save off)).1
    ∃ u : State, exec (.checkpoint gid) s = .next u ∧
      (∀ m ∈ s.members g, (u.tile m).arr = false ∧ (u.tile m).phCount = (s.tile m).phCount + 1) ∧
      (∀ off, s.saveRoom g.queue (saveSize g.log2n) = some off → taken off = true → save off ∈ u.saves) ∧
      ((∀ off, s.saveRoom g.queue (saveSize g.log2n) = some off → taken off = false) → ∀ v ∈ u.saves, v.gang.same g = false)

/-! ### Events: tickets -/

/-- R244, R245, R247, R237, TICKET_ALLOCATE of a load ticket at its line's home slice: the lowest free entry becomes PENDING, and
the ticket that names it, with its key's check bits, is the answer; its value is what the slice holds now, under the logged
bytes that the request took with it at a publication since, or else those of the log; with no free entry the answer is the null
ticket. -/
def Obligations.TicketAllocation : Prop :=
  ∀ (s : State) (k id pa va : Nat) (line : Bool) (r : Req) (l : Lane), (s.tile k).lane? id 0 = some (r, l) → k < 16384 →
    r.kind = .ldt line → l.st = .hit pa → spaceOf l.addr = .virt va → s.mayPerform k r l = true →
    (s.tile k).storesSettled (fun x => decide (x.id < r.id)) = true → s.sliceHeld k r (sliceOf pa) = false →
    (s.tile k).cpys = [] → (s.tile k).colls = [] → s.badHbm = [] →
    let x := s.slice (sliceOf pa)
    (x.firstFree = none → ∃ u : State, exec (.ticketAllocate k id) s = .next u ∧
      laneOf (u.tile k) id 0 = some (.fin, 0) ∧ u.slice (sliceOf pa) = { x with nulls := x.nulls + 1 }) ∧
    ∀ j, x.firstFree = some j → ∃ (u : State) (w : W64), exec (.ticketAllocate k id) s = .next u ∧
      laneOf (u.tile k) id 0 = some (.fin, w.setWidth 1120) ∧
      tkKind w = 1 ∧ tkSlice w = sliceOf pa ∧ tkEntry w = j ∧ tkGen w = (x.ticket j).gen ∧ bitsN w 9 14 = k ∧
      (u.slice (sliceOf pa)).classify w = .is .pending ∧
      (∀ i, i ≠ j → (u.slice (sliceOf pa)).ticket i = x.ticket i) ∧ (u.slice (sliceOf pa)).issued = x.issued + 1 ∧
      ((∀ own, r.sent = some own → own.length = l.len) → ∀ m, m < l.len → m < 128 →
        let own := match r.sent with
          | some bs => (bs[m]?).getD none
          | none => (s.tile k).ownByte id (pa + m)
        ((u.slice (sliceOf pa)).ticket j).data.extractLsb' (8 * m) 8 = own.getD (s.hbm.get (pa + m)))

/-- R241, R249 to R253, TICKET_FETCH_COMPLETE, REDEEM_AT_SLICE, REDEEM_DELIVER and TICKET_CLASSIFY_AT_SLICE: a fetch
ends as READY or FAULTED, a claimed entry's leaves it CLAIMED; a redeem of a pending or ready ticket claims it, and any other's
answers with its fault; a claimed value goes to its redeemer, or the fault of its fetch, the place of a whole line's under the
tag that O0 names (R450), and the entry retires; RDM's of a copy or collective ticket empties the redeemer's read cache (R231);
TKQ answers with the class, and TKX retires what it can. -/
def Sys2Proof.Claims.TicketEvents : Prop :=
  (∀ (s : State) (n j : Nat), let e := (s.slice n).ticket j
    e.kind = 1 → e.done = false → e.state = .pending → exec (.ticketFetchComplete n j) s =
      .next (s.setSlice n { s.slice n with
        tickets := put j { e with done := true, state := if e.fcode = 0 then .ready else .faulted } (s.slice n).tickets })) ∧
  (∀ (s : State) (n j : Nat), let e := (s.slice n).ticket j
    e.kind = 1 → e.done = false → e.state = .claimed → exec (.ticketFetchComplete n j) s =
      .next (s.setSlice n { s.slice n with tickets := put j { e with done := true } (s.slice n).tickets })) ∧
  (∀ (s : State) (k id : Nat) (r : Req), (s.tile k).req? id = some r → r.kind.isRedeem = true → r.lanes = [] →
    (∀ off, r.kind.redeemOff = some off → off < (s.tile k).limit) →
    (s.tile k).acqHeld r.nb = false → (s.tile k).ticketHeld k r = false →
    let w := r.ops.t.lo
    let x := s.slice (tkSlice w)
    ∃ u : State, exec (.redeemAtSlice k id) s = .next u ∧ u.hbm = s.hbm ∧
      (∀ st, x.classify w = .is st → ((u.slice (tkSlice w)).ticket (tkEntry w)).state = .claimed ∧
        ((u.slice (tkSlice w)).ticket (tkEntry w)).claimer = some ((s.tile k).gid32, (s.tile k).rank, id) ∧
        ((u.slice (tkSlice w)).ticket (tkEntry w)).data = (x.ticket (tkEntry w)).data ∧
        ∃ pa, laneOf (u.tile k) id 0 = some (.hit pa, 0)) ∧
      (x.classify w = .spent → laneOf (u.tile k) id 0 = some (.flt 0x16 0, 0)) ∧
      (x.classify w = .expired → laneOf (u.tile k) id 0 = some (.flt 0x17 0, 0)) ∧
      (x.classify w = .invalid → laneOf (u.tile k) id 0 = some (.flt 0x15 0, 0)) ∧
      (x.classify w = .null → laneOf (u.tile k) id 0 = some (.flt 0x15 1, 0))) ∧
  (∀ (s : State) (n j k id rank : Nat) (gid : BitVec 32) (r : Req) (l : Lane), let e := (s.slice n).ticket j
    e.state = .claimed → e.done = true → e.claimer = some (gid, rank, id) → s.claimerTile gid rank = some k →
    (s.tile k).req? id = some r → r.kind = .rdm → r.lanes = [l] → l.st = .hit (2048 * n + j) →
    let engine := e.kind = 2 ∨ e.kind = 3
    ∃ u : State, exec (.redeemDeliver n j) s = .next u ∧
      (e.fcode = 0 → (e.line = false ∨ engine) → laneOf (u.tile k) id l.idx = some (.fin, (e.data.setWidth 64).setWidth 1120)) ∧
      (e.fcode = 0 → e.line = true → ¬engine → laneOf (u.tile k) id l.idx = some (.fin, e.data.setWidth 1120)) ∧
      (e.fcode = 0 → engine → (u.tile k).cache = [] ∧ ∀ x ∈ (u.tile k).fills, x.discard = true) ∧
      (e.fcode = 0 → ¬engine → (u.tile k).cache = (s.tile k).cache) ∧
      (e.fcode ≠ 0 → laneOf (u.tile k) id l.idx = some (.flt e.fcode 0, l.data) ∧
        (e.line = true → ∀ p ∈ (u.tile k).queue 0, p.id = id → p.rtag = Tag.ofCode (p.ops.o0.lo.setWidth 6))) ∧
      ((u.slice n).ticket j).state = .free ∧ ((u.slice n).ticket j).gen = e.gen + 1 ∧
      (u.slice n).redeemed = (s.slice n).redeemed + 1) ∧
  (∀ (s : State) (k id : Nat) (r : Req), (s.tile k).req? id = some r → r.kind = .tkq ∨ r.kind = .tkx → r.lanes = [] →
    (s.tile k).acqHeld r.nb = false → (s.tile k).ticketHeld k r = false →
    let w := r.ops.t.lo
    let n := r.asks k
    let x := s.slice n
    ∃ u : State, exec (.ticketClassifyAtSlice k id) s = .next u ∧
      laneOf (u.tile k) id 0 = some (.fin, BitVec.ofNat 1120 (match x.classify w with
        | .is .pending => 0 | .is .ready => 1 | .is .faulted => 2 | .is _ => 3 | .spent => 3 | .expired => 4
        | .invalid => 5 | .null => 6)) ∧
      (r.kind = .tkq → u.slice n = x) ∧
      (r.kind = .tkx → x.classify w = .is .pending ∨ x.classify w = .is .ready ∨ x.classify w = .is .faulted →
        (u.slice n).cancelled = x.cancelled + 1 ∧ ((u.slice n).ticket (tkEntry w)).state = .free))

/-- R250, R251, RDM.S: it writes the value of its entry, 8 bytes or a whole line, to the redeemer's scratchpad at its offset, no
other byte of it, and answers with their number; the entry retires; a copy or collective ticket's is an acquire point (R231).
Beyond the task's scratchpad it faults with 0x12 before its request leaves, and every slice stands. -/
def Sys2Proof.Claims.RedeemsToScratchpad : Prop :=
  (∀ (s : State) (n j k id rank off : Nat) (gid : BitVec 32) (r : Req) (l : Lane), let e := (s.slice n).ticket j
    e.state = .claimed → e.done = true → e.fcode = 0 → e.claimer = some (gid, rank, id) → s.claimerTile gid rank = some k →
    (s.tile k).req? id = some r → r.kind = .rdmS off → r.lanes = [l] → l.st = .hit (2048 * n + j) → (s.tile k).spm.wf = true →
    let engine := e.kind = 2 ∨ e.kind = 3
    let len := if e.line = true ∧ ¬engine then 128 else 8
    ∃ u : State, exec (.redeemDeliver n j) s = .next u ∧ u.hbm = s.hbm ∧
      laneOf (u.tile k) id l.idx = some (.fin, BitVec.ofNat 1120 len) ∧
      (∀ m, m < len → (u.tile k).spm.get (off + m) = e.data.extractLsb' (8 * m) 8) ∧
      (∀ a, (a < off ∨ off + len ≤ a) → (u.tile k).spm.get a = (s.tile k).spm.get a) ∧
      (engine → (u.tile k).cache = []) ∧
      ((u.slice n).ticket j).state = .free ∧ ((u.slice n).ticket j).gen = e.gen + 1 ∧
      (u.slice n).redeemed = (s.slice n).redeemed + 1) ∧
  ∀ (s : State) (k id off : Nat) (r : Req), (s.tile k).req? id = some r → r.kind = .rdmS off → r.lanes = [] →
    (s.tile k).acqHeld r.nb = false → (s.tile k).limit ≤ off →
    ∃ u : State, exec (.redeemAtSlice k id) s = .next u ∧ laneOf (u.tile k) id 0 = some (.flt 0x12 0, 0) ∧
      u.slices = s.slices ∧ u.hbm = s.hbm

/-- R228, R473: a redeem, TKQ or TKX waits, with no effect, while an earlier ticket operation of its tile at the same slice has
not been performed, and while an acquiring atomic of an earlier bundle has not; TKQ and TKX of the null ticket ask the
tile's proxy slice. R251, R346: the value of a claimed entry waits while its redeemer's gang is saved. -/
def Sys2Proof.Claims.TicketsInOrder : Prop :=
  (∀ (s : State) (k id : Nat) (r : Req), (s.tile k).req? id = some r → r.lanes = [] →
    let slice := fun x : Req => if x.ops.t.lo = 0 ∧ (x.kind = .tkq ∨ x.kind = .tkx) then proxySlice k else tkSlice x.ops.t.lo
    let waits := ((r.kind = .rdm ∨ ∃ off, r.kind = .rdmS off ∧ off < (s.tile k).limit) → exec (.redeemAtSlice k id) s = .next s) ∧
      (r.kind = .tkq ∨ r.kind = .tkx → exec (.ticketClassifyAtSlice k id) s = .next s)
    ((∃ x ∈ (s.tile k).reqs, x.id < id ∧ x.lanes = [] ∧ slice x = slice r ∧
      (x.kind = .rdm ∨ (∃ off, x.kind = .rdmS off) ∨ x.kind = .tkq ∨ x.kind = .tkx)) → waits) ∧
    ((∃ x ∈ (s.tile k).reqs, x.nb < r.nb ∧ (∃ op, x.kind = .amo op .acq) ∧ ∃ l ∈ x.lanes, l.open_ = true) → waits)) ∧
  ∀ (s : State) (n j rank id : Nat) (gid : BitVec 32), let e := (s.slice n).ticket j
    e.state = .claimed → e.done = true → e.claimer = some (gid, rank, id) → s.gang? gid.toNat = none →
    (∃ v ∈ s.saves, v.gang.gid = gid) → exec (.redeemDeliver n j) s = .next s

/-- R239, R248, a peer's proxy fetch of KIND 4: it leaves its entry READY with what the peer gave, or FAULTED with the cause, a
claimed one CLAIMED; over a link that is not up the cause is 0x13. This device's memory stands. -/
def Sys2Proof.Claims.ProxyFetches : Prop :=
  ∀ (s : State) (n j dev off : Nat), let e := (s.slice n).ticket j
    e.kind = 4 → e.done = false → e.state = .pending ∨ e.state = .claimed → spaceOf e.addr = .peer dev off →
    ∃ (u : State) (code : BitVec 8) (d : BitVec 1024), exec (.ticketFetchComplete n j) s = .next u ∧ u.hbm = s.hbm ∧
      u.tiles = s.tiles ∧ (s.route dev ≠ .up → code = 0x13) ∧
      (u.slice n).ticket j = { e with
        data := d, done := true, fcode := code
        state := if e.state = .claimed then .claimed else if code = 0 then .ready else .faulted }

/-- R254, TICKET_WATCHDOG_PASS: every entry that is PENDING, READY or FAULTED and not FROZEN ages by 8, up to the field's
top; one whose age reaches TKTTL is retired; the others stand. -/
def Sys2Proof.Claims.TicketsAge : Prop :=
  ∀ (s : State) (n : Nat), ((s.slice n).tickets.map (·.1)).Nodup →
    ∃ u : State, exec (.ticketWatchdogPass n) s = .next u ∧ u.tiles = s.tiles ∧ ∀ j,
      let e := (s.slice n).ticket j
      let f := (u.slice n).ticket j
      let age := min (e.age + 8) 0xFFFFF
      if (e.state = .pending ∨ e.state = .ready ∨ e.state = .faulted) ∧ e.frozen = false then
        (if s.dev.tkttl ≤ age then f.state = .free ∧ f.gen = e.gen + 1 ∧ f.retgen = e.gen ∧ f.retwhy = 3
         else f = { e with age := age })
      else f = e

/-- Tickets at their slices, and the watchdog. -/
def Obligations.TicketsAtSlices : Prop :=
  TicketEvents ∧ RedeemsToScratchpad ∧ TicketsInOrder ∧ ProxyFetches ∧ TicketsAge

/-! ### Events: queues, joins and the dispenser -/

/-- R173, R181, R182, ENQ_AT_SLICE, of a tile that has nothing to publish: an accepted record stands in its slot, READY, PROD
counts on, and the gang is exposed; a full queue answers 1, a disabled one 2, a record that is not statically valid 3. A slot
in a HASHH region, which no slice lets the ENQ write (R382), makes it fail with the access fault. -/
def Sys2Proof.Claims.EnqueueEvents : Prop :=
  (∀ (s : State) (k id q off pa : Nat) (r : Req) (l : Lane), (s.tile k).lane? id 0 = some (r, l) → r.kind = .enq q off →
    l.st = .hit pa → s.enqReady k r = true → (s.tile k).log = [] → (s.tile k).ovf = [] → s.hbm.wf = true →
    let rec_ := recWith (l.data.setWidth 256) 0
    let d := s.queueDesc q
    let i := d.prod.toNat % 2 ^ d.log2
    ∃ u : State, exec (.enqAtSlice k id) s = .next u ∧
      (recStatic rec_ = false → u.hbm = s.hbm ∧ laneOf (u.tile k) id 0 = some (.fin, 3)) ∧
      (recStatic rec_ = true → d.en = false ∨ s.ringBase q = none → u.hbm = s.hbm ∧
        laneOf (u.tile k) id 0 = some (.fin, 2)) ∧
      (∀ b, recStatic rec_ = true → d.en = true → s.ringBase q = some b →
        ((d.prod - d.retire).toNat = 2 ^ d.log2 → u.hbm = s.hbm ∧ laneOf (u.tile k) id 0 = some (.fin, 1)) ∧
        ((d.prod - d.retire).toNat ≠ 2 ^ d.log2 → s.hashed (b + 64 * i) 64 = true → u.hbm = s.hbm ∧
          laneOf (u.tile k) id 0 = some (.flt 0x12 0, l.data)) ∧
        ((d.prod - d.retire).toNat ≠ 2 ^ d.log2 → s.hashed (b + 64 * i) 64 = false → offExposure s k (b + 64 * i) 64 →
          u.slotRecord b i = rec_ ∧ u.slotWord b i 4 = 1 ∧
          u.slotWord b i 6 = BitVec.ofNat 64 s.ns ∧ (u.queueDesc q).prod = d.prod + 1 ∧
          laneOf (u.tile k) id 0 = some (.fin, (BitVec.ofNat 64 (i * 65536)).setWidth 1120) ∧ Exposed s u k ∧
          ∀ a, (a < b + 64 * i ∨ b + 64 * i + 64 ≤ a) → offExposure s k a 1 → u.hbm.get a = s.hbm.get a))) ∧
  (∀ (s : State) (q field value : Nat), s.up = true → let d := s.queueDesc q
    let x := BitVec.ofNat 64 value
    ∃ e : QDesc, exec (.queueDescriptorWrite q field value) s = .next (s.setQueueDesc q e) ∧
      (field = 0 → e = { d with en := x.getLsbD 0 }) ∧ (field = 1 → e = { d with ring := x.setWidth 32 }) ∧
      (field = 2 → 4 ≤ bitsN x 0 5 → bitsN x 0 5 ≤ 16 → e = { d with log2 := bitsN x 0 5 }) ∧
      (field = 2 → bitsN x 0 5 < 4 ∨ 16 < bitsN x 0 5 → e = { d with en := false }) ∧
      (field = 3 → e = { d with cmask := x }) ∧ (field = 4 → e = { d with prod := x.setWidth 32 }) ∧
      (field = 5 → e = { d with claim := x.setWidth 32 }) ∧ (field = 6 → e = { d with retire := x.setWidth 32 }) ∧
      (field = 7 → e = { d with ckpool := x.setWidth 32 }) ∧ (field = 8 → e = { d with cksize := x.setWidth 32 }))

/-- R183, R182, JOIN_AT_SLICE and HANDOVER_ENQUEUE, of a tile that has nothing to publish: the counter counts down and gathers
the status bits; a counter of 0 is the join fault, and a counter in a HASHH region the access fault (R382); the last join gives
notice, or enqueues its successor with the gathered status, or hands it over where the queue is full or its slot stands in a
HASHH region; a JOIN whose T has faulted answers with that fault; every JOIN exposes the gang; what was handed over is
enqueued later and PEND cleared, unless a slice refuses it. -/
def Sys2Proof.Claims.JoinEvents : Prop :=
  (∀ (s : State) (k id pa : Nat) (r : Req) (l : Lane), (s.tile k).lane? id 0 = some (r, l) → r.kind = .join →
    l.st = .hit pa → s.enqReady k r = true → (s.tile k).log = [] → (s.tile k).ovf = [] →
    s.hbm.wf = true → s.badHbm = [] → s.softHbm = [] → offExposure s k pa 8 →
    let old := s.hbm.double pa
    let target := s.hbm.double (pa + 8)
    let status : BitVec 8 := old.extractLsb' 32 8 ||| r.ops.o0.lo.setWidth 8
    let succ := recWith (BitVec.ofNat 256 (s.hbm.value (pa + 32) 32)) status
    let q := bitsN target 0 8
    let d := s.queueDesc q
    ∃ u : State, exec (.joinAtSlice k id) s = .next u ∧
      (s.hashed pa 8 = true → laneOf (u.tile k) id 0 = some (.flt 0x12 0, l.data)) ∧
      (s.hashed pa 8 = false → bitsN old 0 32 = 0 → laneOf (u.tile k) id 0 = some (.flt 0x19 0, l.data)) ∧
      (s.hashed pa 8 = true ∨ bitsN old 0 32 = 0 → ∀ a, offExposure s k a 1 → u.hbm.get a = s.hbm.get a) ∧
      (s.hashed pa 8 = true ∨ bitsN old 0 32 ≠ 1 → Exposed s u k) ∧
      (s.hashed pa 8 = false →
      (bitsN old 0 32 ≠ 0 → laneOf (u.tile k) id 0 = some (.fin, old.setWidth 1120)) ∧
      (2 ≤ bitsN old 0 32 → bitsN (u.hbm.double pa) 0 32 = bitsN old 0 32 - 1 ∧
        (u.hbm.double pa).extractLsb' 32 8 = status ∧ u.dev = s.dev ∧ u.clusters = s.clusters ∧
        ∀ a, (a < pa ∨ pa + 8 ≤ a) → offExposure s k a 1 → u.hbm.get a = s.hbm.get a) ∧
      (bitsN old 0 32 = 1 → target.getLsbD 63 = true → Exposed s u k ∧
        ∀ core, core < 4 → core = quadrantOf (homeCluster (sliceOf pa)) →
        (vget .reset u.dev.mail core).notices = (vget .reset s.dev.mail core).notices ++ [.jobDone l.addr status 0]) ∧
      (bitsN old 0 32 = 1 → target.getLsbD 63 = false → recStatic succ = true → ∀ b, s.ringBase q = some b → d.en = true →
        let i := d.prod.toNat % 2 ^ d.log2
        ((d.prod - d.retire).toNat ≠ 2 ^ d.log2 → s.hashed (b + 64 * i) 64 = false → (u.queueDesc q).prod = d.prod + 1 ∧
          (offExposure s k (b + 64 * i) 64 → u.slotRecord b i = succ ∧ Exposed s u k)) ∧
        ((d.prod - d.retire).toNat = 2 ^ d.log2 ∨ s.hashed (b + 64 * i) 64 = true → Exposed s u k ∧
          (u.cluster (homeCluster (sliceOf pa))).handover =
            (s.cluster (homeCluster (sliceOf pa))).handover ++ [⟨succ, q, pa⟩] ∧
          (u.hbm.double pa).getLsbD 40 = true)))) ∧
  (∀ (s : State) (k id : Nat) (r : Req) (l : Lane) (code aux : BitVec 8), (s.tile k).lane? id 0 = some (r, l) →
    r.kind = .join → l.st = .deny code aux → s.enqReady k r = true → (s.tile k).log = [] → (s.tile k).ovf = [] →
    s.hbm.wf = true →
    ∃ u : State, exec (.joinAtSlice k id) s = .next u ∧ laneOf (u.tile k) id 0 = some (.flt code aux, l.data) ∧
      Exposed s u k ∧ ∀ a, offExposure s k a 1 → u.hbm.get a = s.hbm.get a) ∧
  ∀ (s : State) (n b : Nat) (h : Handover) (rest : List Handover), (s.cluster n).owed ++ (s.cluster n).handover = h :: rest →
    s.ringBase h.queue = some b → s.hbm.wf = true →
    let d := s.queueDesc h.queue
    d.en = true → (d.prod - d.retire).toNat ≠ 2 ^ d.log2 → s.hashed (b + 64 * (d.prod.toNat % 2 ^ d.log2)) 64 = false →
    ∃ u : State, exec (.handoverEnqueue n) s = .next u ∧ (u.cluster n).owed ++ (u.cluster n).handover = rest ∧
      (u.queueDesc h.queue).prod = d.prod + 1 ∧
      (s.hashed h.joinPa 8 = false → (u.hbm.double h.joinPa).getLsbD 40 = false) ∧
      (s.hashed h.joinPa 8 = true → ∀ m, m < 8 →
        (h.joinPa + m < b + 64 * (d.prod.toNat % 2 ^ d.log2) ∨ b + 64 * (d.prod.toNat % 2 ^ d.log2) + 64 ≤ h.joinPa + m) →
        u.hbm.get (h.joinPa + m) = s.hbm.get (h.joinPa + m))

/-- R175 to R178, R166, R36, DISPENSER_SELECT for a cluster that serves one queue, and RESERVATION_TAKE, which read the slots they choose among
and change nothing else by it (R370): a record whose entry needs no frame is claimed under the next gang identifier and runs on the chosen rectangle, each member with
its rank, pc, image, size and FLM (while another gang of that identifier is resident the model lets it wait, log 85); a record
that is not launchable is claimed, and its slot retires with BADREC and GANG as it was (R174); one whose frame read faults retires
with FAULT, its members released with the launch state they had taken (R188, log 103); a record that has waited 2 ms reserves the allowed
rectangle with the fewest resident tiles, of those the one of the lowest TID, every tile of it with scratchpad enough. -/
def Obligations.DispenserEvents : Prop :=
  (∀ (s : State) (c : Nat), let t := s.touchChoices c
    t.hbm = s.hbm ∧ t.tiles = s.tiles ∧ t.gangs = s.gangs ∧ t.clusters = s.clusters ∧
      (s.softHbm = [] → s.badHbm = [] → t = s)) ∧
  ∀ (s : State) (c q b i : Nat) (d : QDesc), s.dev.queues = [(q, d)] → s.head c q = some (b, i) →
    let r := s.slotRecord b i
    let n := recShape r
    (∀ e, bitsN (s.cluster c).dspctl 0 2 = 1 → (s.cluster c).unretired = [] → (s.cluster c).redo = [] → s.saves = [] →
      s.hbm.wf = true →
      let gid : BitVec 32 := (BitVec.ofNat 6 c ++ (s.cluster c).ser : BitVec 32)
      (∀ o, s.launchable r = some e → e.frame = 0 → s.place c q i r = some o → (s.gang? gid.toNat).isSome = true →
        exec (.dispenserSelect c) s = .next (s.touchChoices c)) ∧
      (∀ o, s.launchable r = some e → e.frame = 0 → s.place c q i r = some o → s.gang? gid.toNat = none →
        ∃ u : State, exec (.dispenserSelect c) s = .next u ∧
          (∃ g, u.gangs = s.gangs ++ [g] ∧ g.gid = gid ∧ g.queue = q ∧ g.slot = i ∧ g.origin = o ∧ g.record = r) ∧
          slotState (u.slotWord b i 4) = 2 ∧ bitsN (u.slotWord b i 4) 32 32 = gid.toNat ∧
          (u.queueDesc q).claim = d.claim + 1 ∧ (u.cluster c).ser = (s.cluster c).ser + 1 ∧
          (∀ rank, rank < 2 ^ n → let t := u.tile (o + rank / 2 ^ (n / 2) * 128 + rank % 2 ^ (n / 2))
            t.run = .running ∧ t.pc = recEntry r ∧ t.img = recImage r ∧ t.spadk = recSpadk r ∧ bitsN t.grank 0 8 = rank ∧
            bitsN t.gid 0 32 = gid.toNat ∧ t.g = Vector.replicate 64 0 ∧ t.flm = e.flm.setWidth 64 &&& 0x4F0E) ∧
          ∀ k, k ∉ rectTiles o n → u.tile k = s.tile k) ∧
      (s.launchable r = none → recJoin r = 0 → ∃ u : State, exec (.dispenserSelect c) s = .next u ∧
        (u.queueDesc q).claim = d.claim + 1 ∧ u.gangs = s.gangs ∧ u.tiles = s.tiles ∧
        bitsN (u.slotWord b i 4) 32 32 = bitsN (s.slotWord b i 4) 32 32 ∧
        slotStatus (u.slotWord b i 4) = slotStatus (s.slotWord b i 4) ||| 8 ∧
        (slotState (u.slotWord b i 4) = 4 ∨ slotState (u.slotWord b i 4) = 0) ∧
        (d.retire.toNat % 2 ^ d.log2 = i → slotState (u.slotWord b i 4) = 0)) ∧
      (∀ o, s.launchable r = some e → e.frame ≠ 0 → s.place c q i r = some o → s.gang? gid.toNat = none → recJoin r = 0 →
        0xF000000000 < bitsN s.dev.ptroot 12 28 * 4096 + 4096 →
        tlbFind ((s.cluster c).l2.map (·.2)) ((recFrame r).toNat / 65536) 0 = none →
        ∃ u : State, exec (.dispenserSelect c) s = .next u ∧ u.gangs = s.gangs ∧
          (u.queueDesc q).claim = d.claim + 1 ∧ bitsN (u.slotWord b i 4) 32 32 = gid.toNat ∧
          slotStatus (u.slotWord b i 4) = slotStatus (s.slotWord b i 4) ||| 2 ∧
          (slotState (u.slotWord b i 4) = 4 ∨ slotState (u.slotWord b i 4) = 0) ∧
          ∀ rank, rank < 2 ^ n → let k := o + rank / 2 ^ (n / 2) * 128 + rank % 2 ^ (n / 2)
            (u.tile k).run = .idle ∧ bitsN (u.tile k).gid 0 32 = gid.toNat ∧ bitsN (u.tile k).grank 0 8 = rank ∧
            (u.tile k).g = Vector.replicate 64 0 ∧ (u.tile k).spm = (s.tile k).spm ∧ (u.tile k).nb = (s.tile k).nb)) ∧
    ((s.cluster c).rsv = none → (s.cluster c).redo = [] → s.saves = [] → 2000000 ≤ s.waited b i →
      (s.launchable r).isSome = true → s.place c q i r = none →
      let allowed := fun o => o ∈ rectsOf c n ∧ ∀ t ∈ rectTiles o n, s.tileAllowed (recSpadk r) t = true
      let load := fun o => ((rectTiles o n).filter fun t => (s.tile t).resident).length
      (∃ o, allowed o) → ∃ o, allowed o ∧ (∀ o', allowed o' → load o ≤ load o' ∧ (load o' = load o → o ≤ o')) ∧
        exec (.reservationTake c) s = .next ((s.touchChoices c).setCluster c { s.cluster c with rsv := some ⟨q, i, n, o⟩ }))

/-- R179, SUPACK: the oldest reports leave the supervisor's ring, and those that waited follow in order. -/
def Sys2Proof.Claims.SupervisorRing : Prop :=
  ∀ (s : State) (c n : Nat), s.up = true → 1 ≤ n → n ≤ 64 → (s.cluster c).supring.length ≤ 64 →
    let x := s.cluster c
    ∃ y : Cluster, exec (.supack c n) s = .next (s.setCluster c y) ∧ y.supring.length ≤ 64 ∧
      y.supring ++ y.supWait = x.supring.drop n ++ x.supWait ∧ (y.supWait ≠ [] → y.supring.length = 64)

/-- Hardware queues, joins, and the ring of reports. What becomes of an ENQ, and of a successor, whose slot lies in a HASHH region is
the model's reading of R382 and R173 (log 76), and that a ring on a peer is no ring is too (log 12). -/
def Obligations.QueuesAndJoins : Prop :=
  EnqueueEvents ∧ JoinEvents ∧ SupervisorRing

/-! ### Events: gangs -/

/-- R54, R160, R184, TILE_RELEASE and GANG_RETIRE: a drained tile is released: it is idle, holds no gang's grants, queues,
bindings, requests and log, its links are resynchronised with a notice of eight places to each neighbour, and its registers
and its scratchpad stand; a deferred fault it still holds is a report of cause 0x1A, and marks its gang's status with FAULT;
when every member is released the record retires with that status, its slot RETIRED, or kept by the dispenser of the
gang's cluster until the slot can be written (R173, log 43). -/
def Sys2Proof.Claims.ReleaseEvents : Prop :=
  (∀ (s : State) (k : Nat), let t := s.tile k
    k < 16384 → t.run = .draining → s.drained k = true → t.sync = [] → t.log = [] → t.ovf = [] → t.queues = Vector.replicate 7 [] →
      (t.deferred = none → ∃ u : State, exec (.tileRelease k) s = .next u ∧ u = s.releaseTile k ∧ u.hbm = s.hbm ∧
        (∀ j, j ≠ k → u.tile j = s.tile j) ∧ (∀ x ∈ (u.cluster (clusterOf k)).pend, ∀ w ∈ x.2.waiters, w.tile ≠ k) ∧
        let v := u.tile k
        v.run = .idle ∧ v.report = none ∧ v.grants = Vector.replicate 4 0 ∧ v.inbox = [] ∧ v.taking = none ∧
        v.strm = Vector.replicate 6 .empty ∧ v.queues = Vector.replicate 7 [] ∧ v.reqs = [] ∧ v.fills = [] ∧ v.log = [] ∧
        v.ovf = [] ∧ v.mx.queue = [] ∧ v.slns = 0 ∧ v.spm = t.spm ∧ v.g = t.g ∧ v.v = t.v ∧ v.p = t.p ∧ v.q = t.q ∧
        ∀ d, d < 4 → v.link d = if edgeAt k d then { t.link d with queue := [] }
          else { t.link d with queue := [], back := (t.link d).back ++ [.notice 8], await := (t.link d).await + 1 }) ∧
      ∀ d, t.deferred = some d → ∃ u : State, exec (.tileRelease k) s = .next u ∧ (u.tile k).run = .idle ∧
        (∃ r ∈ (u.cluster (clusterOf k)).supring ++ (u.cluster (clusterOf k)).supWait,
          r.w1 = 0x1A ∧ bitsN r.w0 32 8 = d.cause.toNat ∧ r.w3 = d.addr) ∧
        ∀ g ∈ u.gangs, g.gid.toNat = t.gidN → g.status.getLsbD 1 = true) ∧
  ∀ (s : State) (gid : Nat) (g : Gang), s.gang? gid = some g → s.members g = [] → g.runsOn = true → recJoin g.record = 0 →
    s.hbm.wf = true →
    let st := if g.status.getLsbD 1 && g.exposed then g.status ||| 1 else g.status
    ∃ u : State, exec (.gangRetire gid) s = .next u ∧ (∀ x ∈ u.gangs, x.gid ≠ g.gid) ∧ u.tiles = s.tiles ∧
      (s.slotBase g.queue g.slot = none → (g.queue, g.slot, st) ∈ (u.cluster (clusterOf g.origin)).unretired) ∧
      ∀ b, s.slotBase g.queue g.slot = some b → slotStatus (u.slotWord b g.slot 4) = st ∧
        (slotState (u.slotWord b g.slot 4) = 4 ∨ slotState (u.slotWord b g.slot 4) = 0)

/-- R186, R187, GANG_FAIL, RECORD_CANCEL and UNRESPONSIVE_TIMEOUT: the members still running are told to stop; once
all are quiet they are released, and the gang retires, or its record waits to be placed again with its retry
counted, in the cluster in which it failed (log 41); a task marked for a fault at END is not run again and retires with FAULT (R160,
log 104); a cancel names its reason; a tile that does not respond parks with fatal fault 0x34. -/
def Sys2Proof.Claims.FailureEvents : Prop :=
  (∀ (s : State) (gid : Nat) (g : Gang), s.gang? gid = some g → g.runsOn = false →
    let ms := s.members g
    ((∃ m ∈ ms, (s.tile m).run = .running) → ∃ u : State, exec (.gangFail gid) s = .next u ∧
      (∀ m ∈ ms, (s.tile m).run = .running → (u.tile m).stopReq = true) ∧ u.gangs = s.gangs ∧ u.hbm = s.hbm) ∧
    ((∀ m ∈ ms, (s.tile m).run ≠ .running ∧ s.quiet m = true) → s.reportWaits ms = false → s.granted g ms = [] →
      s.hbm.wf = true →
      (g.mustRetire = true → recJoin g.record = 0 → ∃ u : State, exec (.gangFail gid) s = .next u ∧
        (∀ m ∈ ms, (u.tile m).run = .idle) ∧ ∀ x ∈ u.gangs, x.gid ≠ g.gid) ∧
      (g.mustRetire = false → g.status.getLsbD 1 = true → recJoin g.record = 0 → s.slotBase g.queue g.slot = none →
        ∃ u : State, exec (.gangFail gid) s = .next u ∧ (∀ m ∈ ms, (u.tile m).run = .idle) ∧ (∀ x ∈ u.gangs, x.gid ≠ g.gid) ∧
          (g.queue, g.slot, g.status) ∈ (u.cluster (clusterOf g.origin)).unretired) ∧
      (∀ b, g.mustRetire = false → g.status.getLsbD 1 = false → (s.launchable g.record).isSome = true → s.slotBase g.queue g.slot = some b → s.saves = [] →
        slotRetry (s.slotWord b g.slot 4) < 3 → ∃ u : State, exec (.gangFail gid) s = .next u ∧
          (∀ m ∈ ms, (u.tile m).run = .idle) ∧ (∀ x ∈ u.gangs, x.gid ≠ g.gid) ∧
          ⟨g.queue, g.slot, g.gid⟩ ∈ (u.cluster (clusterOf g.origin)).redo ∧
          slotRetry (u.slotWord b g.slot 4) = slotRetry (s.slotWord b g.slot 4) + 1 ∧
          slotState (u.slotWord b g.slot 4) = 1))) ∧
  (∀ (s : State) (q i : Nat), s.up = true → (∃ g ∈ s.gangs, g.queue = q ∧ g.slot = i) →
    ∃ u : State, exec (.recordCancel q i) s = .next u ∧ u.tiles = s.tiles ∧ u.hbm = s.hbm ∧
      ∀ g ∈ u.gangs, g.queue = q → g.slot = i → g.why = some .cancelled ∨ g.why = some .integrity) ∧
  ∀ (s : State) (k : Nat), (s.tile k).run = .running → (s.tile k).report = none → s.lockBits k = 0 →
    (s.tile k).undo.pending = true → ∃ u : State, exec (.unresponsiveTimeout k) s = .next u ∧ (u.tile k).run = .parked ∧
      ∃ r : Report, (u.tile k).report = some r ∧ r.w1 = 0x34

/-- Release, retirement, failure and cancellation. The waiters that a release takes out of the pending entries (log 91), the CODE
alone in word 1 of a report and one report for the deferred record (log 84), and the two phases of GANG_FAIL (log 40) are the
model's readings. -/
def Obligations.GangsEnd : Prop :=
  ReleaseEvents ∧ FailureEvents

/-- R345, R346, R349, QUARANTINE_END, GANG_STOP and GANG_RESUME: a quarantine whose watched tiles have all gone on leaves its tiles
idle, with no grant and an empty scratchpad; a stop reserves room and tells every member to halt, and once all are quiet
keeps each as it stands and releases it, where the pool takes the save; a saved gang that can be placed comes back, every
member as it was saved, with no nest (R287), its link queues with their words and its credits toward gang-mates too; a link
to another tile is resynchronised with notice of the places that are left (log 82); resumption is an acquire point, and no byte is held for the gang any more
(R218). All this where the save stands in CKPOOL as it was written; where it does not, the words of the pool count: the pc, the loop
counts and the predicates that stand there are the members'. A save whose handle fails its check waits. The nests' zeros and
what becomes of a save in error are the model's reading (log 39), as are the phases of GANG_STOP (log 40). -/
def Sys2Proof.Claims.StopAndResume : Prop :=
  (∀ (s : State) (gid : Nat) (q : Quar), s.quar.find? (fun q => q.gid.toNat == gid) = some q →
    (∀ x ∈ q.watch, (s.tile x.1).phCount ≠ x.2) → ∃ u : State, exec (.quarantineEnd gid) s = .next u ∧
      u.quar = s.quar.erase q ∧ (∀ m ∈ q.tiles, (u.tile m).run = .idle ∧ (u.tile m).grants = Vector.replicate 4 0 ∧
        (u.tile m).spm = []) ∧ ∀ m, m ∉ q.tiles → u.tile m = s.tile m) ∧
  (∀ (s : State) (gid off : Nat) (g : Gang), s.up = true → s.gang? gid = some g → g.why = none →
    s.saveRoom g.queue (saveSize g.log2n) = some off → ∃ u : State, exec (.gangStop gid) s = .next u ∧
      (∀ x ∈ u.gangs, x.gid.toNat = gid → x.why = some .preempt) ∧
      (∃ v ∈ u.saves, v.gang.gid = g.gid ∧ v.offset = off ∧ v.checkpoint = false) ∧
      ∀ m ∈ s.members g, (s.tile m).run = .running → (u.tile m).stopReq = true) ∧
  (∀ (s : State) (gid : Nat) (g : Gang) (v : Save), s.up = true → s.gang? gid = some g →
    g.why = some .preempt → s.saves.find? (fun v => v.gang.same g && !v.checkpoint) = some v → s.members g ≠ [] →
    (∀ m ∈ s.members g, (s.tile m).halted = true ∧ (s.tile m).sync.all (·.arrived) = true ∧ s.quiet m = true ∧
      s.arrived m = true) →
    let still := s.freeze g.gid true
    let w : Save := ⟨{ g with why := none }, false, v.offset, saveSize g.log2n, still.memberSaves g (s.members g)⟩
    ∃ u : State, exec (.gangStop gid) s = .next u ∧
      ((still.poolSave w).1 = true → (∀ m ∈ s.members g, (u.tile m).run = .idle) ∧ (∀ x ∈ u.gangs, x.gid ≠ g.gid) ∧
        w ∈ u.saves) ∧
      ((still.poolSave w).1 = false → u.gangs = s.gangs ∧ u.tiles = s.tiles)) ∧
  (∀ (s : State) (c : Nat) (v : Save), s.saves = [v] → v.gang.why ≠ some .integrity →
    (s.launchable v.gang.record).isSome = true → s.savePlace v = none → exec (.gangResume c) s = .next s) ∧
  ∀ (s : State) (c o pa : Nat) (v : Save), s.saves = [v] → v.checkpoint = false → bitsN (s.cluster c).dspctl 0 2 = 1 →
    s.savePlace v = some (some pa) → s.badHbm = [] → s.hbm.wf = true → s.resumable c v = true → v.gang.why ≠ some .integrity → (s.launchable v.gang.record).isSome = true →
    s.place c v.gang.queue v.gang.slot v.gang.record = some o → v.gang.log2n ≤ 8 → (v.members.map (·.1)).Nodup →
    (∀ x ∈ v.members, x.1 < 2 ^ v.gang.log2n) →
    ∃ u : State, exec (.gangResume c) s = .next u ∧ u.saves = [] ∧
      u.gangs = s.gangs ++ [{ v.gang with origin := o, why := none }] ∧ (∀ h ∈ u.held, h.gid ≠ v.gang.gid) ∧
      let at_ := fun rank => o + rank / 2 ^ (v.gang.log2n / 2) * 128 + rank % 2 ^ (v.gang.log2n / 2)
      let rd := fun k => s.hbm.double (pa + 8 * k)
      (∀ x ∈ v.members, let t := u.tile (at_ x.1)
        let base := (rd (8 + x.1)).toNat / 8
        let preds := base + (rd (base + 26)).toNat / 8
        t.run = .running ∧ t.pc % 2 ^ 30 = bitsN (rd base) 0 30 ∧ (t.p &&& 0xFFFC) = (rd preds).setWidth 16 &&& 0xFFFC ∧
        (∀ k, k < 4 → vget 0 t.lc k &&& 0x80000000FFFFFFFF = rd (base + 1 + k) &&& 0x80000000FFFFFFFF) ∧
        ∀ k, k < 8 → vget 0 t.q k = rd (preds + 1 + k)) ∧
      (s.saveStands v pa = true → ∀ x ∈ v.members, let t := u.tile (at_ x.1)
        (∀ d, d < 4 → (t.link d).queue = (x.2.link d).queue ∧ (edgeAt (at_ x.1) d = false →
          (neighbour (at_ x.1) d ∈ v.members.map (fun y => at_ y.1) → (t.link d).credit = (x.2.link d).credit) ∧
          (neighbour (at_ x.1) d ∉ v.members.map (fun y => at_ y.1) →
            (t.link d).back = ((s.tile (at_ x.1)).link d).back ++ [.notice (8 - (x.2.link d).queue.length)]))) ∧
        t.run = .running ∧ t.pc = x.2.pc ∧ t.g = x.2.g ∧ t.v = x.2.v ∧ t.p = x.2.p ∧ t.q = x.2.q ∧ t.spm = x.2.spm ∧
        t.lc = x.2.lc ∧ t.queues = x.2.queues ∧ t.fixed = x.2.fixed ∧ t.mx = x.2.mx ∧ t.log = x.2.log ∧ t.gid = x.2.gid ∧
        t.nests = Vector.replicate 8 0)

/-- Checkpoints, gang-stop, resumption and quarantine, with the model's readings of logs 39 and 40. -/
def Obligations.SavesAndResumption : Prop :=
  CheckpointEvent ∧ StopAndResume

/-! ### Events: copy jobs, buffers, collectives and waits -/

/-- R289, R290, R292, R293, R201, R182, COPY_JOB_START and COPY_JOB_END: a job that no earlier job holds back takes its handles'
entries as they stand and runs; a CB job claims the next free slot of its buffer. A plain copy of one element between two
ranges of HBM, alone in its nest, exposes the gang and copies it; the job's end gives its ticket the status word with the
count of bytes. A reduction stages first, and no byte of HBM changes. A clipped job whose notice finds the inbox full has
written what it writes, and its follow-on load waits no longer; its ticket is READY, and it ends, once the notice has room
(R280, R295, R305). -/
def Sys2Proof.Claims.CopyJobEvents : Prop :=
  (∀ (s : State) (c n : Nat) (j : Job), look n (s.cluster c).jobs = some j → j.st = .waiting → s.jobRevoked j = false →
    s.jobMayStart (s.cluster c) j = true →
    let entry := fun h => if h = 0 then (0, 0) else (look h s.dev.handles).getD (0, 0)
    let run := { j with st := .running, src := entry (bitsN j.card.sb 48 16), dst := entry (bitsN j.card.db 48 16) }
    let b := (s.tile j.tid).cbuf j.card.buf
    let jobs := fun x => s.setCluster c { s.cluster c with jobs := put n x (s.cluster c).jobs }
    (j.card.cb = false → exec (.copyJobStart c n) s = .next (jobs run)) ∧
    (j.card.cb = true → b.free ≠ 0 → ∃ u : State, exec (.copyJobStart c n) s = .next u ∧
      look n (u.cluster c).jobs = some { run with cbSlot := some b.claimAt } ∧
      (j.card.buf < 4 → ((u.tile j.tid).cbuf j.card.buf).free = b.free - 1 ∧
        ((u.tile j.tid).cbuf j.card.buf).inflight = b.inflight + 1))) ∧
  (∀ (s : State) (c n : Nat) (j : Job), look n (s.cluster c).jobs = some j → j.st = .running → j.card.rop ≠ 0 →
    j.staged = none → ∃ u : State, exec (.copyJobEnd c n) s = .next u ∧ u.hbm = s.hbm) ∧
  (∀ (s : State) (c n : Nat) (j : Job), look n (s.cluster c).jobs = some j → j.st = .running → j.written = false →
    j.staged = some [] → j.card.clipped = true → (s.tile j.tid).resident = true → (s.tile j.tid).inboxFull = true →
    ∃ (u : State) (w : W64), exec (.copyJobEnd c n) s = .next u ∧
      look n (u.cluster c).jobs = some { j with status := w, written := true } ∧ u.slices = s.slices ∧
      (u.tile j.tid).mx = (s.tile j.tid).mx.copyEnded j.id false) ∧
  (∀ (s : State) (c n : Nat) (j : Job), look n (s.cluster c).jobs = some j → j.st = .running → j.written = true →
    let full := j.card.clipped && (s.tile j.tid).resident && (s.tile j.tid).inboxFull
    let e := (s.slice (tkSlice j.ticket)).ticket (tkEntry j.ticket)
    (full = true → exec (.copyJobEnd c n) s = .next s) ∧
    (full = false → ∃ u : State, exec (.copyJobEnd c n) s = .next u ∧ u.hbm = s.hbm ∧
      (∃ k, look n (u.cluster c).jobs = some k ∧ k.st = .ended) ∧
      (j.ticket ≠ 0 → e.gen = tkGen j.ticket → e.state ≠ .free →
        ((u.slice (tkSlice j.ticket)).ticket (tkEntry j.ticket)).data = j.status.setWidth 1024))) ∧
  ∀ (s : State) (c n src dst : Nat) (j : Job), look n (s.cluster c).jobs = some j → j.st = .running → j.staged = none →
    j.written = false →
    (∀ l, l < 6 → nestCount j.card.nest l = 1) → j.card.clip = false → j.card.rop = 0 → j.card.cb = false →
    j.source.inPrint 0 j.card.esize = true → j.source.aligned 0 j.card.esize = true →
    let d := j.dest ((s.tile j.tid).cbuf j.card.buf)
    d.inPrint 0 j.card.esize = true → d.aligned 0 j.card.esize = true →
    s.copyPlace (.copy c j.tid) d true 0 j.card.esize = .ok (.hbm dst) →
    s.copyPlace (.copy c j.tid) j.source false 0 j.card.esize = .ok (.hbm src) → s.badHbm = [] →
    let word := slotToExpose s (s.gang? j.gid.toNat)
    s.hbm.wf = true → (∀ w, word = some w → dst + j.card.esize ≤ w ∨ w + 8 ≤ dst) →
    let e := (s.slice (tkSlice j.ticket)).ticket (tkEntry j.ticket)
    ∃ u : State, exec (.copyJobEnd c n) s = .next u ∧
      u.hbm.read dst j.card.esize = s.hbm.read src j.card.esize ∧
      (∀ a, (a < dst ∨ dst + j.card.esize ≤ a) → (∀ w, word = some w → a < w ∨ w + 8 ≤ a) → u.hbm.get a = s.hbm.get a) ∧
      (∀ w, word = some w → u.hbm.double w = s.hbm.double w ||| 0x40) ∧
      (∀ g, s.gang? j.gid.toNat = some g → ∃ x, u.gang? j.gid.toNat = some x ∧ x.exposed = true) ∧
      (∃ k, look n (u.cluster c).jobs = some k ∧ k.st = .ended) ∧
      (j.ticket ≠ 0 → e.gen = tkGen j.ticket → e.state ≠ .free →
        let f := (u.slice (tkSlice j.ticket)).ticket (tkEntry j.ticket)
        f.data = BitVec.ofNat 1024 j.card.esize ∧ f.fcode = 0 ∧ (e.state = .pending → f.state = .ready))

/-- R288: the offsets of a job's iterations of levels below `l` from its bases, in lexicographic order, within the clip box. -/
def Sys2Proof.Claims.iterations (c : Card) : Nat → List (Int × Int)
  | 0 => [(0, 0)]
  | l + 1 =>
    let lo := if c.clip then nestLo c.nest l else 0
    let hi := if c.clip then nestHi c.nest l else nestCount c.nest l
    (List.range (hi - lo).toNat).flatMap fun (k : Nat) => (iterations c l).map fun x =>
      (x.1 + (lo + k) * nestSrc c.nest l, x.2 + (lo + k) * nestDst c.nest l)

/-- R126, R145, R422: one step of a reduction of two elements of tag `t`: ROP 1 adds, rounded to nearest even or wrapped, 2 and 3 take
the lesser and the greater, 4 to 6 are and, or and xor. -/
def Sys2Proof.Claims.merged (rop : Nat) (t : Tag) (a b : Nat) : Nat :=
  let w := t.width.getD 8
  match rop, t.fmt with
  | 1, some f => (f.add .rne a b).bits
  | 2, some f => (fpExtreme false f a b).bits
  | 3, some f => (fpExtreme true f a b).bits
  | 1, none => (a + b) % 2 ^ w
  | 2, none => if readAs t w a ≤ readAs t w b then a else b
  | 3, none => if readAs t w b ≤ readAs t w a then a else b
  | 4, _ => a &&& b
  | 5, _ => a ||| b
  | _, _ => a ^^^ b

/-- R288: an element of a reduction job, old op new. -/
def Sys2Proof.Claims.reducedBytes (c : Card) (old new : List Byte) : List Byte :=
  let w := c.rfmt.width.getD 8
  let part := fun (bs : List Byte) k => ofBytes ((bs.drop (w / 8 * k)).take (w / 8))
  (List.range (c.esize / (w / 8))).flatMap fun k => bytesOf (w / 8) (BitVec.ofNat w (merged c.rop c.rfmt (part old k) (part new k)))

/-- A job that has run over these bytes: the gang is exposed where it wrote any (R182), the job has ended and its ticket holds the
count of `n` bytes (R258, R294). -/
def Sys2Proof.Claims.jobEnds (s u : State) (c slot n : Nat) (j : Job) : Prop :=
  let e := (s.slice (tkSlice j.ticket)).ticket (tkEntry j.ticket)
  (0 < n → (∀ w, slotToExpose s (s.gang? j.gid.toNat) = some w → u.hbm.double w = s.hbm.double w ||| 0x40) ∧
    ∀ g, s.gang? j.gid.toNat = some g → ∃ x, u.gang? j.gid.toNat = some x ∧ x.exposed = true) ∧
  (∃ k, look slot (u.cluster c).jobs = some k ∧ k.st = .ended) ∧
  (j.ticket ≠ 0 → e.gen = tkGen j.ticket → e.state ≠ .free →
    let f := (u.slice (tkSlice j.ticket)).ticket (tkEntry j.ticket)
    f.data = BitVec.ofNat 1024 (n % 2 ^ 48 + if j.card.clipped then 2 ^ 51 else 0) ∧ f.fcode = 0 ∧
      (e.state = .pending → f.state = .ready))

/-- R288, R291 to R294, COPY_JOB_END of a job of any nest between ranges of HBM. A plain copy performs its iterations in their
order, each copying one element as memory then stands. A reduction stages, for each destination element, its value with the
source elements of that destination merged in their order, and no byte of HBM changes; then it commits the staged elements. -/
def Sys2Proof.Claims.NestedCopies : Prop :=
  (∀ (s : State) (c n : Nat) (j : Job) (src dst : Int → Nat), look n (s.cluster c).jobs = some j → j.st = .running →
    j.staged = none → j.written = false → s.badHbm = [] → s.hbm.wf = true →
    let d := j.dest ((s.tile j.tid).cbuf j.card.buf)
    let its := iterations j.card 6
    let word := slotToExpose s (s.gang? j.gid.toNat)
    let m := Master.copy c j.tid
    (∀ x ∈ its, j.source.inPrint x.1 j.card.esize = true ∧ j.source.aligned x.1 j.card.esize = true ∧
      d.inPrint x.2 j.card.esize = true ∧ d.aligned x.2 j.card.esize = true ∧
      s.copyPlace m j.source false x.1 j.card.esize = .ok (.hbm (src x.1)) ∧
      s.copyPlace m d true x.2 j.card.esize = .ok (.hbm (dst x.2))) →
    (j.card.rop = 0 → s.noticeWaits j = false →
      (∀ w, word = some w → ∀ x ∈ its, (src x.1 + j.card.esize ≤ w ∨ w + 8 ≤ src x.1) ∧
        (dst x.2 + j.card.esize ≤ w ∨ w + 8 ≤ dst x.2)) →
      ∃ u : State, exec (.copyJobEnd c n) s = .next u ∧ jobEnds s u c n (j.card.esize * its.length) j ∧
        ∀ a, (∀ w, word = some w → a < w ∨ w + 8 ≤ a) → u.hbm.get a =
          (its.foldl (fun m x => m.write (dst x.2) (m.read (src x.1) j.card.esize)) s.hbm).get a) ∧
    (1 ≤ j.card.rop → j.card.rop ≤ 6 → 8 * j.card.esize % j.card.rfmt.width.getD 8 = 0 → 8 ≤ j.card.rfmt.width.getD 8 →
      (∀ x ∈ its, s.copyPlace m d false x.2 j.card.esize = .ok (.hbm (dst x.2))) →
      ∃ (u : State) (l : List (Int × List Byte)), exec (.copyJobEnd c n) s = .next u ∧ u.hbm = s.hbm ∧
        look n (u.cluster c).jobs = some { j with staged := some l } ∧ (l.map (·.1)).Nodup ∧
        (∀ o, o ∈ l.map (·.1) ↔ o ∈ its.map (·.2)) ∧
        ∀ y ∈ l, y.2 = ((its.filter fun x => x.2 == y.1).map fun x => s.hbm.read (src x.1) j.card.esize).foldl
          (reducedBytes j.card) (s.hbm.read (dst y.1) j.card.esize))) ∧
  ∀ (s : State) (c n : Nat) (j : Job) (dst : Int → Nat) (l : List (Int × List Byte)), look n (s.cluster c).jobs = some j →
    j.st = .running → j.staged = some l → j.written = false → s.badHbm = [] → s.hbm.wf = true → s.noticeWaits j = false →
    let word := slotToExpose s (s.gang? j.gid.toNat)
    (∀ y ∈ l, y.2 ≠ [] ∧ s.copyPlace (.copy c j.tid) (j.dest ((s.tile j.tid).cbuf j.card.buf)) true y.1 y.2.length =
      .ok (.hbm (dst y.1)) ∧ ∀ w, word = some w → dst y.1 + y.2.length ≤ w ∨ w + 8 ≤ dst y.1) →
    ∃ u : State, exec (.copyJobEnd c n) s = .next u ∧ jobEnds s u c n ((l.map (·.2.length)).sum) j ∧
      ∀ a, (∀ w, word = some w → a < w ∨ w + 8 ≤ a) → u.hbm.get a =
        (l.foldl (fun m y => m.write (dst y.1) y.2) s.hbm).get a

/-- R145: the merge of slices `lo` to `hi` - 1 by the fixed tree, `f` its step. -/
def Sys2Proof.Claims.sliceTree (f : Nat → Nat → Nat) (part : Nat → Nat) : Nat → Nat → Nat → Nat
  | 0, lo, _ => part lo
  | k + 1, lo, hi =>
    if hi - lo ≤ 1 then part lo
    else
      let h := 2 ^ (hi - lo - 1).log2
      f (sliceTree f part k lo (lo + h)) (sliceTree f part k (lo + h) hi)

/-- R145, R258, R299 to R302, COLLECTIVE_COMPLETE in a gang of any size, every member at the same collective with agreeing cards and its
source as it was at its trigger: a reduce leaves at the root's DST, an all-reduce at every DST, each element merged by the fixed
tree over the L partials, of which participant p supplies slices p·k to p·k + k - 1; an all-gather leaves every block in
participant order, a broadcast the root's block; elsewhere, and at a DST that receives nothing, the scratchpad holds what lay under
the collective; every COLL is over, and every ticket holds the count of the bytes written. -/
def Sys2Proof.Claims.CollectiveResults : Prop :=
  ∀ (s : State) (gid : Nat) (g : Gang) (coll : Nat → CollSub) (w0 w1 : W64) (ticket : Nat → W64), s.gang? gid = some g →
    let ms := s.members g
    let n := ms.length
    n = 2 ^ g.log2n → ms.Nodup →
    (∀ m ∈ ms, (s.tile m).colls = [coll m] ∧ (coll m).ticket = some (ticket m) ∧ (s.tile m).collReady (coll m) = true ∧
      vget 0 (coll m).card 0 = w0 ∧ vget 0 (coll m).card 1 = w1 ∧
      (∀ m' ∈ ms, (coll m).devs = (coll m').devs ∧ (coll m).seqNo = (coll m').seqNo)) →
    let kind := bitsN w0 60 4
    let w := (Tag.ofCode (BitVec.ofNat 6 (bitsN w0 51 6))).width.getD 8 / 8
    let count := bitsN w0 0 32
    let block := count * w
    let slices := bitsN w1 52 12 + 1
    let k := if kind < 2 then slices / n else 1
    let root := bitsN w1 0 17
    let at_ := fun m => (coll m).restore [] (s.tile m).spm
    let now := fun m => (if collDst (coll m).card = collSrc (coll m).card then at_ m else (s.tile m).spm).read
      (collSrc (coll m).card) (k * block)
    w0.getLsbD 50 = false → kind < 4 → 0 < block → (kind < 2 → slices % n = 0) → root < n →
    (∀ m ∈ ms, (s.tile m).spm.wf = true ∧ (coll m).early = now m ∧
      (s.tile m).spmBad (collSrc (coll m).card) (k * block) = false) →
    let part := fun e sl => ofBytes (((now (ms.getD (sl / k) 0)).drop (sl % k * block + w * e)).take w)
    ∃ u : State, exec (.collectiveComplete gid) s = .next u ∧ u.hbm = s.hbm ∧ ∀ r m, ms[r]? = some m →
      let dst := collDst (coll m).card
      let len := if kind = 2 then n * block else if kind = 0 ∧ r ≠ root then 0 else block
      (u.tile m).colls = [] ∧
      (∀ a, (a < dst ∨ dst + len ≤ a) → (u.tile m).spm.get a = (at_ m).get a) ∧
      (kind < 2 → 0 < len → ∀ e, e < count → (u.tile m).spm.value (dst + w * e) w =
        sliceTree (merged (bitsN w0 57 3) (Tag.ofCode (BitVec.ofNat 6 (bitsN w0 51 6)))) (part e) 13 0 slices) ∧
      (kind = 2 → (u.tile m).spm.read dst len = ms.flatMap now) ∧
      (kind = 3 → (u.tile m).spm.read dst len = now (ms.getD root 0)) ∧
      let e := (s.slice (tkSlice (ticket m))).ticket (tkEntry (ticket m))
      ((ms.map fun m => (tkSlice (ticket m), tkEntry (ticket m))).Nodup → ticket m ≠ 0 → e.gen = tkGen (ticket m) →
        e.state ≠ .free → ((u.slice (tkSlice (ticket m))).ticket (tkEntry (ticket m))).data =
          BitVec.ofNat 1024 (len % 2 ^ 48))

/-- R296, CB_SLOT_FILLED, and R302, R404, COLLECTIVE_COMPLETE of an all-gather in a gang of one: the next slot of the ring is
FILLED once its job has ended; the member's block stands at its destination, each element as its source held it at the
trigger or as it holds it now, and its COLL is over. -/
def Sys2Proof.Claims.BufferAndCollectiveEvents : Prop :=
  (∀ (s : State) (k n : Nat), n < 4 → (s.tile k).waits = [] → (s.tile k).takes = [] →
    let b := (s.tile k).cbuf n
    b.fillAt ∈ b.ended → ∃ u : State, exec (.cbSlotFilled k n) s = .next u ∧
      (u.tile k).cbuf n = { b with
        ended := b.ended.erase b.fillAt, inflight := b.inflight - 1, filled := b.filled + 1
        fillAt := (b.fillAt + 1) % cbSlots b.desc }) ∧
  ∀ (s : State) (gid m : Nat) (g : Gang) (x : CollSub) (rest : List CollSub), s.gang? gid = some g → g.log2n = 0 →
    s.members g = [m] → (s.tile m).colls = x :: rest → x.ticket.isSome = true → (s.tile m).collReady x = true →
    collPeer x.card = false → collKind x.card = 2 → (s.tile m).spm.wf = true →
    (s.tile m).spmBad (collSrc x.card) (collBlock x.card) = false → 0 < collBlock x.card →
    x.early.length = collBlock x.card →
    let w := (collFmt x.card).width.getD 8 / 8
    let under := if collDst x.card = collSrc x.card then x.restore [] (s.tile m).spm else (s.tile m).spm
    let now := under.read (collSrc x.card) (collBlock x.card)
    ∃ (u : State) (own : List Byte), exec (.collectiveComplete gid) s = .next u ∧ own.length = collBlock x.card ∧
      (u.tile m).spm.read (collDst x.card) (collBlock x.card) = own ∧ (∀ y ∈ (u.tile m).colls, y.id ≠ x.id) ∧
      (∀ e, e < collN x.card →
        (own.drop (w * e)).take w = (now.drop (w * e)).take w ∨ (own.drop (w * e)).take w = (x.early.drop (w * e)).take w) ∧
      (x.early = now → own = now)

/-- Copy jobs, circular buffers and collectives. A reduction in two events, a plain attempt in one, and the whole end waiting on a
full inbox are the model's readings (log 20); the early value of an element of SRC, and a DST that is the SRC, are its choices
(log 79). -/
def Obligations.CopiesAndCollectives : Prop :=
  CopyJobEvents ∧ NestedCopies ∧ BufferAndCollectiveEvents ∧ CollectiveResults

/-- R495, R496, WAIT_COMPLETE and WAIT_TIMEOUT: the WAIT ends with its result word, bit 63 of which says that its bound
ran out first; where its conditions hold it ends without that bit in any cycle that comes, before its bound counts down. -/
def Sys2Proof.Claims.WaitEvents : Prop :=
  ∀ (s : State) (k : Nat) (w : WaitOp), (s.tile k).waits = [w] →
    (∃ p ∈ (s.tile k).queue 1, p.id = w.id ∧ p.ready = false) →
    let answered := fun (u : State) (x : Nat) => (u.tile k).waits = [] ∧
      (u.tile k).queue 1 = ((s.tile k).queue 1).map fun p =>
        if p.id = w.id ∧ p.ready = false then
          { p with ready := true, val := ⟨(BitVec.ofNat 64 x).setWidth 2048, .raw, 0⟩, fl := 0 }
        else p
    (s.waitHolds (s.tile k) w = true → w.bound ≠ some 0 → ∃ u : State, exec (.waitComplete k) s = .next u ∧
      answered u (s.waitBits (s.tile k) w)) ∧
    (s.waitHolds (s.tile k) w = true → w.bound ≠ some 0 → ∃ u : State, exec (.spillEngineCycle k) s = .next u ∧
      (u.tile k).waits = [] ∧ ∃ p ∈ (u.tile k).queue 1, p.id = w.id ∧ p.ready = true ∧
        p.val.lo = BitVec.ofNat 64 (s.waitBits (s.tile k) w)) ∧
    (w.bound = some 0 → ∃ u : State, exec (.waitTimeout k) s = .next u ∧
      answered u (s.waitBits (s.tile k) w + 2 ^ 63))

/-- Synchronising operations, barriers and WAITs. The held doubles of a PHASE.G and who has seen them are the model's reading (log 72),
and so is the end of a WAIT in any coming cycle before its bound (log 32, beside R496). -/
def Obligations.SyncAndWaitEvents : Prop :=
  SyncEvents ∧ WaitEvents

/-! ### Events: power, memory and boundaries -/

/-- R366, R367, R369, R496, WEIR_ALARM, WEIR_STRETCH_END, WEIR_HALVE_END, POWER_INTERVAL and TILE_CLOCK_CHANGE: an alarm counts and
starts 70 cycles on every tile of the row, unless it comes within a stretched cycle of a running tile of it or THRESH is 0; within
the halved cycles a disabled one may have gone by before it, with the intervals counted down; six cycles later
64 halved ones follow, and these end in none, a last disabled cycle gone by; the controller grants 700 MHz and up to four
boosts of 35, takes no boost away unseen, and a new withholding leaves a notice; a clock change scales what is left of the
row's intervals. That a response is counted on each tile is the model's reading (log 45). -/
def Sys2Proof.Claims.PowerEvents : Prop :=
  ∀ (s : State) (n : Nat), let r := s.row n
    let others := fun u : State => ∀ k, rowOfTile k ≠ n → u.tile k = s.tile k
    (∀ k, rowOfTile k = n → (s.tile k).waits = [] → (s.passDisabled n).tile k =
      if (s.tile k).weir < 64 ∧ (s.tile k).weir % 2 = 1 then
        { s.tile k with weir := (s.tile k).weir - 1, slns := (s.tile k).slns - 1, slnsH := (s.tile k).slnsH - 1 }
      else s.tile k) ∧
    (n < 1024 → r.weir = .idle ∨ s.weirLeft n 63 = true → r.thresh ≠ 0 → ∃ u v : State, exec (.weirAlarm n) s = .next u ∧
      (v = s ∨ r.weir ≠ .idle ∧ v = s.passDisabled n) ∧
      u.row n = { r with weir := .stretch, alarms := BitVec.ofNat 16 (min 0xFFFF (r.alarms.toNat + 1)) } ∧
      (∀ k, k < 16384 → rowOfTile k = n → u.tile k = { v.tile k with weir := 70 }) ∧ others u) ∧
    ((r.weir ≠ .idle ∧ s.weirLeft n 63 = false) ∨ r.thresh = 0 → exec (.weirAlarm n) s = .next s) ∧
    (r.weir = .stretch → s.weirLeft n 64 = true → ∃ u : State, exec (.weirStretchEnd n) s = .next u ∧
      u.row n = { r with weir := .halve } ∧
      (∀ k, rowOfTile k = n → u.tile k = { s.tile k with weir := min (s.tile k).weir 64 }) ∧ others u) ∧
    (r.weir = .halve → s.weirLeft n 1 = true → ∃ u : State, exec (.weirHalveEnd n) s = .next u ∧
      u.row n = { r with weir := .idle } ∧
      (∀ k, rowOfTile k = n → (u.tile k).weir = 0 ∧
        (u.tile k).slns = (s.tile k).slns - (if (s.tile k).weir < 64 ∧ (s.tile k).weir % 2 = 1 then 1 else 0)) ∧ others u) ∧
    (∃ u : State, exec (.powerInterval n) s = .next u ∧ u.tiles = s.tiles ∧ u.hbm = s.hbm ∧
      ((u.row n).grant = r.grant ∨ ∃ k, k < 5 ∧ (u.row n).grant = 700 + 35 * k) ∧
      ((u.row n).grant < r.grant → ∃ x ∈ (u.cluster (n / 16)).throt, x.ns = BitVec.ofNat 64 s.ns) ∧
      ((u.row n).withheld = true → r.withheld = false → ∃ x ∈ (u.cluster (n / 16)).throt,
        x.ns = BitVec.ofNat 64 s.ns ∧ x.what.getLsbD 8 = true ∧ bitsN x.what 0 4 = n % 16)) ∧
    (r.grant ≠ r.mhz → ∃ u : State, exec (.tileClockChange n r.grant) s = .next u ∧ u.row n = { r with mhz := r.grant } ∧
      (∀ k, rowOfTile k = n → (u.tile k).slns = ((s.tile k).slns * r.grant + r.mhz - 1) / r.mhz) ∧ others u)

/-- R371, R372, R14, MEMORY_SCRUB and SCORE_HALVING: a scrub counts, and leaves no correctable error in its row; each error it
corrects adds 16 to the row's score, up to what the field holds, or the row is remapped, and it stands in the hot list of its
slice's stack, which holds at most 1,024; halving halves every score, a row at 0 leaves the table, and one that is still at 64
or more is remapped. Which granules a row holds is free (log 75). -/
def Sys2Proof.Claims.MemoryReliabilityEvents : Prop :=
  ∀ (s : State) (n : Nat), let x := s.slice n
    (∃ u : State, exec (.memoryScrub n) s = .next u ∧ u.hbm = s.hbm ∧ u.tiles = s.tiles ∧
      (u.slice n).scrubbed = x.scrubbed + 1 ∧
      ((s.hotOf (stackOf n)).length ≤ 1024 → (u.hotOf (stackOf n)).length ≤ 1024) ∧
      ∃ row, (∀ g ∈ u.softHbm, g ∈ s.softHbm ∧ g ∉ s.softRow n row) ∧
        (((u.slice n).corr = x.corr ∧ (u.slice n).scores = x.scores ∧ s.softRow n row = []) ∨
          ∃ m : Nat, (u.slice n).corr = x.corr + BitVec.ofNat 64 m ∧ (n, row) ∈ u.hotOf (stackOf n) ∧
            ((0 < m ∧ m = (s.softRow n row).length) ∨ (m = 1 ∧ s.softRow n row = [])) ∧
            (m = 1 → (u.slice n).score row = min (x.score row + 16) 0xFFFF ∨ (u.slice n).score row = 0))) ∧
    (∀ r, x.scores = [r] → 128 ≤ r.score → x.spares ≠ 0 → ∃ u : State, exec (.scoreHalving n) s = .next u ∧
      u.slice n = { x with scores := [], remapped := x.remapped + 1, spares := x.spares - 1 } ∧
      ∀ g ∈ u.softHbm, g ∉ s.softRow n r.row) ∧
    ((∀ r ∈ x.scores, r.score < 128) → exec (.scoreHalving n) s = .next (s.setSlice n { x with
      scores := (x.scores.map fun r => { r with score := r.score / 2 }).filter fun r => decide (0 < r.score) }))

/-- Power, clocks and memory reliability. -/
def Obligations.PowerAndReliability : Prop :=
  PowerEvents ∧ MemoryReliabilityEvents

/-- R354 to R359, FLIT_CRC_FAIL, MODULE_RETRAIN, RETRAIN_COMPLETE, BOUNDARY_RETRAIN_CMD, SYASH_PORT_STATE_CHANGE and
SYASH_LINK_RETRY: a failed flit counts with its replays, and its third failure in a row retrains the module; a module that is
down carries no flit; a faulty lane retrains its module unless a redundant lane of its half is left; a retrained module has
the width that its good lanes allow, and its own stream again unless it is out of service; a command retrains the modules
of its mask; a port takes its new state, and counts its retries. -/
def Obligations.BoundaryEvents : Prop :=
  (∀ (s : State) (b m : Nat), m < 48 → let x := s.module b m
    (x.rt = false → x.width ≠ 3 → ∃ (later : W64) (n : Nat), (n = x.streak + 1 ∨ n = 1) ∧
      (n < 3 → exec (.flitCrcFail b m) s = .next ({ s with fresh := s.fresh + 2 }.setModule b m { x with
        crcerr := x.crcerr + 1, replay := x.replay + 1 + later, streak := n })) ∧
      (3 ≤ n → ∃ u : State, exec (.flitCrcFail b m) s = .next u ∧ (u.module b m).rt = true ∧
        (u.module b m).crcerr = x.crcerr + 1 ∧ (u.module b m).replay = x.replay + 1 + later ∧
        (u.module b m).retrain = x.retrain + 1 ∧ (u.module b m).streak = 0)) ∧
    (x.rt = true ∨ x.width = 3 → exec (.flitCrcFail b m) s = .next s) ∧
    (x.rt = false → ∃ (lane : Nat) (u : State), lane < 64 ∧ exec (.moduleRetrain b m) s = .next u ∧
      let bad := if x.bad.contains lane then x.bad else lane :: x.bad
      let half := (bad.filter fun l => decide (l / 32 % 2 = lane / 32)).length
      (u.module b m).bad = bad ∧
      (half ≤ 2 → (u.module b m).rt = false ∧ (u.module b m).width = x.width ∧ (u.module b m).retrain = x.retrain) ∧
      (2 < half → (u.module b m).rt = true ∧ (u.module b m).retrain = x.retrain + 1 ∧ (u.module b m).streak = 0)) ∧
    (x.rt = true → ∃ u : State, exec (.retrainComplete b m) s = .next u ∧ (u.module b m).rt = false ∧
      let left := (x.bad.filter fun l => decide (l / 32 % 2 = 0)).length
      let right := (x.bad.filter fun l => decide (l / 32 % 2 = 1)).length
      (u.module b m).width = (if left ≤ 2 then (if right ≤ 2 then 0 else 1) else if right ≤ 2 then 2 else 3) ∧
      ((u.module b m).width ≠ 3 → (u.module b m).stream = BitVec.ofNat 8 m)) ∧
    ∀ mask, s.up = true → mask.testBit m = true → ∃ u : State, exec (.boundaryRetrainCmd b mask) s = .next u ∧
      (u.module b m).rt = true) ∧
  ∀ (s : State) (p n : Nat), p < 24 → let x := vget .reset s.dev.ports p
    (n < 3 ∨ (n = 3 ∧ p = 0) → exec (.syashPortStateChange p n) s =
      .next { s with dev := { s.dev with ports := vput s.dev.ports p { x with state := n } } }) ∧
    exec (.syashLinkRetry p) s = .next { s with dev := { s.dev with
      ports := vput s.dev.ports p { x with crcerr := x.crcerr + 1, retry := x.retry + 1 } } }

/-! ### Events: the service cores -/

/-- R195, R198, R199, R209, R237, R353, MAP_WRITE: a service core writes grants, a tile's controls, a slice's key, a
cluster's TLB command, the page-table root, the handle table; and HBM, its page tables among the rest, at a physical address
that stands in the place of a virtual one, which is the model's form (log 49). -/
def Sys2Proof.Claims.MapWrites : Prop :=
  ∀ (s : State) (addr value : Nat), s.up = true → let w := BitVec.ofNat 64 value
    let at_ := spaceOf (BitVec.ofNat 64 (addr / 8 * 8))
    (∀ tid j, j < 4 → at_ = .chip (.tile tid (0xB0000 + 8 * j)) → ∃ x : W64,
      exec (.mapWrite addr value) s = .next (s.setTile tid { s.tile tid with grants := vput (s.tile tid).grants j x }) ∧
      bitsN x 40 24 = bitsN w 40 24 ∧ bitsN x 9 31 = 0 ∧
      bitsN x 0 9 = (if bitsN w 0 9 = 511 then 511 else min 256 (bitsN w 0 9))) ∧
    (∀ pa, at_ = .virt pa → addressable pa 8 = true → ∃ u : State, exec (.mapWrite addr value) s = .next u ∧
      u.hbm = s.hbm.write pa (bytesOf 8 w) ∧ u.tiles = s.tiles ∧ u.slices = s.slices ∧ u.dev = s.dev ∧
      u.saves = s.saves ∧ u.gangs = s.gangs) ∧
    (∀ tid, at_ = .chip (.tile tid 0xB1800) → (w = 1 → exec (.mapWrite addr value) s = exec (.ctlPark tid) s) ∧
      (w = 2 → exec (.mapWrite addr value) s = exec (.ctlRelease tid) s) ∧
      (w = 4 → exec (.mapWrite addr value) s = exec (.ctlStop tid) s)) ∧
    (∀ k, at_ = .chip (.slice k 0x48040) → exec (.mapWrite addr value) s =
      .next (s.setSlice k { s.slice k with tkkey := w })) ∧
    (∀ c, at_ = .chip (.cluster c 0) → (s.cluster c).tlbBusy = false → 1 ≤ bitsN w 60 4 → bitsN w 60 4 ≤ 4 →
      exec (.mapWrite addr value) s = .next (s.setCluster c { s.cluster c with
        tlbop := w &&& 0xF00001FFFFFFFFFF, tlbBusy := true, tlbPend := true })) ∧
    (at_ = .chip (.device 8) → exec (.mapWrite addr value) s =
      .next { s with dev := { s.dev with ptroot := w &&& 0x000000FFFFFFF000 } }) ∧
    ∀ h, h < 65536 → at_ = .chip (.device (0x100000 + 16 * h)) →
      ∃ u : State, exec (.mapWrite addr value) s = .next u ∧ u.tiles = s.tiles ∧ u.hbm = s.hbm ∧
        (look h u.dev.handles).getD (0, 0) = (w &&& 0xFFFFFFFFFFFF0000, ((look h s.dev.handles).getD (0, 0)).2) ∧
        ∀ g, g ≠ h → look g u.dev.handles = look g s.dev.handles

/-- R379, R380, R374, IMAGE_LOAD and IMAGE_UNLOAD: an image that does not pass its form or its signature is refused; one
that passes every check takes the lowest free entry, with the next generation, and is measured, its code and hashes in two
regions that do not meet; an unloaded image's entry is free, and no tile holds a page of it. -/
def Sys2Proof.Claims.ImageEvents : Prop :=
  (∀ (s s2 : State) (addr : Nat) (x : ImageBytes), s.up = true →
    State.readImage { s with dev := { s.dev with loaded := none } } (BitVec.ofNat 64 addr) = (some x, s2) →
    ((x.formOk && x.signed) = false → exec (.imageLoad addr) s = .next s2) ∧
    (x.formOk = true → x.signed = true → x.fits = true → ∀ (i : Nat) (t : State), i < 1024 → (s2.image i).v = false →
      (∀ j, j < i → (s2.image j).v = true) →
      let codeh := bitsN (Config.freeWord s2.fresh) 0 16
      let hashh := bitsN (Config.freeWord s2.fresh) 16 16
      let m := { s2 with
        fresh := s2.fresh + 1
        dev := { s2.dev with sec := { s2.dev.sec with measures := s2.dev.sec.measures ++ [x.digest] } } }
      m.apart codeh x.code.length hashh x.hashes.length = true →
      ((m.serviceWrite codeh x.code).bind fun s => s.serviceWrite hashh x.hashes) = some t →
      ∃ u : State, exec (.imageLoad addr) s = .next u ∧ (u.image i).v = true ∧ (u.image i).rev = false ∧
        (u.image i).gen = (s2.image i).gen + 1 ∧ (u.image i).npages = field x.front 8 4 ∧
        (u.image i).entries = x.entryRecs.map entryOf ∧
        u.dev.loaded = some (1024 * ((s2.image i).gen + 1).toNat + i) ∧
        u.dev.sec.measures = s2.dev.sec.measures ++ [x.digest] ∧ u.hbm = t.hbm)) ∧
  ∀ (s : State) (h : Nat), s.up = true → (s.named h).isSome = true → s.imageBusy h = false →
    ∃ u : State, exec (.imageUnload h) s = .next u ∧ (u.image (h % 1024)).v = false ∧
      ∀ k j g p, j < 16 → (vget .empty (u.tile k).frames j).tag = some (g, p) → g % 1024 ≠ h % 1024

/-- Writes of service cores, and images. -/
def Obligations.MapAndImages : Prop :=
  MapWrites ∧ ImageEvents

/-- The events that a request may name (16 R362): the driver's. -/
def Sys2Proof.Claims.driverEvent : Instr → Bool
  | .mapWrite _ _ | .queueDescriptorWrite _ _ _ | .imageLoad _ | .imageUnload _ | .recordCancel _ _ | .gangStop _
  | .gangResume _ | .ctlPark _ | .ctlRelease _ | .ctlStop _ | .supack _ _ | .boundaryRetrainCmd _ _ => true
  | _ => false

/-- R362, R363, R373, R374, R6, MAILBOX_DOORBELL, JOB_COMPLETION_NOTICE, BOOT, ATTESTATION_REQUEST and MODULE_RESET: the
doorbell empties the ring and performs its requests in order, each as its own event at the state that the one before it
left; a completion joins its ring, and the core raises its vector; boot passes its
steps, measuring each, or stops at the one that fails, which the mailboxes' status words then show (as that step's number:
log 81); before the boot has ended, and after a failed check, no request is performed and no completion joins its ring; an attestation holds the device, a nonce, the counter and the measurements, signed; a reset
with no resident gang keeps HBM and every tile's memories, and nothing of the registers; what is owed to queues and to the host
stays known (log 48). -/
def Obligations.ServiceEvents : Prop :=
  ∀ (s : State),
    (∀ core, s.up = true → ∃ us : Nat → State,
      us 0 = s.onMail core (fun m => { m with requests := [] }) ∧
      (∀ k x, (vget .reset s.dev.mail core).requests[k]? = some x →
        if driverEvent x.ev then exec x.ev (us k) = .next (us (k + 1)) else us (k + 1) = us k) ∧
      exec (.mailboxDoorbell core) s = .next (us (vget .reset s.dev.mail core).requests.length)) ∧
    (∀ core a v q f x, s.up = true → core < 4 → (vget .reset s.dev.mail core).requests = [⟨.mapWrite a v⟩, ⟨.queueDescriptorWrite q f x⟩] →
      ∃ t u w : State, t = s.onMail core (fun m => { m with requests := [] }) ∧ exec (.mapWrite a v) t = .next u ∧
        exec (.queueDescriptorWrite q f x) u = .next w ∧ exec (.mailboxDoorbell core) s = .next w ∧
        (vget .reset t.dev.mail core).requests = []) ∧
    (∀ core, s.up = false → exec (.mailboxDoorbell core) s = .next s ∧ exec (.jobCompletionNotice core) s = .next s) ∧
    (∀ core block st code rest, s.up = true → core < 4 → (vget .reset s.dev.mail core).notices = .jobDone block st code :: rest →
      exec (.jobCompletionNotice core) s = .next (s.onMail core fun m => { m with
        notices := rest
        done := m.done ++ [(block, BitVec.ofNat 64 (st.toNat + code.toNat * 2 ^ 8 + (s.ns % 2 ^ 48) * 2 ^ 16))]
        raised := m.raised + 1 })) ∧
    (s.dev.sec.booted = 0 → s.dev.sec.failed = none → ∃ u : State, exec .boot s = .next u ∧ u.hbm = s.hbm ∧
      u.tiles = s.tiles ∧
      ((u.dev.sec.booted = 3 ∧ u.dev.sec.failed = none ∧
          u.dev.sec.measures.length = s.dev.sec.measures.length + 2) ∨
        (u.dev.sec.booted < 3 ∧ u.dev.sec.failed = some (u.dev.sec.booted + 1) ∧ u.slices = s.slices ∧
          ∀ core, core < 4 → (vget .reset u.dev.mail core).status = BitVec.ofNat 64 (u.dev.sec.booted + 1)))) ∧
    (∀ addr, 2 ≤ s.dev.sec.booted → s.dev.sec.failed = none → ∃ (u : State) (nonce : List Byte), nonce.length = 32 ∧
      exec (.attestationRequest addr) s = .next u ∧
      let body := bytesOf 8 (s.dev.devid.setWidth 64) ++ nonce ++ bytesOf 8 s.dev.sec.fuse ++
        s.dev.sec.measures.flatMap (bytesOf 64)
      u.dev.sec.reports = s.dev.sec.reports ++ [(addr, body ++ Config.attest (sha3_512 body))]) ∧
    (s.gangs = [] → ∃ u : State, exec .moduleReset s = .next u ∧ u.hbm = s.hbm ∧ u.slices = [] ∧ u.rows = [] ∧
      u.modules = [] ∧ u.ns = 0 ∧ u.dev.ptroot = 0 ∧ u.dev.images = [] ∧ u.dev.queues = [] ∧
      u.dev.sec.fuse = s.dev.sec.fuse ∧
      (∀ c, (u.cluster c).handover = [] ∧ (u.cluster c).owed = (s.cluster c).owed ++ (s.cluster c).handover ∧
        (u.cluster c).redo = (s.cluster c).redo ∧
        (u.cluster c).unretired = (s.cluster c).unretired) ∧
      (∀ core block st code, .jobDone block st code ∈ (vget .reset s.dev.mail core).notices →
        .jobDone block st code ∈ (vget .reset u.dev.mail core).notices) ∧
      ∀ k, u.tile k = { Tile.reset with
        spm := (s.tile k).spm, badSpm := (s.tile k).badSpm, frames := (s.tile k).frames, nb := (s.tile k).nb
        nextId := (s.tile k).nextId })

/-! ### Encoding -/

/-- R77, R81 to R92: the bundle that holds just a well-formed move word decodes to that move word, every field at every
value the encoding admits, and to nothing else: no other move, no rotation, the literal words it needs. -/
def Obligations.DecodeOfEncode : Prop :=
  ∀ (i : Instr) (h : Head), i.head? = some h → i.wf = true →
    decodeBundle (encode i) = .ok ⟨2 + h.src.literals.length, false, h.src.literals.length, [i]⟩

/-- R81 to R90, R96: a word that decodes on a bus is the word of what it decodes to, which is well-formed and rides that
bus: no two words decode to one move word, and no ill-formed word decodes. -/
def Obligations.EncodeOfDecode : Prop :=
  ∀ (lits : List (BitVec 31)) (b : Bus) (w : W32) (i : Instr), lits.length ≤ 7 → w.getLsbD 31 = false →
    decodeMove lits b w = .ok i → i.word = some w ∧ i.wf = true ∧ ∃ h, i.head? = some h ∧ h.bus = b

/-- R81, R83, R84, R86 to R88, R90, R95: words written out field by field. -/
def Obligations.DecodeWords : Prop :=
  -- #5 -> ia0.add.e0; g7 -> ia1.cmp.ltu.e1 under p6
  decodeTableWord 32 (0#1 ++ 0#5 ++ (2#3 ++ 5#9) ++ (3#2 ++ 1#5 ++ 0#1 ++ 0x00#6) : W32).toNat =
    some (.add ⟨.s0, 0, .imm 5⟩ false false) ∧
  decodeTableWord 32 (0#1 ++ 6#5 ++ (0#3 ++ 0#3 ++ 7#6) ++ (3#2 ++ 2#5 ++ 1#1 ++ 0x14#6) : W32).toNat =
    some (.cmpLtu ⟨.s0, 6, .g 7⟩ true true) ∧
  -- im.res -> g4; v3 -> v5 under the lane guard q2; q1 -> p9; rrc -> lc2; lw -> le; im.res -> au.o1.e1
  decodeTableWord 32 (0#1 ++ 0#5 ++ (1#3 ++ 3#5 ++ 0#4) ++ (0#2 ++ 0#3 ++ 0#3 ++ 4#6) : W32).toNat =
    some (.move ⟨.s0, 0, .res .im false⟩ (.g 4)) ∧
  decodeTableWord 32 (0#1 ++ 0xA#5 ++ (4#3 ++ 0#4 ++ 3#5) ++ (0#2 ++ 1#3 ++ 0#4 ++ 5#5) : W32).toNat =
    some (.move ⟨.v0, 0xA, .v 3⟩ (.v 5)) ∧
  decodeTableWord 32 (0#1 ++ 0#5 ++ (5#3 ++ 0#4 ++ 1#1 ++ 0#1 ++ 1#3) ++ (0#2 ++ 2#3 ++ 0#5 ++ 9#4) : W32).toNat =
    some (.move ⟨.s0, 0, .q 1⟩ (.p 9)) ∧
  decodeTableWord 32 (0#1 ++ 0#5 ++ (7#3 ++ 0x001#9) ++ (0#2 ++ 4#3 ++ 0x012#9) : W32).toNat =
    some (.move ⟨.s0, 0, .spec .rrc⟩ (.spec (.lc 2))) ∧
  decodeTableWord 32 (0#1 ++ 0#5 ++ (6#3 ++ 0x000#9) ++ (0#2 ++ 5#3 ++ 0x001#9) : W32).toNat =
    some (.move ⟨.s0, 0, .port (.link .w)⟩ (.link .e)) ∧
  decodeTableWord 32 (0#1 ++ 0#5 ++ (1#3 ++ 3#5 ++ 0#4) ++ (2#2 ++ 4#5 ++ 1#2 ++ 1#1 ++ 0#4) : W32).toNat =
    some (.move ⟨.s0, 0, .res .im false⟩ (.opnd .au 1 true)) ∧
  -- a reserved source class field, a reserved socket, an opcode without an operation
  decodeTableWord 32 (0#1 ++ 0#5 ++ (0#3 ++ 1#3 ++ 0#6) ++ (0#2 ++ 0#3 ++ 0#3 ++ 4#6) : W32).toNat = none ∧
  decodeTableWord 32 (0#1 ++ 0#5 ++ (2#3 ++ 5#9) ++ (3#2 ++ 15#5 ++ 0#1 ++ 0x00#6) : W32).toNat = none ∧
  decodeTableWord 32 (0#1 ++ 0#5 ++ (2#3 ++ 5#9) ++ (3#2 ++ 1#5 ++ 0#1 ++ 0x0E#6) : W32).toNat = none

/-! ### The step -/

/-- R74 to R76, R150: where no event comes first and nothing is taken at the boundary of the current tile's bundle, and
the code words at its pc, up to the end of their packet, decode to a bundle of just one move word, the step is that
instruction's; where they decode to any other bundle, the step issues that bundle; an agenda entry that is an event is
performed in its time. -/
def Obligations.StepRunsDecoded : Prop :=
  ∀ (s : State), let t := s.tile s.cur
    (∀ a rest, s.agenda = a :: rest → a.ev.head? = none → step s = exec a.ev (s.advance a rest)) ∧
    (s.agenda = [] → t.run = .running → t.boundary (s.env s.cur) = none → 0 ≤ t.pc →
      t.pc.toNat < (s.env s.cur).codeLen → t.pc.toNat % 4 = 0 →
      (∃ w, t.codeWord t.pc.toNat = some w ∧ w.getLsbD 31 = true) → ∀ b,
      decodeBundle (t.packetFrom t.pc.toNat) = .ok b →
      (∀ i h, b.moves = [i] → b.rot = false → i.head? = some h → b.nlit = h.src.literals.length → step s = exec i s) ∧
      (b.moves.length ≠ 1 ∨ b.rot = true → step s = .next (s.runBundle s.cur)))

/-- What reset leaves, as 02 R27, R36, R51, 05 R111, 07 R153, 15 R334 and the register tables give it: no gang on any tile,
p0 and the odd predicates true, LD 32, no fixed-latency lock, no handler, no active loop, empty results, eight link
credits. That HBM and the scratchpads read as zero is the model's choice (log 1, log 2), and so are the zeros of what the
tables give no value. -/
def Obligations.ResetState : Prop :=
  (∀ k, let t := State.reset.tile k
    t.run = .idle ∧ (∀ n, n < 16 → t.p.getLsbD n = decide (n = 0 ∨ (n ≠ 1 ∧ n % 2 = 1))) ∧
      (∀ n, n < 8 → vget 0 t.q n = if n % 2 = 1 then BitVec.allOnes 64 else 0) ∧
      t.rrb = 0 ∧ t.ld = 32 ∧ t.flm = 0 ∧ t.fpc = 0 ∧ t.tvec = 0 ∧ t.tcause = 0 ∧ t.tstat = 0 ∧ t.inh = false ∧
      (∀ n, n < 4 → lcActive t.lc n = false) ∧ (∀ n, n < 7 → t.queue n = []) ∧
      (∀ n, n < 9 → (t.fixedAt n).port.unread = false ∧ (t.fixedAt n).pipe = []) ∧
      (∀ d, d < 4 → (t.link d).credit = 8 ∧ (t.link d).queue = []) ∧ t.tlb = [] ∧ t.log = [] ∧ t.reqs = [] ∧
      ∀ a, t.spm.get a = 0) ∧
  (∀ a, State.reset.hbm.get a = 0) ∧ State.reset.gangs = [] ∧ State.reset.dev.tkttl = 1000 ∧
  (∀ c, (State.reset.cluster c).dspctl = 1) ∧ (∀ h, State.reset.named h = none) ∧
  (∀ q, (State.reset.queueDesc q).en = false) ∧ ∀ k j, ((State.reset.slice k).ticket j).state = .free

/-- The invariants hold at reset. -/
def Obligations.ResetMeetsInvariants : Prop :=
  State.reset.memOk ∧ State.reset.tilesOk

/-- Every step, an instruction's or an event's, keeps HBM in its canonical form: one entry for each byte that is not zero,
in rising order. -/
def Obligations.StepKeepsMemory : Prop :=
  ∀ (s t : State), s.memOk → step s = .next t → t.memOk

/-- R36, R101, R111, R153, R155, R349, R377: every move word, and every bundle, keeps p0 true and p1 false, the reserved bits
of FLM zero, LD at most 32, and every active loop level standing on an active one, on every tile; so does every event, a
launch, a resumption, a write through the map and a reset among them, where the saved members and the images' entries are
well-formed too, which every event keeps; and so does every step. -/
def Obligations.MovesKeepTile : Prop :=
  (∀ (s t : State) (i : Instr) (h : Head), i.head? = some h → (∀ k, (s.tile k).ok = true) → exec i s = .next t →
    ∀ k, (t.tile k).ok = true) ∧
  (∀ (s t : State) (n : Nat), (∀ k, (s.tile k).ok = true) → exec (.bundleIssue n) s = .next t →
    ∀ k, (t.tile k).ok = true) ∧
  (∀ (s t : State) (i : Instr), s.tilesOk → exec i s = .next t → t.tilesOk) ∧
  ∀ (s t : State), s.tilesOk → step s = .next t → t.tilesOk

/-- R191: no two physical addresses share a place: slice and offset in the slice give the address back. -/
def Obligations.SliceMapInjective : Prop :=
  ∀ (a b : Nat), a < 2 ^ 40 → b < 2 ^ 40 → sliceOf a = sliceOf b → sliceOff a = sliceOff b → a = b
end

