-- ==== Sys2Proof/Laws/Rows.lean ====
section
/-! SUPPORT. Rows: the elements of a packed row, and what a row computed element by element holds. -/
namespace Sys2Proof.Machine

theorem packN_lt (w : Nat) (xs : List Nat) : packN w xs < 2 ^ (w * xs.length) := by
  induction xs with
  | nil => simp [packN]
  | cons x xs ih =>
    have h1 : x % 2 ^ w < 2 ^ w := Nat.mod_lt _ (Nat.two_pow_pos w)
    have h2 : packN w xs * 2 ^ w + 2 ^ w ≤ 2 ^ (w * xs.length) * 2 ^ w := by
      rw [← Nat.succ_mul]; exact Nat.mul_le_mul_right _ ih
    simp only [packN, Nat.shiftLeft_eq, List.length_cons, Nat.mul_succ, Nat.pow_add]
    omega

theorem packN_elem (w : Nat) (xs : List Nat) (i : Nat) :
    (packN w xs >>> (w * i)) % 2 ^ w = (xs[i]?.getD 0) % 2 ^ w := by
  induction xs generalizing i with
  | nil => simp [packN]
  | cons x xs ih =>
    have h1 : x % 2 ^ w < 2 ^ w := Nat.mod_lt _ (Nat.two_pow_pos w)
    cases i with
    | zero =>
      simp only [packN, Nat.shiftLeft_eq, Nat.mul_zero, Nat.shiftRight_zero, List.getElem?_cons_zero, Option.getD_some]
      rw [Nat.add_mul_mod_self_right, Nat.mod_mod]
    | succ i =>
      have h2 : (x % 2 ^ w + packN w xs <<< w) >>> (w * (i + 1)) = packN w xs >>> (w * i) := by
        rw [Nat.mul_succ, Nat.add_comm (w * i) w, Nat.shiftRight_add]
        congr 1
        rw [Nat.shiftRight_eq_div_pow, Nat.shiftLeft_eq, Nat.add_mul_div_right _ _ (Nat.two_pow_pos w),
          Nat.div_eq_of_lt h1, Nat.zero_add]
      simp only [packN, h2, List.getElem?_cons_succ]
      exact ih i

/-- An element of a packed row. -/
theorem elem_packRow (w : Nat) (xs : List Nat) (i : Nat) (h : w * xs.length ≤ 1024) :
    elem (packRow w xs) w i = (xs[i]?.getD 0) % 2 ^ w := by
  have hp := packN_lt w xs
  have hlt := Nat.lt_of_lt_of_le hp (Nat.pow_le_pow_right (by decide) h)
  simp only [elem, packRow, BitVec.toNat_ofNat, Nat.mod_eq_of_lt hlt]
  exact packN_elem w xs i

/-- A row of n elements of w bits, n = 1024 / w, each packed. -/
theorem elem_packRow_map (w : Nat) (f : Nat → Nat) (i : Nat) (hi : i < 1024 / w) :
    elem (packRow w ((List.range (1024 / w)).map f)) w i = f i % 2 ^ w := by
  rw [elem_packRow]
  · simp [hi]
  · simpa using Nat.mul_div_le 1024 w

/-- A bit of the flags that a row's elements raise. -/
theorem foldl_flags (l : List (Nat × Flags)) (a : Flags) (n : Nat) :
    (l.foldl (fun a r => a ||| r.2) a).getLsbD n = (a.getLsbD n || l.any fun r => r.2.getLsbD n) := by
  induction l generalizing a with
  | nil => simp
  | cons x l ih => simp [ih, Bool.or_assoc]

/-- What a row computed element by element holds. -/
theorem mapRow_spec (sel : BitVec 128) (w : Nat) (tag : Tag) (f : Nat → Nat × Flags) :
    ∃ row, (mapRow sel w tag f).1 = .ofRow row tag ∧
      (∀ i, i < 1024 / w → elem row w i = if elemPicked sel w i then (f i).1 % 2 ^ w else 0) ∧
      ∀ n, (mapRow sel w tag f).2.getLsbD n =
        (List.range (1024 / w)).any fun i => elemPicked sel w i && (f i).2.getLsbD n := by
  refine ⟨_, rfl, ?_, ?_⟩
  · intro i hi
    rw [List.map_map, elem_packRow_map _ _ _ hi]
    simp only [Function.comp]
    split <;> simp
  · intro n
    simp only [mapRow]
    have h0 : (0 : Flags).getLsbD n = false := by simp
    rw [foldl_flags, h0, Bool.false_or, List.any_map]
    congr 1
    funext i
    simp only [Function.comp]
    split <;> simp_all

end Sys2Proof.Machine
end

