-- ==== Sys2Proof/Laws/State.lean ====
section
/-! SUPPORT. Lists keyed by numbers, vectors, and one lemma for each part of the module that an update of another part
leaves, so that no proof unfolds a record update. -/
namespace Sys2Proof.Machine

/-! ### Lists keyed by numbers -/

@[simp] theorem look_put_same {α : Type} (k : Nat) (a : α) (l : List (Nat × α)) : look k (put k a l) = some a := by
  induction l with
  | nil => simp [put, look]
  | cons x l ih => grind [put, look]

theorem look_put_other {α : Type} {j k : Nat} (a : α) (l : List (Nat × α)) (h : j ≠ k) :
    look j (put k a l) = look j l := by
  induction l with
  | nil => grind [put, look]
  | cons x l ih => grind [put, look]

/-! ### Vectors -/

@[simp] theorem vget_vput_same {α : Type} {n : Nat} (d : α) (v : Vector α n) (i : Nat) (a : α) (h : i < n) :
    vget d (vput v i a) i = a := by
  simp [vget, vput, h]

theorem vget_vput_other {α : Type} {n : Nat} (d : α) (v : Vector α n) {i j : Nat} (a : α) (h : j ≠ i) :
    vget d (vput v i a) j = vget d v j := by
  simp [vget, vput, Ne.symm h]

/-! ### Tiles and the other parts -/

@[simp] theorem tile_setTile (s : State) (k : Nat) (x : Tile) : (s.setTile k x).tile k = x := by
  simp [State.tile, State.setTile]

theorem tile_setTile_other (s : State) {j k : Nat} (x : Tile) (h : j ≠ k) : (s.setTile k x).tile j = s.tile j := by
  simp [State.tile, State.setTile, look_put_other x s.tiles h]

@[simp] theorem tile_onTile (s : State) (k : Nat) (f : Tile → Tile) : (s.onTile k f).tile k = f (s.tile k) := by
  simp [State.onTile]

theorem tile_onTile_other (s : State) {j k : Nat} (f : Tile → Tile) (h : j ≠ k) :
    (s.onTile k f).tile j = s.tile j := by
  simp [State.onTile, tile_setTile_other s _ h]

@[simp] theorem slice_setSlice (s : State) (k : Nat) (x : Slice) : (s.setSlice k x).slice k = x := by
  simp [State.slice, State.setSlice]

theorem slice_setSlice_other (s : State) {j k : Nat} (x : Slice) (h : j ≠ k) :
    (s.setSlice k x).slice j = s.slice j := by
  simp [State.slice, State.setSlice, look_put_other x s.slices h]

@[simp] theorem slice_onSlice (s : State) (k : Nat) (f : Slice → Slice) : (s.onSlice k f).slice k = f (s.slice k) := by
  simp [State.onSlice]

@[simp] theorem cluster_setCluster (s : State) (k : Nat) (x : Cluster) : (s.setCluster k x).cluster k = x := by
  simp [State.cluster, State.setCluster]

theorem cluster_setCluster_other (s : State) {j k : Nat} (x : Cluster) (h : j ≠ k) :
    (s.setCluster k x).cluster j = s.cluster j := by
  simp [State.cluster, State.setCluster, look_put_other x s.clusters h]

@[simp] theorem row_setRow (s : State) (k : Nat) (x : VRow) : (s.setRow k x).row k = x := by
  simp [State.row, State.setRow]

theorem row_setRow_other (s : State) {j k : Nat} (x : VRow) (h : j ≠ k) : (s.setRow k x).row j = s.row j := by
  simp [State.row, State.setRow, look_put_other x s.rows h]

@[simp] theorem image_setImage (s : State) (k : Nat) (x : Image) : (s.setImage k x).image k = x := by
  simp [State.image, State.setImage]

theorem image_setImage_other (s : State) {j k : Nat} (x : Image) (h : j ≠ k) :
    (s.setImage k x).image j = s.image j := by
  simp [State.image, State.setImage, look_put_other x s.dev.images h]

end Sys2Proof.Machine
end

