-- ==== Sys2Proof/Laws/Fields.lean ====
section
/-! SUPPORT. One lemma for each field of State and each part that each update of State leaves, true by rfl. -/
namespace Sys2Proof.Machine

/-! ### setTile -/

@[simp] theorem slices_setTile (s : State) (k : Nat) (x : Tile) : (s.setTile k x).slices = s.slices := rfl
@[simp] theorem clusters_setTile (s : State) (k : Nat) (x : Tile) : (s.setTile k x).clusters = s.clusters := rfl
@[simp] theorem gangs_setTile (s : State) (k : Nat) (x : Tile) : (s.setTile k x).gangs = s.gangs := rfl
@[simp] theorem saves_setTile (s : State) (k : Nat) (x : Tile) : (s.setTile k x).saves = s.saves := rfl
@[simp] theorem quar_setTile (s : State) (k : Nat) (x : Tile) : (s.setTile k x).quar = s.quar := rfl
@[simp] theorem hbm_setTile (s : State) (k : Nat) (x : Tile) : (s.setTile k x).hbm = s.hbm := rfl
@[simp] theorem badHbm_setTile (s : State) (k : Nat) (x : Tile) : (s.setTile k x).badHbm = s.badHbm := rfl
@[simp] theorem modules_setTile (s : State) (k : Nat) (x : Tile) : (s.setTile k x).modules = s.modules := rfl
@[simp] theorem rows_setTile (s : State) (k : Nat) (x : Tile) : (s.setTile k x).rows = s.rows := rfl
@[simp] theorem dev_setTile (s : State) (k : Nat) (x : Tile) : (s.setTile k x).dev = s.dev := rfl
@[simp] theorem ns_setTile (s : State) (k : Nat) (x : Tile) : (s.setTile k x).ns = s.ns := rfl
@[simp] theorem cur_setTile (s : State) (k : Nat) (x : Tile) : (s.setTile k x).cur = s.cur := rfl
@[simp] theorem agenda_setTile (s : State) (k : Nat) (x : Tile) : (s.setTile k x).agenda = s.agenda := rfl
@[simp] theorem fresh_setTile (s : State) (k : Nat) (x : Tile) : (s.setTile k x).fresh = s.fresh := rfl
@[simp] theorem slice_setTile (s : State) (k j : Nat) (x : Tile) : (s.setTile k x).slice j = s.slice j := rfl
@[simp] theorem cluster_setTile (s : State) (k j : Nat) (x : Tile) : (s.setTile k x).cluster j = s.cluster j := rfl
@[simp] theorem row_setTile (s : State) (k j : Nat) (x : Tile) : (s.setTile k x).row j = s.row j := rfl
@[simp] theorem image_setTile (s : State) (k j : Nat) (x : Tile) : (s.setTile k x).image j = s.image j := rfl

/-! ### onTile -/

@[simp] theorem slices_onTile (s : State) (k : Nat) (x : Tile → Tile) : (s.onTile k x).slices = s.slices := rfl
@[simp] theorem clusters_onTile (s : State) (k : Nat) (x : Tile → Tile) : (s.onTile k x).clusters = s.clusters := rfl
@[simp] theorem gangs_onTile (s : State) (k : Nat) (x : Tile → Tile) : (s.onTile k x).gangs = s.gangs := rfl
@[simp] theorem saves_onTile (s : State) (k : Nat) (x : Tile → Tile) : (s.onTile k x).saves = s.saves := rfl
@[simp] theorem quar_onTile (s : State) (k : Nat) (x : Tile → Tile) : (s.onTile k x).quar = s.quar := rfl
@[simp] theorem hbm_onTile (s : State) (k : Nat) (x : Tile → Tile) : (s.onTile k x).hbm = s.hbm := rfl
@[simp] theorem badHbm_onTile (s : State) (k : Nat) (x : Tile → Tile) : (s.onTile k x).badHbm = s.badHbm := rfl
@[simp] theorem modules_onTile (s : State) (k : Nat) (x : Tile → Tile) : (s.onTile k x).modules = s.modules := rfl
@[simp] theorem rows_onTile (s : State) (k : Nat) (x : Tile → Tile) : (s.onTile k x).rows = s.rows := rfl
@[simp] theorem dev_onTile (s : State) (k : Nat) (x : Tile → Tile) : (s.onTile k x).dev = s.dev := rfl
@[simp] theorem ns_onTile (s : State) (k : Nat) (x : Tile → Tile) : (s.onTile k x).ns = s.ns := rfl
@[simp] theorem cur_onTile (s : State) (k : Nat) (x : Tile → Tile) : (s.onTile k x).cur = s.cur := rfl
@[simp] theorem agenda_onTile (s : State) (k : Nat) (x : Tile → Tile) : (s.onTile k x).agenda = s.agenda := rfl
@[simp] theorem fresh_onTile (s : State) (k : Nat) (x : Tile → Tile) : (s.onTile k x).fresh = s.fresh := rfl
@[simp] theorem slice_onTile (s : State) (k j : Nat) (x : Tile → Tile) : (s.onTile k x).slice j = s.slice j := rfl
@[simp] theorem cluster_onTile (s : State) (k j : Nat) (x : Tile → Tile) : (s.onTile k x).cluster j = s.cluster j := rfl
@[simp] theorem row_onTile (s : State) (k j : Nat) (x : Tile → Tile) : (s.onTile k x).row j = s.row j := rfl
@[simp] theorem image_onTile (s : State) (k j : Nat) (x : Tile → Tile) : (s.onTile k x).image j = s.image j := rfl

/-! ### setSlice -/

@[simp] theorem tiles_setSlice (s : State) (k : Nat) (x : Slice) : (s.setSlice k x).tiles = s.tiles := rfl
@[simp] theorem clusters_setSlice (s : State) (k : Nat) (x : Slice) : (s.setSlice k x).clusters = s.clusters := rfl
@[simp] theorem gangs_setSlice (s : State) (k : Nat) (x : Slice) : (s.setSlice k x).gangs = s.gangs := rfl
@[simp] theorem saves_setSlice (s : State) (k : Nat) (x : Slice) : (s.setSlice k x).saves = s.saves := rfl
@[simp] theorem quar_setSlice (s : State) (k : Nat) (x : Slice) : (s.setSlice k x).quar = s.quar := rfl
@[simp] theorem hbm_setSlice (s : State) (k : Nat) (x : Slice) : (s.setSlice k x).hbm = s.hbm := rfl
@[simp] theorem badHbm_setSlice (s : State) (k : Nat) (x : Slice) : (s.setSlice k x).badHbm = s.badHbm := rfl
@[simp] theorem modules_setSlice (s : State) (k : Nat) (x : Slice) : (s.setSlice k x).modules = s.modules := rfl
@[simp] theorem rows_setSlice (s : State) (k : Nat) (x : Slice) : (s.setSlice k x).rows = s.rows := rfl
@[simp] theorem dev_setSlice (s : State) (k : Nat) (x : Slice) : (s.setSlice k x).dev = s.dev := rfl
@[simp] theorem ns_setSlice (s : State) (k : Nat) (x : Slice) : (s.setSlice k x).ns = s.ns := rfl
@[simp] theorem cur_setSlice (s : State) (k : Nat) (x : Slice) : (s.setSlice k x).cur = s.cur := rfl
@[simp] theorem agenda_setSlice (s : State) (k : Nat) (x : Slice) : (s.setSlice k x).agenda = s.agenda := rfl
@[simp] theorem fresh_setSlice (s : State) (k : Nat) (x : Slice) : (s.setSlice k x).fresh = s.fresh := rfl
@[simp] theorem tile_setSlice (s : State) (k j : Nat) (x : Slice) : (s.setSlice k x).tile j = s.tile j := rfl
@[simp] theorem cluster_setSlice (s : State) (k j : Nat) (x : Slice) : (s.setSlice k x).cluster j = s.cluster j := rfl
@[simp] theorem row_setSlice (s : State) (k j : Nat) (x : Slice) : (s.setSlice k x).row j = s.row j := rfl
@[simp] theorem image_setSlice (s : State) (k j : Nat) (x : Slice) : (s.setSlice k x).image j = s.image j := rfl

/-! ### onSlice -/

@[simp] theorem tiles_onSlice (s : State) (k : Nat) (x : Slice → Slice) : (s.onSlice k x).tiles = s.tiles := rfl
@[simp] theorem clusters_onSlice (s : State) (k : Nat) (x : Slice → Slice) : (s.onSlice k x).clusters = s.clusters := rfl
@[simp] theorem gangs_onSlice (s : State) (k : Nat) (x : Slice → Slice) : (s.onSlice k x).gangs = s.gangs := rfl
@[simp] theorem saves_onSlice (s : State) (k : Nat) (x : Slice → Slice) : (s.onSlice k x).saves = s.saves := rfl
@[simp] theorem quar_onSlice (s : State) (k : Nat) (x : Slice → Slice) : (s.onSlice k x).quar = s.quar := rfl
@[simp] theorem hbm_onSlice (s : State) (k : Nat) (x : Slice → Slice) : (s.onSlice k x).hbm = s.hbm := rfl
@[simp] theorem badHbm_onSlice (s : State) (k : Nat) (x : Slice → Slice) : (s.onSlice k x).badHbm = s.badHbm := rfl
@[simp] theorem modules_onSlice (s : State) (k : Nat) (x : Slice → Slice) : (s.onSlice k x).modules = s.modules := rfl
@[simp] theorem rows_onSlice (s : State) (k : Nat) (x : Slice → Slice) : (s.onSlice k x).rows = s.rows := rfl
@[simp] theorem dev_onSlice (s : State) (k : Nat) (x : Slice → Slice) : (s.onSlice k x).dev = s.dev := rfl
@[simp] theorem ns_onSlice (s : State) (k : Nat) (x : Slice → Slice) : (s.onSlice k x).ns = s.ns := rfl
@[simp] theorem cur_onSlice (s : State) (k : Nat) (x : Slice → Slice) : (s.onSlice k x).cur = s.cur := rfl
@[simp] theorem agenda_onSlice (s : State) (k : Nat) (x : Slice → Slice) : (s.onSlice k x).agenda = s.agenda := rfl
@[simp] theorem fresh_onSlice (s : State) (k : Nat) (x : Slice → Slice) : (s.onSlice k x).fresh = s.fresh := rfl
@[simp] theorem tile_onSlice (s : State) (k j : Nat) (x : Slice → Slice) : (s.onSlice k x).tile j = s.tile j := rfl
@[simp] theorem cluster_onSlice (s : State) (k j : Nat) (x : Slice → Slice) : (s.onSlice k x).cluster j = s.cluster j := rfl
@[simp] theorem row_onSlice (s : State) (k j : Nat) (x : Slice → Slice) : (s.onSlice k x).row j = s.row j := rfl
@[simp] theorem image_onSlice (s : State) (k j : Nat) (x : Slice → Slice) : (s.onSlice k x).image j = s.image j := rfl

/-! ### setCluster -/

@[simp] theorem tiles_setCluster (s : State) (k : Nat) (x : Cluster) : (s.setCluster k x).tiles = s.tiles := rfl
@[simp] theorem slices_setCluster (s : State) (k : Nat) (x : Cluster) : (s.setCluster k x).slices = s.slices := rfl
@[simp] theorem gangs_setCluster (s : State) (k : Nat) (x : Cluster) : (s.setCluster k x).gangs = s.gangs := rfl
@[simp] theorem saves_setCluster (s : State) (k : Nat) (x : Cluster) : (s.setCluster k x).saves = s.saves := rfl
@[simp] theorem quar_setCluster (s : State) (k : Nat) (x : Cluster) : (s.setCluster k x).quar = s.quar := rfl
@[simp] theorem hbm_setCluster (s : State) (k : Nat) (x : Cluster) : (s.setCluster k x).hbm = s.hbm := rfl
@[simp] theorem badHbm_setCluster (s : State) (k : Nat) (x : Cluster) : (s.setCluster k x).badHbm = s.badHbm := rfl
@[simp] theorem modules_setCluster (s : State) (k : Nat) (x : Cluster) : (s.setCluster k x).modules = s.modules := rfl
@[simp] theorem rows_setCluster (s : State) (k : Nat) (x : Cluster) : (s.setCluster k x).rows = s.rows := rfl
@[simp] theorem dev_setCluster (s : State) (k : Nat) (x : Cluster) : (s.setCluster k x).dev = s.dev := rfl
@[simp] theorem ns_setCluster (s : State) (k : Nat) (x : Cluster) : (s.setCluster k x).ns = s.ns := rfl
@[simp] theorem cur_setCluster (s : State) (k : Nat) (x : Cluster) : (s.setCluster k x).cur = s.cur := rfl
@[simp] theorem agenda_setCluster (s : State) (k : Nat) (x : Cluster) : (s.setCluster k x).agenda = s.agenda := rfl
@[simp] theorem fresh_setCluster (s : State) (k : Nat) (x : Cluster) : (s.setCluster k x).fresh = s.fresh := rfl
@[simp] theorem tile_setCluster (s : State) (k j : Nat) (x : Cluster) : (s.setCluster k x).tile j = s.tile j := rfl
@[simp] theorem slice_setCluster (s : State) (k j : Nat) (x : Cluster) : (s.setCluster k x).slice j = s.slice j := rfl
@[simp] theorem row_setCluster (s : State) (k j : Nat) (x : Cluster) : (s.setCluster k x).row j = s.row j := rfl
@[simp] theorem image_setCluster (s : State) (k j : Nat) (x : Cluster) : (s.setCluster k x).image j = s.image j := rfl

/-! ### setRow -/

@[simp] theorem tiles_setRow (s : State) (k : Nat) (x : VRow) : (s.setRow k x).tiles = s.tiles := rfl
@[simp] theorem slices_setRow (s : State) (k : Nat) (x : VRow) : (s.setRow k x).slices = s.slices := rfl
@[simp] theorem clusters_setRow (s : State) (k : Nat) (x : VRow) : (s.setRow k x).clusters = s.clusters := rfl
@[simp] theorem gangs_setRow (s : State) (k : Nat) (x : VRow) : (s.setRow k x).gangs = s.gangs := rfl
@[simp] theorem saves_setRow (s : State) (k : Nat) (x : VRow) : (s.setRow k x).saves = s.saves := rfl
@[simp] theorem quar_setRow (s : State) (k : Nat) (x : VRow) : (s.setRow k x).quar = s.quar := rfl
@[simp] theorem hbm_setRow (s : State) (k : Nat) (x : VRow) : (s.setRow k x).hbm = s.hbm := rfl
@[simp] theorem badHbm_setRow (s : State) (k : Nat) (x : VRow) : (s.setRow k x).badHbm = s.badHbm := rfl
@[simp] theorem modules_setRow (s : State) (k : Nat) (x : VRow) : (s.setRow k x).modules = s.modules := rfl
@[simp] theorem dev_setRow (s : State) (k : Nat) (x : VRow) : (s.setRow k x).dev = s.dev := rfl
@[simp] theorem ns_setRow (s : State) (k : Nat) (x : VRow) : (s.setRow k x).ns = s.ns := rfl
@[simp] theorem cur_setRow (s : State) (k : Nat) (x : VRow) : (s.setRow k x).cur = s.cur := rfl
@[simp] theorem agenda_setRow (s : State) (k : Nat) (x : VRow) : (s.setRow k x).agenda = s.agenda := rfl
@[simp] theorem fresh_setRow (s : State) (k : Nat) (x : VRow) : (s.setRow k x).fresh = s.fresh := rfl
@[simp] theorem tile_setRow (s : State) (k j : Nat) (x : VRow) : (s.setRow k x).tile j = s.tile j := rfl
@[simp] theorem slice_setRow (s : State) (k j : Nat) (x : VRow) : (s.setRow k x).slice j = s.slice j := rfl
@[simp] theorem cluster_setRow (s : State) (k j : Nat) (x : VRow) : (s.setRow k x).cluster j = s.cluster j := rfl
@[simp] theorem image_setRow (s : State) (k j : Nat) (x : VRow) : (s.setRow k x).image j = s.image j := rfl

/-! ### setImage -/

@[simp] theorem tiles_setImage (s : State) (k : Nat) (x : Image) : (s.setImage k x).tiles = s.tiles := rfl
@[simp] theorem slices_setImage (s : State) (k : Nat) (x : Image) : (s.setImage k x).slices = s.slices := rfl
@[simp] theorem clusters_setImage (s : State) (k : Nat) (x : Image) : (s.setImage k x).clusters = s.clusters := rfl
@[simp] theorem gangs_setImage (s : State) (k : Nat) (x : Image) : (s.setImage k x).gangs = s.gangs := rfl
@[simp] theorem saves_setImage (s : State) (k : Nat) (x : Image) : (s.setImage k x).saves = s.saves := rfl
@[simp] theorem quar_setImage (s : State) (k : Nat) (x : Image) : (s.setImage k x).quar = s.quar := rfl
@[simp] theorem hbm_setImage (s : State) (k : Nat) (x : Image) : (s.setImage k x).hbm = s.hbm := rfl
@[simp] theorem badHbm_setImage (s : State) (k : Nat) (x : Image) : (s.setImage k x).badHbm = s.badHbm := rfl
@[simp] theorem modules_setImage (s : State) (k : Nat) (x : Image) : (s.setImage k x).modules = s.modules := rfl
@[simp] theorem rows_setImage (s : State) (k : Nat) (x : Image) : (s.setImage k x).rows = s.rows := rfl
@[simp] theorem ns_setImage (s : State) (k : Nat) (x : Image) : (s.setImage k x).ns = s.ns := rfl
@[simp] theorem cur_setImage (s : State) (k : Nat) (x : Image) : (s.setImage k x).cur = s.cur := rfl
@[simp] theorem agenda_setImage (s : State) (k : Nat) (x : Image) : (s.setImage k x).agenda = s.agenda := rfl
@[simp] theorem fresh_setImage (s : State) (k : Nat) (x : Image) : (s.setImage k x).fresh = s.fresh := rfl
@[simp] theorem tile_setImage (s : State) (k j : Nat) (x : Image) : (s.setImage k x).tile j = s.tile j := rfl
@[simp] theorem slice_setImage (s : State) (k j : Nat) (x : Image) : (s.setImage k x).slice j = s.slice j := rfl
@[simp] theorem cluster_setImage (s : State) (k j : Nat) (x : Image) : (s.setImage k x).cluster j = s.cluster j := rfl
@[simp] theorem row_setImage (s : State) (k j : Nat) (x : Image) : (s.setImage k x).row j = s.row j := rfl

/-! ### onGang -/

@[simp] theorem tiles_onGang (s : State) (k : Nat) (x : Gang → Gang) : (s.onGang k x).tiles = s.tiles := rfl
@[simp] theorem slices_onGang (s : State) (k : Nat) (x : Gang → Gang) : (s.onGang k x).slices = s.slices := rfl
@[simp] theorem clusters_onGang (s : State) (k : Nat) (x : Gang → Gang) : (s.onGang k x).clusters = s.clusters := rfl
@[simp] theorem saves_onGang (s : State) (k : Nat) (x : Gang → Gang) : (s.onGang k x).saves = s.saves := rfl
@[simp] theorem quar_onGang (s : State) (k : Nat) (x : Gang → Gang) : (s.onGang k x).quar = s.quar := rfl
@[simp] theorem hbm_onGang (s : State) (k : Nat) (x : Gang → Gang) : (s.onGang k x).hbm = s.hbm := rfl
@[simp] theorem badHbm_onGang (s : State) (k : Nat) (x : Gang → Gang) : (s.onGang k x).badHbm = s.badHbm := rfl
@[simp] theorem modules_onGang (s : State) (k : Nat) (x : Gang → Gang) : (s.onGang k x).modules = s.modules := rfl
@[simp] theorem rows_onGang (s : State) (k : Nat) (x : Gang → Gang) : (s.onGang k x).rows = s.rows := rfl
@[simp] theorem dev_onGang (s : State) (k : Nat) (x : Gang → Gang) : (s.onGang k x).dev = s.dev := rfl
@[simp] theorem ns_onGang (s : State) (k : Nat) (x : Gang → Gang) : (s.onGang k x).ns = s.ns := rfl
@[simp] theorem cur_onGang (s : State) (k : Nat) (x : Gang → Gang) : (s.onGang k x).cur = s.cur := rfl
@[simp] theorem agenda_onGang (s : State) (k : Nat) (x : Gang → Gang) : (s.onGang k x).agenda = s.agenda := rfl
@[simp] theorem fresh_onGang (s : State) (k : Nat) (x : Gang → Gang) : (s.onGang k x).fresh = s.fresh := rfl
@[simp] theorem tile_onGang (s : State) (k j : Nat) (x : Gang → Gang) : (s.onGang k x).tile j = s.tile j := rfl
@[simp] theorem slice_onGang (s : State) (k j : Nat) (x : Gang → Gang) : (s.onGang k x).slice j = s.slice j := rfl
@[simp] theorem cluster_onGang (s : State) (k j : Nat) (x : Gang → Gang) : (s.onGang k x).cluster j = s.cluster j := rfl
@[simp] theorem row_onGang (s : State) (k j : Nat) (x : Gang → Gang) : (s.onGang k x).row j = s.row j := rfl
@[simp] theorem image_onGang (s : State) (k j : Nat) (x : Gang → Gang) : (s.onGang k x).image j = s.image j := rfl

end Sys2Proof.Machine
end

