-- ==== Sys2Proof/Laws/Issue.lean ====
section
/-! SUPPORT. What a bundle of one move comes to: once, for every move word. -/
namespace Sys2Proof.Machine

/-! ### Reports leave the tiles -/

@[simp] theorem tile_reported (s : State) (k j : Nat) (r : Report) : (s.reported k r).tile j = s.tile j := rfl
@[simp] theorem hbm_reported (s : State) (k : Nat) (r : Report) : (s.reported k r).hbm = s.hbm := rfl

@[simp] theorem tile_putTile (s : State) (k : Nat) (t : Tile) : (s.putTile k t).tile k = t := by
  simp only [State.putTile]; split <;> simp

theorem tile_putTile_other (s : State) {j k : Nat} (t : Tile) (h : j ≠ k) : (s.putTile k t).tile j = s.tile j := by
  simp only [State.putTile]; split <;> simp [tile_setTile_other _ _ h]

@[simp] theorem hbm_putTile (s : State) (k : Nat) (t : Tile) : (s.putTile k t).hbm = s.hbm := by
  simp only [State.putTile]; split <;> rfl

/-! ### The firing order of one trigger -/

theorem firing_trig (m : Mv) (sp : TrigSpec) (h : m.act = .trig sp) : firing [m] = [(m, sp)] := by
  have : m.spec? = some sp := by simp [Mv.spec?, h]
  cases hk : sp.sock <;> simp [firing, this, hk, Sock.num]

theorem firing_plain (m : Mv) (d : Dst) (h : m.act = .plain d) : firing [m] = [] := by
  have : m.spec? = none := by simp [Mv.spec?, h]
  simp [firing, this]

/-! ### The bundle -/

/-- The move of a bundle whose guard lets it through. -/
def State.mv (s : State) (h : Head) (a : Act) : Mv := ⟨h, a, s.source h, s.gateOf h⟩

/-- A bundle that performs no END reads the tile as MX's start leaves it. -/
theorem found_eq (s : State) (h : Head) {a : Act} (ha : a.ends = false) : s.found h a = s.landed := by
  simp [State.found, Tile.begin, Tile.ending, ha, State.landed]

theorem moves_eq (s : State) (h : Head) {a : Act} (ha : a.ends = false) (hg : s.gateOf h ≠ .off) :
    s.moves h a = [s.mv h a] := by
  have : s.landed.evalMove s.view (h, a) = some (s.mv h a) := by
    simp only [Tile.evalMove, State.mv, State.gateOf, State.source] at *
  simp [State.moves, found_eq s h ha, this]

theorem entriesAfter_trig (u : Tile) (m : Mv) (sp : TrigSpec) (h : m.act = .trig sp) : entriesAfter u [m] = u.opnd := by
  simp [entriesAfter, h]

/-- A bundle that issues leaves the tile as `leave` says. -/
theorem issue_of_issues (s : State) (h : Head) (a : Act) (hi : s.issues h a = true) :
    s.opening.solo s.view h a =
      Tile.leave s.view (s.found h a) ((s.found h a).effects (s.ctxOf h a) false s.header (s.moves h a)) s.header
        (2 + h.src.literals.length) (flowOf (s.ctxOf h a) (s.moves h a)) := by
  simp only [State.issues, Bool.and_eq_true, decide_eq_true_eq, Bool.not_eq_true', Option.isNone_iff_eq_none] at hi
  obtain ⟨⟨⟨⟨⟨⟨⟨⟨-, hb⟩, hs⟩, hg⟩, -⟩, hl⟩, ht⟩, hp⟩, hc⟩ := hi
  simp only [State.ctxOf, State.moves, State.found, State.ending, State.header] at hl ht hp hc ⊢
  unfold Tile.solo
  rw [hb]
  simp only
  unfold Tile.issue
  simp only [hs, Bool.false_eq_true, if_false]
  simp only [hl, ht, BitVec.or_self, ne_eq, not_true, if_false, hp, hc]

/-- What a move word's meaning answers when its bundle issues. -/
theorem runMove_of_issues (s : State) (h : Head) (a : Act) (hi : s.issues h a = true) (w : Tile)
    (hw : Tile.leave s.view (s.found h a) ((s.found h a).effects (s.ctxOf h a) false s.header (s.moves h a)) s.header
        (2 + h.src.literals.length) (flowOf (s.ctxOf h a) (s.moves h a)) = .next w) :
    s.runMove h a = s.settled w := by
  have hr : (s.tile s.cur).run = .running := by
    simp only [State.issues, Bool.and_eq_true, decide_eq_true_eq] at hi
    exact hi.1.1.1.1.1.1.1.1
  have hx := issue_of_issues s h a hi
  rw [hw] at hx
  unfold State.runMove State.cycle
  simp only [hr, if_true]
  simp only [State.opening, State.view, State.ready] at hx
  simp only [Tile.clock, hx, State.settled, State.opening, State.view, State.ready]

end Sys2Proof.Machine
end

