-- ==== Sys2Proof/Laws/Trigger.lean ====
section
/-! SUPPORT. What a bundle of one trigger, and of one plain move, leaves: the tile after its effects, and the parts of it
that each stage leaves. -/
namespace Sys2Proof.Machine

/-! ### One move -/

theorem popAll_mv (s : State) (h : Head) (a : Act) : popAll s.landed [s.mv h a] = s.read h := by
  by_cases hp : Src.pops h.src = true <;> simp [State.read, popAll, State.mv, hp, List.eraseDups_cons]

theorem gateOf_of_issues {s : State} {h : Head} {a : Act} (hi : s.issues h a = true) : s.gateOf h ≠ .off := by
  simp only [State.issues, Bool.and_eq_true, decide_eq_true_eq] at hi
  exact hi.1.1.1.1.1.2

theorem ctxOf_trig {s : State} {h : Head} {sp : TrigSpec} (he : (Act.trig sp).ends = false) (hg : s.gateOf h ≠ .off)
    (a : Act) (ha : a = .trig sp) : s.ctxOf h a (s.mv h a) sp = s.sampled h sp := by
  subst ha
  rw [State.ctxOf, moves_eq s h he hg, found_eq s h he, entriesAfter_trig _ _ sp rfl]
  rfl

/-- A trigger of another socket than CU is no END. -/
theorem ends_of_sock {sp : TrigSpec} (hk : sp.sock ≠ .cu) : (Act.trig sp).ends = false := by
  simp [Act.ends, hk]

/-- The tile after the effects of a bundle of one trigger. -/
def State.performed (s : State) (h : Head) (sp : TrigSpec) : Tile :=
  let c := s.sampled h sp
  let v := sp.fire c (s.read h)
  let w := (extendMx { v with nextId := v.nextId + 1 } [s.mv h (.trig sp)]).gZeroDead
  let x := { sp.late c { w with nextId := s.landed.nextId } with nextId := w.nextId }
  let y := x.touchFrame s.header
  { y with nb := y.nb + 1, pre := none }

theorem effects_trig {s : State} {h : Head} {sp : TrigSpec} (he : (Act.trig sp).ends = false) (hg : s.gateOf h ≠ .off) :
    s.landed.effects (s.ctxOf h (.trig sp)) false s.header (s.moves h (.trig sp)) = s.performed h sp := by
  have hc := ctxOf_trig (sp := sp) he hg (.trig sp) rfl
  rw [moves_eq s h he hg]
  simp only [Tile.effects, firing_trig (s.mv h (.trig sp)) sp rfl, fireAll, lateAll, List.foldl_cons, List.foldl_nil,
    List.zipIdx_cons, List.zipIdx_nil, hc, popAll_mv, writeAll, State.performed, Nat.add_zero, Nat.zero_add,
    Bool.false_eq_true, if_false]
  rfl

theorem flowOf_trig {s : State} {h : Head} {sp : TrigSpec} (he : (Act.trig sp).ends = false) (hg : s.gateOf h ≠ .off) :
    flowOf (s.ctxOf h (.trig sp)) (s.moves h (.trig sp)) = if sp.sock = .cu then sp.flow (s.sampled h sp) else .seq := by
  have hc := ctxOf_trig (sp := sp) he hg (.trig sp) rfl
  rw [moves_eq s h he hg]
  simp only [flowOf, firing_trig (s.mv h (.trig sp)) sp rfl, List.find?_cons, List.find?_nil]
  by_cases hk : sp.sock = .cu
  · simp [hk, hc]
  · simp [hk, beq_eq_false_iff_ne.mpr hk]

/-- A bundle of one trigger that leaves the flow alone. -/
theorem runMove_trig {s : State} {h : Head} {sp : TrigSpec} (hi : s.issues h (.trig sp) = true) (hk : sp.sock ≠ .cu) :
    s.runMove h (.trig sp) =
      s.settled (Tile.flowOn s.landed (s.performed h sp) s.header (2 + h.src.literals.length)) := by
  have hg := gateOf_of_issues hi
  apply runMove_of_issues s h _ hi
  rw [found_eq s h (ends_of_sock hk), effects_trig (ends_of_sock hk) hg, flowOf_trig (ends_of_sock hk) hg, if_neg hk]
  rfl

/-- A bundle of one CU trigger. -/
theorem runMove_cu {s : State} {h : Head} {sp : TrigSpec} (hi : s.issues h (.trig sp) = true) (hk : sp.sock = .cu)
    (he : (Act.trig sp).ends = false)
    {w : Tile}
    (hw : Tile.leave s.view s.landed (s.performed h sp) s.header (2 + h.src.literals.length) (sp.flow (s.sampled h sp)) =
      .next w) :
    s.runMove h (.trig sp) = s.settled w := by
  have hg := gateOf_of_issues hi
  apply runMove_of_issues s h _ hi
  rw [found_eq s h he, effects_trig he hg, flowOf_trig he hg, if_pos hk, hw]

/-- The tile after the effects of a bundle of one plain move. -/
def State.moved (s : State) (h : Head) (d : Dst) : Tile :=
  let w := (extendMx (Tile.dstWrite s.landed (s.read h) h.bus.kind (s.gateOf h) (s.source h) d)
    [s.mv h (.plain d)]).gZeroDead
  let y := w.touchFrame s.header
  { y with nb := y.nb + 1, pre := none }

theorem effects_plain {s : State} {h : Head} {d : Dst} (hg : s.gateOf h ≠ .off) :
    s.landed.effects (s.ctxOf h (.plain d)) false s.header (s.moves h (.plain d)) = s.moved h d := by
  rw [moves_eq s h rfl hg]
  simp only [Tile.effects, firing_plain (s.mv h (.plain d)) d rfl, fireAll, lateAll, List.foldl_cons, List.foldl_nil,
    List.zipIdx_nil, popAll_mv, writeAll, State.moved, Bool.false_eq_true, if_false]
  rfl

theorem runMove_plain {s : State} {h : Head} {d : Dst} (hi : s.issues h (.plain d) = true) :
    s.runMove h (.plain d) =
      s.settled (Tile.flowOn s.landed (s.moved h d) s.header (2 + h.src.literals.length)) := by
  have hg := gateOf_of_issues hi
  apply runMove_of_issues s h _ hi
  rw [found_eq s h rfl, effects_plain hg, moves_eq s h rfl hg, flowOf, firing_plain _ d rfl]
  rfl

end Sys2Proof.Machine
end

