-- ==== Sys2Proof/Laws/Checks.lean ====
section
/-! SUPPORT. A bundle that issues has met its trigger's check; and what the format check of the vector sockets means. -/
namespace Sys2Proof.Machine

theorem firstTrap_none {a b : Option Trap} : firstTrap a b = none ↔ a = none ∧ b = none := by
  cases a <;> simp [firstTrap]

/-- The check of a trigger whose bundle issues found nothing. -/
theorem check_of_issues {s : State} {h : Head} {sp : TrigSpec} (he : (Act.trig sp).ends = false)
    (hi : s.issues h (.trig sp) = true) :
    sp.check (s.sampled h sp) = none := by
  have hg := gateOf_of_issues hi
  have hm := moves_eq s h he hg
  have hx := ctxOf_trig (sp := sp) he hg (.trig sp) rfl
  simp only [State.issues, Bool.and_eq_true, Option.isNone_iff_eq_none] at hi
  have hc := hi.2
  rw [hm] at hc
  simp only [firstCause, firstTrap_none] at hc
  have h1 := hc.2.2.1
  rw [List.findSome?_eq_none_iff] at h1
  have h2 := h1 (s.mv h (.trig sp)) (by simp)
  have h3 : (s.mv h (.trig sp)).act = .trig sp := rfl
  simp only [moveTrap, firstTrap_none, h3, hx] at h2
  exact h2.2.1

theorem firstTag_spec (l : List Tag) : (firstTag l = .raw ∧ ∀ t ∈ l, t = .raw) ∨ l.find? (· != .raw) = some (firstTag l) := by
  induction l with
  | nil => left; simp [firstTag]
  | cons t l ih =>
    simp only [firstTag]
    split
    · rename_i h; subst h
      rcases ih with ih | ih
      · left; simpa using ih
      · right; simpa using ih
    · rename_i h; right; simp [h]

/-- The format check passes: the first tag that is not NONE is accepted, and every data operand has it or NONE. -/
theorem formatCheck_none {k : Sock} {ok : Tag → Bool} {l : List Tag} (h : formatCheck k ok l = none) :
    ok (firstTag l) = true ∧ ∀ t ∈ l, t = .raw ∨ t = firstTag l := by
  unfold formatCheck at h
  dsimp only at h
  split at h
  · simp [formatTrap] at h
  · rename_i hok
    refine ⟨by simpa using hok, fun t ht => ?_⟩
    split at h
    · simp [formatTrap] at h
    · rename_i hn
      rw [List.find?_eq_none] at hn
      have := hn t ht
      grind

end Sys2Proof.Machine
end

