-- ==== Sys2Proof/Laws/Delivery.lean ====
section
/-! SUPPORT. What a trap's entry delivers, a slot that can be written, and the requests of a mailbox as events. -/
namespace Sys2Proof.Machine

/-- Delivery clears at most the deferred record and MX's error mark. -/
theorem delivered_frame (t : Tile) (x : Trap) : ∃ d b m, t.delivered x = { t with deferred := d, syncFault := b, mx := m } := by
  unfold Tile.delivered
  split
  · exact ⟨_, _, _, rfl⟩
  · split
    · exact ⟨_, _, _, rfl⟩
    · split <;> exact ⟨_, _, _, rfl⟩

/-- A result that only carries a code delivers nothing. -/
@[simp] theorem delivered_onResult (t : Tile) (x : Trap) (h : x.onResult = true) : t.delivered x = t := by
  simp [Tile.delivered, h]

/-- Taking a trap in a handler is the double trap. -/
theorem take_inh (env : Env) (t : Tile) (x : Trap) (h : t.inh = true) :
    t.take env x = .next (t.fatal env.tid 0x31 x.code t.pc (BitVec.ofNat 64 (t.pc % 2 ^ 30).toNat)) := by
  simp [Tile.take, Tile.trapAt, Tile.trapTo, h]

/-- A slot can be written where its ring's handle passes and no HASHH region holds it. -/
theorem slotBase_some (s : State) (q i b : Nat) :
    s.slotBase q i = some b ↔ s.ringBase q = some b ∧ s.hashed (b + 64 * i) 64 = false := by
  simp [State.slotBase, Option.filter_eq_some_iff]

/-- A request performed: the event it names, where that is the driver's, and else nothing. -/
theorem perform_cases (s : State) (x : Service) : exec x.ev s = .next (s.perform x) ∨ s.perform x = s := by
  obtain ⟨ev⟩ := x
  cases ev <;> first
    | exact Or.inr rfl
    | exact Or.inl rfl

/-- The doorbell performs the requests of its ring one after another. -/
theorem exec_doorbell (s : State) (core : Nat) (h : s.up = true) : exec (.mailboxDoorbell core) s =
    .next ((vget .reset s.dev.mail core).requests.foldl State.perform (s.onMail core fun m => { m with requests := [] })) := by
  simp [exec, execMailboxDoorbell, State.served, h]

end Sys2Proof.Machine
end

