-- ==== Sys2Proof/Laws/Frame.lean ====
section
/-! SUPPORT. What each stage of a bundle leaves alone: dead positions zeroed, the row port's hold on MX, the frame's mark,
the loop step. -/
namespace Sys2Proof.Machine

/-! ### Dead positions (05 R103) -/

theorem gZeroDead_eq (t : Tile) : ∃ g, t.gZeroDead = { t with g := g } := by
  unfold Tile.gZeroDead
  split
  · exact ⟨t.g, rfl⟩
  · exact ⟨_, rfl⟩

theorem ld_gZeroDead (t : Tile) : t.gZeroDead.ld = t.ld := by obtain ⟨g, h⟩ := gZeroDead_eq t; rw [h]; rfl
theorem rrb_gZeroDead (t : Tile) : t.gZeroDead.rrb = t.rrb := by obtain ⟨g, h⟩ := gZeroDead_eq t; rw [h]; rfl

theorem rrb_lt (t : Tile) : t.rrb < 32 := by
  unfold Tile.rrb bitsN
  exact Nat.mod_lt _ (by decide)

/-- The zeroing of the physical registers `32 + i` for `i` in `is`: a register is zero if it stands dead, else as it was. -/
theorem zeroFold_get (ld rrb : Nat) (is : List Nat) (g : Vector W64 64) (k : Nat) (hk : k < 64) :
    vget 0 (is.foldl (fun g i => if ld ≤ Tile.gPos rrb (32 + i) then vput g (32 + i) 0 else g) g) k =
      if (∃ i ∈ is, 32 + i = k ∧ ld ≤ Tile.gPos rrb k) then 0 else vget 0 g k := by
  induction is generalizing g with
  | nil => simp
  | cons i is ih =>
    rw [List.foldl_cons, ih]
    by_cases hi : ∃ j ∈ is, 32 + j = k ∧ ld ≤ Tile.gPos rrb k
    · have : ∃ j ∈ i :: is, 32 + j = k ∧ ld ≤ Tile.gPos rrb k := by
        obtain ⟨j, hj, h⟩ := hi; exact ⟨j, List.mem_cons_of_mem _ hj, h⟩
      rw [if_pos this, if_pos hi]
    · rw [if_neg hi]
      by_cases he : 32 + i = k
      · subst he
        by_cases hl : ld ≤ Tile.gPos rrb (32 + i)
        · simp [hl, hk]
        · simp [hl]
      · have h1 : ¬ ∃ j ∈ i :: is, 32 + j = k ∧ ld ≤ Tile.gPos rrb k := by
          rintro ⟨j, hj, h2, h3⟩
          rcases List.mem_cons.mp hj with rfl | hj
          · exact he h2
          · exact hi ⟨j, hj, h2, h3⟩
        rw [if_neg h1]
        split
        · exact vget_vput_other 0 g 0 (Ne.symm he)
        · rfl

theorem gZeroDead_get (t : Tile) (k : Nat) (hk : k < 64) :
    vget 0 t.gZeroDead.g k = if 32 ≤ k ∧ t.ld ≤ Tile.gPos t.rrb k then 0 else vget 0 t.g k := by
  unfold Tile.gZeroDead
  have hp : ∀ k, Tile.gPos t.rrb k < 32 := fun k => Nat.mod_lt _ (by decide)
  split
  · rename_i h
    have := hp k
    rw [if_neg (by omega)]
  · simp only
    rw [zeroFold_get _ _ _ _ _ hk]
    have : (∃ i ∈ List.range 32, 32 + i = k ∧ t.ld ≤ Tile.gPos t.rrb k) ↔ (32 ≤ k ∧ t.ld ≤ Tile.gPos t.rrb k) := by
      constructor
      · rintro ⟨i, hi, h1, h2⟩; exact ⟨by omega, h2⟩
      · rintro ⟨h1, h2⟩; exact ⟨k - 32, List.mem_range.mpr (by omega), by omega, h2⟩
    simp only [this]

theorem gPhys_lt (t : Tile) (n : BitVec 6) : t.gPhys n < 64 := by
  unfold Tile.gPhys
  have := n.isLt
  split <;> omega

theorem gPos_gPhys (t : Tile) (n : BitVec 6) (h : 32 ≤ n.toNat) : Tile.gPos t.rrb (t.gPhys n) = n.toNat - 32 := by
  unfold Tile.gPos Tile.gPhys
  have := rrb_lt t
  have := n.isLt
  rw [if_neg (by omega)]
  omega

/-- Reading by name sees nothing of the zeroing. -/
theorem gRead_gZeroDead (t : Tile) (n : BitVec 6) : t.gZeroDead.gRead n = t.gRead n := by
  have hd : t.gZeroDead.gDead n = t.gDead n := by simp only [Tile.gDead, ld_gZeroDead]
  have hp : t.gZeroDead.gPhys n = t.gPhys n := by simp only [Tile.gPhys, rrb_gZeroDead]
  unfold Tile.gRead
  rw [hd, hp]
  split
  · rfl
  · rename_i h
    simp only [not_or, Tile.gDead, Bool.and_eq_true, decide_eq_true_eq, not_and] at h
    rw [gZeroDead_get t _ (gPhys_lt t n), if_neg]
    rintro ⟨h1, h2⟩
    by_cases h3 : 32 ≤ n.toNat
    · rw [gPos_gPhys t n h3] at h2
      exact h.2 h3 h2
    · simp only [Tile.gPhys] at h1
      rw [if_pos (by omega)] at h1
      omega

/-! ### The other stages -/

theorem extendMx_eq (t : Tile) (ms : List Mv) :
    extendMx t ms = { t with mx := if !t.inh && ms.any Mv.usesSpr then t.mx.extend else t.mx } := by
  unfold extendMx
  split <;> simp_all

theorem touchFrame_eq (t : Tile) (h : Nat) : ∃ f, t.touchFrame h = { t with frames := f } := by
  unfold Tile.touchFrame
  split
  · exact ⟨t.frames, rfl⟩
  · exact ⟨_, rfl⟩

theorem loopDown_eq (h n : Nat) (t : Tile) : ∃ lc, (loopDown h n t).1 = { t with lc := lc } := by
  induction n generalizing t with
  | zero => exact ⟨t.lc, rfl⟩
  | succ n ih =>
    unfold loopDown
    split
    · dsimp only
      split
      · exact ⟨_, rfl⟩
      · obtain ⟨lc, h⟩ := ih { t with lc := vput t.lc n 0 }
        exact ⟨lc, h⟩
    · exact ⟨t.lc, rfl⟩

theorem loopStep_eq (t : Tile) (h : Nat) : ∃ lc, (t.loopStep h).1 = { t with lc := lc } := by
  unfold Tile.loopStep
  split
  · exact ⟨t.lc, rfl⟩
  · rename_i n _
    obtain ⟨lc, hl⟩ := loopDown_eq h (n + 1) { t with lc := deactivate t.lc (n + 1) }
    exact ⟨lc, hl⟩

theorem flowOn_eq (old v : Tile) (h len : Nat) :
    ∃ lc pc via, Tile.flowOn old v h len = { v with lc := lc, pc := pc, via := via } := by
  unfold Tile.flowOn
  obtain ⟨lc, hl⟩ := loopStep_eq v h
  generalize hs : v.loopStep h = x at hl
  obtain ⟨w, back⟩ := x
  simp only at hl
  subst hl
  cases back
  · exact ⟨lc, _, _, rfl⟩
  · exact ⟨lc, _, _, rfl⟩

/-! ### The loop step reads the levels alone -/

theorem loopDown_congr (h n : Nat) {t u : Tile} (h1 : t.lc = u.lc) (h2 : t.le = u.le) (h3 : t.ls = u.ls) :
    (loopDown h n t).1.lc = (loopDown h n u).1.lc ∧ (loopDown h n t).2 = (loopDown h n u).2 := by
  induction n generalizing t u with
  | zero => exact ⟨h1, rfl⟩
  | succ n ih =>
    have e1 : t.leAt n = u.leAt n := by simp only [Tile.leAt, h2]
    have e2 : t.lsAt n = u.lsAt n := by simp only [Tile.lsAt, h3]
    unfold loopDown
    rw [h1, e1, e2]
    split
    · dsimp only
      split
      · exact ⟨rfl, rfl⟩
      · exact ih rfl h2 h3
    · exact ⟨h1, rfl⟩

theorem loopStep_congr (h : Nat) {t u : Tile} (h1 : t.lc = u.lc) (h2 : t.le = u.le) (h3 : t.ls = u.ls) :
    (t.loopStep h).1.lc = (u.loopStep h).1.lc ∧ (t.loopStep h).2 = (u.loopStep h).2 := by
  have e1 : t.leAt = u.leAt := by funext n; simp only [Tile.leAt, h2]
  unfold Tile.loopStep
  rw [h1, e1]
  split
  · exact ⟨h1, rfl⟩
  · exact loopDown_congr h _ rfl h2 h3

theorem loopPop_congr (h : Nat) {t u : Tile} (h1 : t.lc = u.lc) (h2 : t.le = u.le) :
    (t.loopPop h).lc = (u.loopPop h).lc := by
  have e1 : t.leAt = u.leAt := by funext n; simp only [Tile.leAt, h2]
  unfold Tile.loopPop
  rw [h1, e1]
  split
  · rfl
  · exact h1

/-- Where a bundle without a transfer goes, and the levels it leaves, by a tile `u` with the same levels. -/
theorem flowOn_loop (old v u : Tile) (h len : Nat) (h1 : v.lc = u.lc) (h2 : v.le = u.le) (h3 : v.ls = u.ls) :
    (Tile.flowOn old v h len).lc = (u.loopStep h).1.lc ∧
      ((Tile.flowOn old v h len).pc, (Tile.flowOn old v h len).via) = match (u.loopStep h).2 with
        | some a => ((a : Int), .xfer h)
        | none => (old.successor h len, .seq) := by
  obtain ⟨e1, e2⟩ := loopStep_congr h h1 h2 h3
  unfold Tile.flowOn
  rw [← e1, ← e2]
  generalize v.loopStep h = x
  obtain ⟨w, _ | a⟩ := x <;> exact ⟨rfl, rfl⟩

/-- A bundle that ends no active loop level goes to its successor. -/
theorem flowOn_seq (old v : Tile) (h len : Nat)
    (hn : ∀ n, n < 4 → lcActive v.lc n = true → v.leAt n ≠ h) :
    Tile.flowOn old v h len = { v with pc := (old.successor h len : Int), via := .seq } := by
  have : v.loopStep h = (v, none) := by
    unfold Tile.loopStep
    have : [3, 2, 1, 0].find? (fun n => lcActive v.lc n && decide (v.leAt n = h)) = none := by
      rw [List.find?_eq_none]
      intro n hm
      have hlt : n < 4 := by simp at hm; omega
      have := hn n hlt
      simp only [Bool.and_eq_true, decide_eq_true_eq, not_and]
      exact this
    rw [this]
  unfold Tile.flowOn
  rw [this]

/-! ### The whole bundle of one trigger -/

/-- The bookkeeping of a bundle, from the tile that its trigger left. -/
def Tile.closed (v : Tile) (m : Mv) (hd : Nat) : Tile :=
  let y := (extendMx { v with nextId := v.nextId + 1 } [m]).gZeroDead.touchFrame hd
  { y with nb := y.nb + 1, pre := none }

/-- The end of a bundle whose trigger has no late effect, from the tile `v` that the trigger left. -/
theorem early_eq (v : Tile) (m : Mv) (hd n : Nat) :
    (let w := (extendMx { v with nextId := v.nextId + 1 } [m]).gZeroDead
     let x := { ({ w with nextId := n } : Tile) with nextId := w.nextId }
     let y := x.touchFrame hd
     ({ y with nb := y.nb + 1, pre := none } : Tile)) = v.closed m hd := by
  unfold Tile.closed
  generalize (extendMx { v with nextId := v.nextId + 1 } [m]).gZeroDead = w
  rfl

theorem early_shape (v : Tile) (m : Mv) (hd : Nat) :
    ∃ g frames, v.closed m hd =
        { v with
          g := g, frames := frames, nextId := v.nextId + 1, nb := v.nb + 1, pre := none
          mx := if !v.inh && m.usesSpr then v.mx.extend else v.mx } ∧
      ∀ n, (v.closed m hd).gRead n = v.gRead n := by
  unfold Tile.closed
  have hx := extendMx_eq { v with nextId := v.nextId + 1 } [m]
  have hm : [m].any Mv.usesSpr = m.usesSpr := by simp
  rw [hm] at hx
  obtain ⟨g, hg⟩ := gZeroDead_eq (extendMx { v with nextId := v.nextId + 1 } [m])
  obtain ⟨f, hf⟩ := touchFrame_eq (extendMx { v with nextId := v.nextId + 1 } [m]).gZeroDead hd
  have hr := fun n => gRead_gZeroDead (extendMx { v with nextId := v.nextId + 1 } [m]) n
  generalize hy : (extendMx { v with nextId := v.nextId + 1 } [m]).gZeroDead.touchFrame hd = y at *
  generalize extendMx { v with nextId := v.nextId + 1 } [m] = w at *
  generalize w.gZeroDead = z at *
  clear hy
  subst hf
  have hw : ∀ n, w.gRead n = v.gRead n := by
    intro n
    subst hx
    rfl
  refine ⟨g, f, ?_, fun n => Eq.trans (hr n) (hw n)⟩
  subst hg
  subst hx
  rfl

/-- What a trigger without a late effect leaves: what it does to the tile after its read, and the bookkeeping of a bundle. -/
theorem performed_eq (s : State) (h : Head) (sp : TrigSpec) (hl : sp.late = fun _ t => t) :
    let v := sp.fire (s.sampled h sp) (s.read h)
    ∃ g frames, s.performed h sp =
        { v with
          g := g, frames := frames, nextId := v.nextId + 1, nb := v.nb + 1, pre := none
          mx := if !v.inh && (s.mv h (.trig sp)).usesSpr then v.mx.extend else v.mx } ∧
      ∀ n, (s.performed h sp).gRead n = v.gRead n := by
  intro v
  have hp := early_eq v (s.mv h (.trig sp)) s.header s.landed.nextId
  have hs : s.performed h sp = v.closed (s.mv h (.trig sp)) s.header := by
    unfold State.performed
    rw [hl]
    exact hp
  rw [hs]
  exact early_shape v _ _

end Sys2Proof.Machine
end

