-- ==== Sys2Proof/Laws/Opening.lean ====
section
/-! SUPPORT. What happens to a tile before its bundle reaches little of it: one lemma for each stage. -/
namespace Sys2Proof.Machine

theorem Tile.still_idem (t : Tile) : t.still.still = t.still := rfl

/-! ### Result queues -/

@[simp] theorem still_setQueue (t : Tile) (k : Nat) (q : List Place) : (t.setQueue k q).still = t.still := rfl
@[simp] theorem still_onPlace (t : Tile) (k id : Nat) (f : Place → Place) : (t.onPlace k id f).still = t.still := rfl
@[simp] theorem still_arrive (t : Tile) (k id : Nat) (x : Val) (fl : Flags) : (t.arrive k id x fl).still = t.still := by
  unfold Tile.arrive; split <;> rfl
@[simp] theorem still_arriveFault (t : Tile) (k id : Nat) (f : FaultRep) : (t.arriveFault k id f).still = t.still := rfl

/-! ### WAITs (21 R496) -/

theorem still_waitEnd (s : State) (tile : Nat) (w : WaitOp) (b : Bool) (j : Nat) :
    ((s.waitEnd tile w b).tile j).still = (s.tile j).still := by
  unfold State.waitEnd
  by_cases h : j = tile
  · subst h
    rw [tile_onTile]
    exact still_arrive _ _ _ _ _
  · rw [tile_onTile_other _ _ h]

theorem still_waitsNow (s : State) (tile j : Nat) : ((s.waitsNow tile).tile j).still = (s.tile j).still := by
  unfold State.waitsNow
  generalize (s.tile tile).waits = l
  induction l generalizing s with
  | nil => rfl
  | cons w l ih =>
    rw [List.foldl_cons, ih]
    split
    · exact still_waitEnd s tile w _ j
    · rfl

theorem tile_waitsNow_other (s : State) {tile j : Nat} (h : j ≠ tile) : (s.waitsNow tile).tile j = s.tile j := by
  unfold State.waitsNow
  generalize (s.tile tile).waits = l
  induction l generalizing s with
  | nil => rfl
  | cons w l ih =>
    rw [List.foldl_cons, ih]
    split
    · exact tile_onTile_other _ _ h
    · rfl

/-- Only tiles change. -/
theorem waitsNow_eq (s : State) (tile : Nat) : ∃ ts, s.waitsNow tile = { s with tiles := ts } := by
  unfold State.waitsNow
  generalize (s.tile tile).waits = l
  suffices ∀ s' : State, (∃ ts, s' = { s with tiles := ts }) →
      ∃ ts, l.foldl (fun s w => if w.over || s.waitHolds (s.tile tile) w then s.waitEnd tile w w.over else s) s' =
        { s with tiles := ts } from this s ⟨s.tiles, rfl⟩
  induction l with
  | nil => intro s' h; exact h
  | cons w l ih =>
    intro s' h
    apply ih
    obtain ⟨ts, rfl⟩ := h
    dsimp only
    split
    · exact ⟨_, rfl⟩
    · exact ⟨ts, rfl⟩

theorem waitsNow_of_nil (s : State) (tile : Nat) (h : (s.tile tile).waits = []) : s.waitsNow tile = s := by
  unfold State.waitsNow; rw [h]; rfl

/-! ### The engines -/

theorem still_undo (t : Tile) : t.undo.still = t.still := by unfold Tile.undo; split <;> rfl

theorem still_spillDone (t : Tile) : t.spillDone.still = t.still := by
  unfold Tile.spillDone; split
  · split <;> rfl
  · rfl

theorem still_fillReg (t : Tile) (f : Bool) (k : Nat) (x : BitVec 1152) : (t.fillReg f k x).still = t.still := by
  unfold Tile.fillReg; split
  · rfl
  · split <;> rfl

theorem still_unfail (t : Tile) (f : Bool) (r : Option Nat) : (t.unfail f r).still = t.still := by
  unfold Tile.unfail; split <;> rfl

theorem still_stored (t : Tile) (off n : Nat) (y : BitVec 1152) (l : List Spill) :
    ({ t.spmStore off n y with spill := l } : Tile).still = t.still := rfl

theorem still_spillMove (t : Tile) (x : Spill) (rest : List Spill) : (t.spillMove x rest).still = t.still := by
  unfold Tile.spillMove
  cases x.fill
  · exact (still_stored _ _ _ _ _).trans (still_unfail _ _ _)
  · simp only [if_true]
    cases t.spmBad (x.off + (if x.vfile = true then 144 else 8) * x.pos) (if x.vfile = true then 144 else 8)
    · simp only [Bool.false_eq_true, if_false]
      split
      · exact (still_fillReg _ _ _ _).trans (still_unfail _ _ _)
      · exact still_unfail _ _ _
    · rfl

theorem still_spillCycle (t : Tile) : t.spillCycle.still = t.still := by
  dsimp only [Tile.spillCycle]
  split
  · exact still_spillDone t
  · split
    · exact (show _ = t.spillDone.still from rfl).trans (still_spillDone t)
    · exact (still_spillMove _ _ _).trans (still_spillDone t)

theorem still_gpFinish (t : Tile) : t.gpFinish.still = t.still := by
  unfold Tile.gpFinish
  split
  · rfl
  · dsimp only
    split
    · split
      · simp only [still_arriveFault]; rfl
      · simp only [still_arrive]; rfl
    · rfl

theorem still_gpStart (t : Tile) (tid : Nat) : (t.gpStart tid).still = t.still := by
  unfold Tile.gpStart
  split
  · dsimp only
    split
    · split <;> rfl
    · rfl
  · rfl

theorem still_stamp (t : Tile) (ns : Nat) : (t.stamp ns).still = t.still := rfl

theorem still_passDisabled (t : Tile) : t.passDisabled.still = t.still := by
  unfold Tile.passDisabled; split <;> rfl

theorem still_tick (env : Env) (t : Tile) : (t.tick env).still = t.still := by
  show (((Tile.spillCycle { t.undo.passDisabled with
    cyc := t.undo.passDisabled.cyc + 1, weir := t.undo.passDisabled.weir - 1 }).gpFinish.gpStart env.tid).stamp
      env.ns).still = t.still
  rw [still_stamp, still_gpStart, still_gpFinish, still_spillCycle]
  exact (show _ = t.undo.passDisabled.still from rfl).trans ((still_passDisabled _).trans (still_undo t))

/-! ### Landings and MX -/

theorem still_landAll (t : Tile) : t.landAll.1.still = t.still := by
  unfold Tile.landAll
  generalize hl : List.range (if t.inh = true then 8 else 9) = l
  clear hl
  suffices ∀ x : Tile × List Nat, (l.foldl (fun (t, cs) k =>
      let (f, fl, c) := (t.fixedAt k).land (fixedLocked t.flm k) t.nb
      ({ t.setFixed k f with fpc := orFlags t.fpc fl }, if c then cs ++ [k] else cs)) x).1.still = x.1.still from
    this (t, [])
  induction l with
  | nil => intro x; rfl
  | cons k l ih => intro x; rw [List.foldl_cons]; exact (ih _).trans rfl

theorem still_mxReady (t : Tile) : t.mxReady.still = t.still := by unfold Tile.mxReady; split <;> rfl
theorem still_mxComplete (t : Tile) : t.mxComplete.still = t.still := rfl

theorem still_mxStart (t : Tile) : t.mxStart.still = t.still := by
  unfold Tile.mxStart
  split
  · rfl
  · dsimp only
    split <;> rfl

theorem still_landings (t : Tile) : t.landings.1.still = t.still := by
  unfold Tile.landings
  split
  · exact still_landAll t
  · exact ((still_landAll _).trans (still_mxComplete _)).trans (still_mxReady t)

theorem still_startMx (t : Tile) : t.startMx.still = t.still := by
  unfold Tile.startMx; split
  · rfl
  · exact still_mxStart t

/-! ### The tile as its bundle finds it -/

theorem still_opening (s : State) : s.opening.still = (s.tile s.cur).still :=
  (still_tick _ _).trans (still_waitsNow s s.cur s.cur)

theorem still_landed (s : State) : s.landed.still = (s.tile s.cur).still :=
  ((still_startMx _).trans (still_landings _)).trans (still_opening s)

end Sys2Proof.Machine
end

