-- ==== Sys2Proof/Laws/Finish.lean ====
section
/-! SUPPORT. A move word whose bundle issues finishes: from what its trigger does to the tile, the state the step
answers. -/
namespace Sys2Proof.Machine

theorem report_srcPop (t : Tile) (x : Src) : (t.srcPop x).report = t.report := by
  unfold Tile.srcPop
  split
  · split
    · rfl
    · split <;> rfl
  · rfl
  · unfold Tile.inboxPop
    split
    · rfl
    · split <;> rfl
  all_goals rfl

theorem report_read (s : State) (h : Head) : (s.read h).report = s.landed.report := by
  unfold State.read
  split
  · exact report_srcPop _ _
  · rfl

theorem report_landed (s : State) : s.landed.report = (s.ready.tile s.cur).report := by
  have h1 := congrArg Tile.report (still_landed s)
  have h2 := congrArg Tile.report (still_waitsNow s s.cur s.cur)
  exact h1.trans h2.symm

theorem putTile_eq (s : State) (k : Nat) (w : Tile) (h : w.report = (s.tile k).report) :
    s.putTile k w = s.setTile k w := by
  simp only [State.putTile]
  split
  · rename_i h1 h2; rw [h, h1] at h2; cases h2
  · rfl

/-- The frame's mark leaves the code. -/
theorem touchFrame_code (t : Tile) (h : Nat) :
    ∃ f, t.touchFrame h = { t with frames := f } ∧ ∀ k, (vget .empty f k).tag = (vget .empty t.frames k).tag ∧
      (vget .empty f k).bytes = (vget .empty t.frames k).bytes := by
  unfold Tile.touchFrame
  split
  · exact ⟨t.frames, rfl, fun _ => ⟨rfl, rfl⟩⟩
  · rename_i k hk
    refine ⟨_, rfl, fun j => ?_⟩
    have hk' : k < 16 := by
      unfold Tile.frameOf at hk
      have := List.mem_of_find?_eq_some hk
      simpa using this
    by_cases hj : j = k
    · subst hj
      rw [vget_vput_same _ _ _ _ hk']; exact ⟨rfl, rfl⟩
    · rw [vget_vput_other _ _ _ hj]; exact ⟨rfl, rfl⟩

/-- The end of every bundle: dead positions zeroed, the frame marked, the bundle counted. -/
def Tile.close (v : Tile) (h : Nat) : Tile :=
  let y := v.gZeroDead.touchFrame h
  { y with nb := y.nb + 1, pre := none }

theorem close_eq (v : Tile) (h : Nat) :
    ∃ g f, v.close h = { v with g := g, frames := f, nb := v.nb + 1, pre := none } ∧
      (∀ n, ({ v with g := g } : Tile).gRead n = v.gRead n) ∧
      (∀ k, (vget .empty f k).tag = (vget .empty v.frames k).tag ∧
        (vget .empty f k).bytes = (vget .empty v.frames k).bytes) := by
  obtain ⟨g, hg⟩ := gZeroDead_eq v
  obtain ⟨f, hf, hc⟩ := touchFrame_code v.gZeroDead h
  refine ⟨g, f, ?_, ?_, ?_⟩
  · simp only [Tile.close]; rw [hf, hg]
  · intro n; rw [← hg]; exact gRead_gZeroDead v n
  · intro k; rw [hg] at hc; exact hc k

/-- The books of a bundle that ends as `v.close`, MX's hold taken, its flow `w`. -/
theorem settled_books {s : State} {v u w : Tile} {lc : Vector W64 4} {pc : Int} {via : Via} {m : Mx} {k : Nat}
    (hm : m = v.mx ∨ m = v.mx.extend)
    (hu : u = Tile.close { v with mx := m, nextId := v.nextId + k } s.header)
    (hw : w = { u with lc := lc, pc := pc, via := via }) (hr : v.report = s.landed.report) :
    ∃ b : Books, b.Kept s v ∧ b.lc = lc ∧ b.pc = pc ∧ b.via = via ∧
      s.settled w = s.ready.setTile s.cur (v.booked b) := by
  obtain ⟨g, f, hx, hg, hf⟩ := close_eq { v with mx := m, nextId := v.nextId + k } s.header
  rw [hx] at hu
  subst hu
  subst hw
  refine ⟨⟨g, f, lc, pc, via, v.nb + 1, v.nextId + k, m, countDown s.opening.slns v.slns,
    countDown s.opening.slnsH v.slnsH⟩, ⟨hg, hf, rfl, by simp, hm, rfl, rfl⟩, rfl, rfl, rfl, ?_⟩
  have hr' := hr.trans (report_landed s)
  simp only [State.settled]
  generalize countDown s.opening.slns v.slns = a
  generalize countDown s.opening.slnsH v.slnsH = c
  rw [putTile_eq]
  · rfl
  · exact hr'

/-- A trigger without a late effect and not of CU. -/
theorem finishes_trig {s : State} {i : Instr} {h : Head} {sp : TrigSpec}
    (he : exec i s = .next (s.runMove h (.trig sp))) (hi : s.issues h (.trig sp) = true) (hk : sp.sock ≠ .cu)
    (hl : sp.late = fun _ t => t) {v : Tile} (hv : sp.fire (s.sampled h sp) (s.read h) = v)
    (hr : v.report = (s.read h).report) : s.finishes i h v := by
  subst hv
  generalize hv : sp.fire (s.sampled h sp) (s.read h) = v at hr
  have hp : s.performed h sp = Tile.close { v with
      mx := (if !v.inh && (s.mv h (.trig sp)).usesSpr then v.mx.extend else v.mx), nextId := v.nextId + 1 } s.header := by
    have hx := extendMx_eq { v with nextId := v.nextId + 1 } [s.mv h (.trig sp)]
    have hm : [s.mv h (.trig sp)].any Mv.usesSpr = (s.mv h (.trig sp)).usesSpr := by simp
    rw [hm] at hx
    simp only [State.performed, hl, hv, Tile.close]
    rw [hx]
    rfl
  obtain ⟨lc, pc, via, hf⟩ := flowOn_eq s.landed (s.performed h sp) s.header (2 + h.src.literals.length)
  have hmx : (if !v.inh && (s.mv h (.trig sp)).usesSpr then v.mx.extend else v.mx) = v.mx ∨
      (if !v.inh && (s.mv h (.trig sp)).usesSpr then v.mx.extend else v.mx) = v.mx.extend := by
    split
    · exact .inr rfl
    · exact .inl rfl
  obtain ⟨b, hb, h1, h2, h3, hs⟩ := settled_books hmx hp hf (hr.trans (report_read s h))
  have hlp : lc = (v.loopStep s.header).1.lc ∧ (pc, via) = match (v.loopStep s.header).2 with
      | some a => ((a : Int), .xfer s.header)
      | none => (s.landed.successor s.header (2 + h.src.literals.length), .seq) := by
    obtain ⟨g, f, hx, -, -⟩ := close_eq { v with
      mx := (if !v.inh && (s.mv h (.trig sp)).usesSpr then v.mx.extend else v.mx), nextId := v.nextId + 1 } s.header
    have := flowOn_loop s.landed (s.performed h sp) v s.header (2 + h.src.literals.length) (by rw [hp, hx]) (by rw [hp, hx])
      (by rw [hp, hx])
    rw [hf] at this
    exact this
  refine ⟨b, ⟨hb, ?_, h1.trans hlp.1, by rw [h2, h3]; exact hlp.2⟩, ?_⟩
  · intro hn
    obtain ⟨g, f, hx, -, -⟩ := close_eq { v with
      mx := (if !v.inh && (s.mv h (.trig sp)).usesSpr then v.mx.extend else v.mx), nextId := v.nextId + 1 } s.header
    have hq := flowOn_seq s.landed (s.performed h sp) s.header (2 + h.src.literals.length) (by
      rw [hp, hx]; exact hn)
    rw [hq] at hf
    have e1 := congrArg Tile.lc hf
    have e2 := congrArg Tile.pc hf
    have e3 := congrArg Tile.via hf
    simp only at e1 e2 e3
    rw [h1, h2, h3, ← e1, ← e2, ← e3, hp, hx]
    exact ⟨rfl, rfl, rfl⟩
  · rw [he, runMove_trig hi hk, hs]

/-- A plain move. -/
theorem finishes_plain {s : State} {i : Instr} {h : Head} {d : Dst}
    (he : exec i s = .next (s.runMove h (.plain d))) (hi : s.issues h (.plain d) = true) {v : Tile}
    (hv : Tile.dstWrite s.landed (s.read h) h.bus.kind (s.gateOf h) (s.source h) d = v)
    (hr : v.report = (s.read h).report) : s.finishes i h v := by
  generalize hm0 : (if !v.inh && (s.mv h (.plain d)).usesSpr then v.mx.extend else v.mx) = m
  have hp : s.moved h d = Tile.close { v with mx := m, nextId := v.nextId + 0 } s.header := by
    have hx := extendMx_eq v [s.mv h (.plain d)]
    have hm : [s.mv h (.plain d)].any Mv.usesSpr = (s.mv h (.plain d)).usesSpr := by simp
    rw [hm, hm0] at hx
    simp only [State.moved, hv, Tile.close]
    rw [hx]
    rfl
  obtain ⟨lc, pc, via, hf⟩ := flowOn_eq s.landed (s.moved h d) s.header (2 + h.src.literals.length)
  have hmx : m = v.mx ∨ m = v.mx.extend := by
    rw [← hm0]
    split
    · exact .inr rfl
    · exact .inl rfl
  obtain ⟨b, hb, h1, h2, h3, hs⟩ := settled_books hmx hp hf (hr.trans (report_read s h))
  have hlp : lc = (v.loopStep s.header).1.lc ∧ (pc, via) = match (v.loopStep s.header).2 with
      | some a => ((a : Int), .xfer s.header)
      | none => (s.landed.successor s.header (2 + h.src.literals.length), .seq) := by
    obtain ⟨g, f, hx, -, -⟩ := close_eq { v with
      mx := m, nextId := v.nextId + 0 } s.header
    have := flowOn_loop s.landed (s.moved h d) v s.header (2 + h.src.literals.length) (by rw [hp, hx]) (by rw [hp, hx])
      (by rw [hp, hx])
    rw [hf] at this
    exact this
  refine ⟨b, ⟨hb, ?_, h1.trans hlp.1, by rw [h2, h3]; exact hlp.2⟩, ?_⟩
  · intro hn
    obtain ⟨g, f, hx, -, -⟩ := close_eq { v with mx := m, nextId := v.nextId + 0 } s.header
    have hq := flowOn_seq s.landed (s.moved h d) s.header (2 + h.src.literals.length) (by rw [hp, hx]; exact hn)
    rw [hq] at hf
    have e1 := congrArg Tile.lc hf
    have e2 := congrArg Tile.pc hf
    have e3 := congrArg Tile.via hf
    simp only at e1 e2 e3
    rw [h1, h2, h3, ← e1, ← e2, ← e3, hp, hx]
    exact ⟨rfl, rfl, rfl⟩
  · rw [he, runMove_plain hi, hs]

end Sys2Proof.Machine
end

