-- ==== Sys2Proof/Laws/Flow.lean ====
section
/-! SUPPORT. A CU trigger whose bundle issues: transfers, LOOP's push, END. -/
namespace Sys2Proof.Machine

theorem loopPop_eq (t : Tile) (h : Nat) : ∃ lc, t.loopPop h = { t with lc := lc } := by
  unfold Tile.loopPop; split
  · exact ⟨_, rfl⟩
  · exact ⟨t.lc, rfl⟩

theorem loopPop_none (t : Tile) (h : Nat) (hn : ∀ n, n < 4 → lcActive t.lc n = true → t.leAt n ≠ h) :
    t.loopPop h = t := by
  unfold Tile.loopPop
  have : (List.range 4).find? (fun n => lcActive t.lc n && decide (t.leAt n = h)) = none := by
    rw [List.find?_eq_none]
    intro n hm
    have := hn n (List.mem_range.mp hm)
    simp only [Bool.and_eq_true, decide_eq_true_eq, not_and]
    exact this
  rw [this]

/-- The tile after the effects of a bundle of one trigger that has no late effect. -/
theorem performed_close {s : State} {h : Head} {sp : TrigSpec} (hl : sp.late = fun _ t => t) {v : Tile}
    (hv : sp.fire (s.sampled h sp) (s.read h) = v) :
    ∃ m, (m = v.mx ∨ m = v.mx.extend) ∧
      s.performed h sp = Tile.close { v with mx := m, nextId := v.nextId + 1 } s.header := by
  generalize hm0 : (if !v.inh && (s.mv h (.trig sp)).usesSpr then v.mx.extend else v.mx) = m
  refine ⟨m, ?_, ?_⟩
  · rw [← hm0]
    split
    · exact .inr rfl
    · exact .inl rfl
  · have hx := extendMx_eq { v with nextId := v.nextId + 1 } [s.mv h (.trig sp)]
    have hm : [s.mv h (.trig sp)].any Mv.usesSpr = (s.mv h (.trig sp)).usesSpr := by simp
    rw [hm] at hx
    simp only [State.performed, hl, hv, Tile.close]
    rw [hx]
    simp only [← hm0]
    rfl

/-- A taken transfer. -/
theorem transfers_trig {s : State} {i : Instr} {h : Head} {sp : TrigSpec}
    (he : exec i s = .next (s.runMove h (.trig sp))) (hi : s.issues h (.trig sp) = true) (hk : sp.sock = .cu)
    (hne : (Act.trig sp).ends = false)
    (hl : sp.late = fun _ t => t) {v : Tile} (hv : sp.fire (s.sampled h sp) (s.read h) = v)
    (hr : v.report = (s.read h).report) {a : Int} (ha : sp.flow (s.sampled h sp) = .to a) : s.transfers i v a := by
  obtain ⟨m, hm, hp⟩ := performed_close hl hv
  obtain ⟨lc, hlc⟩ := loopPop_eq (s.performed h sp) s.header
  have hw : Tile.leave s.view s.landed (s.performed h sp) s.header (2 + h.src.literals.length) (sp.flow (s.sampled h sp))
      = .next { s.performed h sp with lc := lc, pc := a, via := .xfer s.header } := by
    rw [ha]
    show Issue.next { (s.performed h sp).loopPop s.header with pc := a, via := .xfer s.header } = _
    rw [hlc]
  obtain ⟨b, hb, h1, h2, h3, hs⟩ := settled_books
    (w := { s.performed h sp with lc := lc, pc := a, via := .xfer s.header }) hm hp rfl (hr.trans (report_read s h))
  have hlp : lc = (v.loopPop s.header).lc := by
    obtain ⟨g, f, hx, -, -⟩ := close_eq { v with mx := m, nextId := v.nextId + 1 } s.header
    rw [← show ((s.performed h sp).loopPop s.header).lc = lc by rw [hlc]]
    exact loopPop_congr _ (by rw [hp, hx]) (by rw [hp, hx])
  refine ⟨b, hb, ?_, h1.trans hlp, h2, h3, ?_⟩
  · intro hn
    obtain ⟨g, f, hx, -, -⟩ := close_eq { v with mx := m, nextId := v.nextId + 1 } s.header
    have hq := loopPop_none (s.performed h sp) s.header (by rw [hp, hx]; exact hn)
    rw [hq] at hlc
    have e1 := congrArg Tile.lc hlc
    simp only at e1
    rw [h1, ← e1, hp, hx]
  · rw [he, runMove_cu hi hk hne hw, hs]

/-- The loop levels changed. -/
def Tile.onLevels (t : Tile) (f a c : Vector W64 4 → Vector W64 4) : Tile :=
  { t with lc := f t.lc, le := a t.le, ls := c t.ls }

theorem gZeroDead_onLevels (t : Tile) (f a c : Vector W64 4 → Vector W64 4) :
    (t.onLevels f a c).gZeroDead = t.gZeroDead.onLevels f a c := by
  unfold Tile.gZeroDead
  have : (t.onLevels f a c).ld = t.ld := rfl
  rw [this]
  split <;> rfl

theorem touchFrame_onLevels (t : Tile) (f a c : Vector W64 4 → Vector W64 4) (h : Nat) :
    (t.onLevels f a c).touchFrame h = (t.touchFrame h).onLevels f a c := by
  unfold Tile.touchFrame
  have : (t.onLevels f a c).frameOf (h / 4096) = t.frameOf (h / 4096) := rfl
  rw [this]
  split <;> rfl

theorem close_onLevels (t : Tile) (f a c : Vector W64 4 → Vector W64 4) (h : Nat) :
    (t.onLevels f a c).close h = (t.close h).onLevels f a c := by
  simp only [Tile.close]
  rw [gZeroDead_onLevels, touchFrame_onLevels]
  rfl

theorem loopPush_eq (old : Tile) (n le ls : Nat) :
    ∃ f a c, ∀ t, Tile.loopPush old t n le ls = t.onLevels f a c := by
  unfold Tile.loopPush Tile.onLevels
  generalize BitVec.ofNat 64 (n + 2 ^ 63) = x
  generalize BitVec.ofNat 64 (le % 2 ^ 30) = y
  generalize BitVec.ofNat 64 (ls % 2 ^ 30) = z
  exact ⟨fun l => lcWrite l (loopDepth old.lc) x, fun l => vput l (loopDepth old.lc) y,
    fun l => vput l (loopDepth old.lc) z, fun _ => rfl⟩

/-- LOOP with a count: the level pushed, then the bundle's own loop step. -/
theorem finishes_push {s : State} {i : Instr} {h : Head} {sp : TrigSpec}
    (he : exec i s = .next (s.runMove h (.trig sp))) (hi : s.issues h (.trig sp) = true) (hk : sp.sock = .cu)
    (hne : (Act.trig sp).ends = false)
    (hl : sp.late = fun _ t => t) (hv : sp.fire (s.sampled h sp) (s.read h) = s.read h) {n le : Nat}
    (ha : sp.flow (s.sampled h sp) = .push n le) :
    s.finishes i h (Tile.loopPush s.landed (s.read h) n le
      (s.landed.successor s.header (2 + h.src.literals.length))) := by
  generalize hls : s.landed.successor s.header (2 + h.src.literals.length) = ls
  obtain ⟨f1, f2, f3, hpush⟩ := loopPush_eq s.landed n le ls
  generalize hvv : Tile.loopPush s.landed (s.read h) n le ls = v
  obtain ⟨m0, hm, hp⟩ := performed_close hl hv
  rw [hpush] at hvv
  have hmx : (s.read h).mx = v.mx := by rw [← hvv]; rfl
  rw [hmx] at hm
  have hc : Tile.loopPush s.landed (s.performed h sp) n le ls =
      Tile.close { v with mx := m0, nextId := v.nextId + 1 } s.header := by
    rw [hpush, hp, ← close_onLevels, ← hvv]
    rfl
  obtain ⟨lc, pc, via, hf⟩ := flowOn_eq s.landed (Tile.loopPush s.landed (s.performed h sp) n le ls) s.header
    (2 + h.src.literals.length)
  have hw : Tile.leave s.view s.landed (s.performed h sp) s.header (2 + h.src.literals.length) (sp.flow (s.sampled h sp))
      = .next { Tile.loopPush s.landed (s.performed h sp) n le ls with lc := lc, pc := pc, via := via } := by
    rw [ha, ← hf, ← hls]; rfl
  have hr : v.report = s.landed.report := by rw [← hvv]; exact report_read s h
  obtain ⟨b, hb, h1, h2, h3, hs⟩ := settled_books
    (w := { Tile.loopPush s.landed (s.performed h sp) n le ls with lc := lc, pc := pc, via := via }) hm hc rfl hr
  have hlp : lc = (v.loopStep s.header).1.lc ∧ (pc, via) = match (v.loopStep s.header).2 with
      | some a => ((a : Int), .xfer s.header)
      | none => (s.landed.successor s.header (2 + h.src.literals.length), .seq) := by
    obtain ⟨g, f, hx, -, -⟩ := close_eq { v with mx := m0, nextId := v.nextId + 1 } s.header
    have := flowOn_loop s.landed (Tile.loopPush s.landed (s.performed h sp) n le ls) v s.header
      (2 + h.src.literals.length) (by rw [hc, hx]) (by rw [hc, hx]) (by rw [hc, hx])
    rw [hf] at this
    exact this
  refine ⟨b, ⟨hb, ?_, h1.trans hlp.1, by rw [h2, h3]; exact hlp.2⟩, ?_⟩
  · intro hn
    obtain ⟨g, f, hx, -, -⟩ := close_eq { v with mx := m0, nextId := v.nextId + 1 } s.header
    have hq := flowOn_seq s.landed (Tile.loopPush s.landed (s.performed h sp) n le ls) s.header
      (2 + h.src.literals.length) (by rw [hc, hx]; exact hn)
    rw [hq] at hf
    have e1 := congrArg Tile.lc hf
    have e2 := congrArg Tile.pc hf
    have e3 := congrArg Tile.via hf
    simp only at e1 e2 e3
    rw [h1, h2, h3, ← e1, ← e2, ← e3, hc, hx]
    exact ⟨rfl, rfl, rfl⟩
  · rw [he, runMove_cu hi hk hne hw, hs]

end Sys2Proof.Machine
end

