-- ==== Sys2Proof/Laws/Memory.lean ====
section
/-! SUPPORT. Memory: a byte read after a write, and the canonical form, which every write keeps. -/
namespace Sys2Proof.Machine

@[simp] theorem Mem.get_nil (a : Nat) : Mem.get [] a = 0 := rfl

theorem Mem.get_below {lo : Nat} {m : Mem} (h : m.wfFrom lo = true) {j : Nat} (hj : j < lo) : Mem.get m j = 0 := by
  induction m generalizing lo with
  | nil => rfl
  | cons x m ih =>
    obtain ⟨k, c⟩ := x
    simp only [Mem.wfFrom, Bool.and_eq_true, decide_eq_true_eq] at h
    have := ih h.2 (by omega)
    have hne : k ≠ j := by omega
    simp [Mem.get, hne, this]

theorem Mem.get_set (m : Mem) (a : Nat) (b : Byte) (j : Nat) (h : m.wf = true) :
    Mem.get (m.set a b) j = if j = a then b else Mem.get m j := by
  suffices ∀ lo, m.wfFrom lo = true → Mem.get (m.set a b) j = if j = a then b else Mem.get m j from this 0 h
  clear h
  induction m with
  | nil => intro lo _; grind [Mem.set, Mem.get]
  | cons x m ih =>
    intro lo h
    obtain ⟨k, c⟩ := x
    simp only [Mem.wfFrom, Bool.and_eq_true, decide_eq_true_eq] at h
    have ihm := ih (k + 1) h.2
    have hg := Mem.get_below h.2 (j := j)
    simp only [Mem.set]
    split
    · split
      · rename_i hb
        by_cases hj : j = a
        · have hne : k ≠ j := by omega
          have := hg (by omega)
          subst hj
          simp [Mem.get, hne, this, hb]
        · simp [hj]
      · by_cases hj : j = a
        · subst hj; simp [Mem.get]
        · have : ¬ a = j := fun hh => hj hh.symm
          simp [Mem.get, hj, this]
    · split
      · rename_i ha
        split
        · rename_i hb
          by_cases hj : j = a
          · have := hg (by omega)
            rw [if_pos hj, hb]; exact this
          · have : ¬ k = j := by omega
            simp [Mem.get, hj, this]
        · by_cases hj : j = a
          · subst hj; simp [Mem.get]
          · have h5 : ¬ a = j := fun hh => hj hh.symm
            have h6 : ¬ k = j := by omega
            simp [Mem.get, hj, h5, h6]
      · by_cases hk : k = j
        · have : ¬ j = a := by omega
          simp [Mem.get, hk, this]
        · simp [Mem.get, hk, ihm]

theorem Mem.wfFrom_mono {lo lo' : Nat} {m : Mem} (h : m.wfFrom lo = true) (hl : lo' ≤ lo) : m.wfFrom lo' = true := by
  cases m with
  | nil => rfl
  | cons x m =>
    obtain ⟨k, c⟩ := x
    simp only [Mem.wfFrom, Bool.and_eq_true, decide_eq_true_eq] at h ⊢
    exact ⟨⟨by omega, h.1.2⟩, h.2⟩

theorem Mem.wfFrom_set {lo : Nat} {m : Mem} (a : Nat) (b : Byte) (h : m.wfFrom lo = true) (ha : lo ≤ a) :
    (m.set a b).wfFrom lo = true := by
  induction m generalizing lo with
  | nil =>
    unfold Mem.set
    split
    · rfl
    · rename_i hb; simp [Mem.wfFrom, ha]; exact hb
  | cons x m ih =>
    obtain ⟨k, c⟩ := x
    have h0 := h
    simp only [Mem.wfFrom, Bool.and_eq_true, decide_eq_true_eq] at h
    unfold Mem.set
    split
    · split
      · exact h0
      · rename_i hb
        simp only [Mem.wfFrom, Bool.and_eq_true, decide_eq_true_eq]
        exact ⟨⟨ha, by simpa using hb⟩, ⟨by omega, h.1.2⟩, h.2⟩
    · split
      · split
        · exact Mem.wfFrom_mono h.2 (by omega)
        · rename_i hka hb
          simp only [Mem.wfFrom, Bool.and_eq_true, decide_eq_true_eq]
          exact ⟨⟨ha, by simpa using hb⟩, by rw [hka]; exact h.2⟩
      · simp only [Mem.wfFrom, Bool.and_eq_true, decide_eq_true_eq]
        exact ⟨h.1, ih h.2 (by omega)⟩

/-- Every write keeps the canonical form. -/
theorem Mem.wf_set {m : Mem} (a : Nat) (b : Byte) (h : m.wf = true) : (m.set a b).wf = true :=
  Mem.wfFrom_set a b h (Nat.zero_le a)

theorem Mem.wf_write {m : Mem} (a : Nat) (bs : List Byte) (h : m.wf = true) : (m.write a bs).wf = true := by
  induction bs generalizing m a with
  | nil => exact h
  | cons b bs ih => exact ih (a + 1) (Mem.wf_set a b h)

theorem Mem.wf_store {w : Nat} {m : Mem} (a n : Nat) (x : BitVec w) (h : m.wf = true) : (m.store a n x).wf = true :=
  Mem.wf_write a _ h

/-- A byte read after a write: the byte written there, or the old one. -/
theorem Mem.get_write {m : Mem} (a : Nat) (bs : List Byte) (j : Nat) (h : m.wf = true) :
    (m.write a bs).get j = if a ≤ j ∧ j < a + bs.length then (bs[j - a]?).getD 0 else m.get j := by
  induction bs generalizing m a with
  | nil =>
    simp only [Mem.write, List.length_nil]
    rw [if_neg (by omega)]
  | cons b bs ih =>
    rw [Mem.write, ih (a + 1) (Mem.wf_set a b h), Mem.get_set m a b j h]
    by_cases h1 : j = a
    · subst h1
      rw [if_neg (by omega), if_pos rfl, if_pos ⟨Nat.le_refl _, by simp⟩]; simp
    · by_cases h2 : a + 1 ≤ j ∧ j < a + 1 + bs.length
      · have h3 : a ≤ j ∧ j < a + (b :: bs).length := by simp; omega
        rw [if_pos h2, if_pos h3]
        have : j - a = (j - (a + 1)) + 1 := by omega
        rw [this, List.getElem?_cons_succ]
      · have h3 : ¬ (a ≤ j ∧ j < a + (b :: bs).length) := by simp; omega
        rw [if_neg h2, if_neg h3, if_neg h1]

end Sys2Proof.Machine
end

