-- ==== Sys2Proof/Laws/PerInstr.lean ====
section
/-! SUPPORT. The opcode map and its inverse agree on every trigger (04 R93), one lemma for each constructor. -/
namespace Sys2Proof.Laws.OpcodeMap

/-- The socket and opcode that an instruction's trigger is encoded with are decoded as that instruction. -/
def Statement (i : Instr) : Prop :=
  ∀ h k opc e, i.trig? = some (h, k, opc, e) → Instr.ofTrig k opc h e = some i

theorem of_trig {i : Instr} {h : Head} {k : Sock} {opc : BitVec 6} {e : Bool} (a : i.trig? = some (h, k, opc, e))
    (b : Instr.ofTrig k opc h e = some i) : Statement i := by
  rintro h2 k2 o2 e2 x
  rw [a] at x
  cases x
  exact b
theorem of_none {i : Instr} (a : i.trig? = none) : Statement i := fun _ _ _ _ x => by simp [a] at x

theorem move a b : Statement (.move a b) := of_none rfl
theorem br a b : Statement (.br a b) := of_trig rfl rfl
theorem jmp a b : Statement (.jmp a b) := of_trig rfl rfl
theorem call a b : Statement (.call a b) := of_trig rfl rfl
theorem ret a b : Statement (.ret a b) := of_trig rfl rfl
theorem loop a b : Statement (.loop a b) := of_trig rfl rfl
theorem endTile a b : Statement (.endTile a b) := of_trig rfl rfl
theorem trap a b : Statement (.trap a b) := of_trig rfl rfl
theorem tret a b : Statement (.tret a b) := of_trig rfl rfl
theorem add a b c : Statement (.add a b c) := by cases b <;> exact of_trig rfl rfl
theorem sub a b c : Statement (.sub a b c) := by cases b <;> exact of_trig rfl rfl
theorem and a b c : Statement (.and a b c) := by cases b <;> exact of_trig rfl rfl
theorem andn a b c : Statement (.andn a b c) := by cases b <;> exact of_trig rfl rfl
theorem or a b c : Statement (.or a b c) := by cases b <;> exact of_trig rfl rfl
theorem xor a b c : Statement (.xor a b c) := by cases b <;> exact of_trig rfl rfl
theorem shl a b c : Statement (.shl a b c) := by cases b <;> exact of_trig rfl rfl
theorem shr a b c : Statement (.shr a b c) := by cases b <;> exact of_trig rfl rfl
theorem sar a b c : Statement (.sar a b c) := by cases b <;> exact of_trig rfl rfl
theorem rol a b c : Statement (.rol a b c) := by cases b <;> exact of_trig rfl rfl
theorem min a b c : Statement (.min a b c) := by cases b <;> exact of_trig rfl rfl
theorem minU a b c : Statement (.minU a b c) := by cases b <;> exact of_trig rfl rfl
theorem max a b c : Statement (.max a b c) := by cases b <;> exact of_trig rfl rfl
theorem maxU a b c : Statement (.maxU a b c) := by cases b <;> exact of_trig rfl rfl
theorem cmpEq a b c : Statement (.cmpEq a b c) := by cases b <;> exact of_trig rfl rfl
theorem cmpNe a b c : Statement (.cmpNe a b c) := by cases b <;> exact of_trig rfl rfl
theorem cmpLt a b c : Statement (.cmpLt a b c) := by cases b <;> exact of_trig rfl rfl
theorem cmpLe a b c : Statement (.cmpLe a b c) := by cases b <;> exact of_trig rfl rfl
theorem cmpLtu a b c : Statement (.cmpLtu a b c) := by cases b <;> exact of_trig rfl rfl
theorem cmpLeu a b c : Statement (.cmpLeu a b c) := by cases b <;> exact of_trig rfl rfl
theorem sel a b c : Statement (.sel a b c) := by cases b <;> exact of_trig rfl rfl
theorem clz a b c : Statement (.clz a b c) := by cases b <;> exact of_trig rfl rfl
theorem popc a b c : Statement (.popc a b c) := by cases b <;> exact of_trig rfl rfl
theorem bext a b c : Statement (.bext a b c) := by cases b <;> exact of_trig rfl rfl
theorem bins a b c : Statement (.bins a b c) := by cases b <;> exact of_trig rfl rfl
theorem sext a b c : Statement (.sext a b c) := by cases b <;> exact of_trig rfl rfl
theorem pand a b c : Statement (.pand a b c) := by cases b <;> exact of_trig rfl rfl
theorem por a b c : Statement (.por a b c) := by cases b <;> exact of_trig rfl rfl
theorem pxor a b c : Statement (.pxor a b c) := by cases b <;> exact of_trig rfl rfl
theorem mul a b : Statement (.mul a b) := of_trig rfl rfl
theorem mulh a b : Statement (.mulh a b) := of_trig rfl rfl
theorem mulhU a b : Statement (.mulhU a b) := of_trig rfl rfl
theorem mad a b : Statement (.mad a b) := of_trig rfl rfl
theorem div a b : Statement (.div a b) := of_trig rfl rfl
theorem divU a b : Statement (.divU a b) := of_trig rfl rfl
theorem rem a b : Statement (.rem a b) := of_trig rfl rfl
theorem remU a b : Statement (.remU a b) := of_trig rfl rfl
theorem ldB a b : Statement (.ldB a b) := of_trig rfl rfl
theorem ldH a b : Statement (.ldH a b) := of_trig rfl rfl
theorem ldW a b : Statement (.ldW a b) := of_trig rfl rfl
theorem ldD a b : Statement (.ldD a b) := of_trig rfl rfl
theorem ldBz a b : Statement (.ldBz a b) := of_trig rfl rfl
theorem ldHz a b : Statement (.ldHz a b) := of_trig rfl rfl
theorem ldWz a b : Statement (.ldWz a b) := of_trig rfl rfl
theorem stB a b : Statement (.stB a b) := of_trig rfl rfl
theorem stH a b : Statement (.stH a b) := of_trig rfl rfl
theorem stW a b : Statement (.stW a b) := of_trig rfl rfl
theorem stD a b : Statement (.stD a b) := of_trig rfl rfl
theorem stDRel a b : Statement (.stDRel a b) := of_trig rfl rfl
theorem vld a b : Statement (.vld a b) := of_trig rfl rfl
theorem vst a b : Statement (.vst a b) := of_trig rfl rfl
theorem gld a b : Statement (.gld a b) := of_trig rfl rfl
theorem sct a b : Statement (.sct a b) := of_trig rfl rfl
theorem ldt a b : Statement (.ldt a b) := of_trig rfl rfl
theorem ldtV a b : Statement (.ldtV a b) := of_trig rfl rfl
theorem rdm a b : Statement (.rdm a b) := of_trig rfl rfl
theorem rdmS a b : Statement (.rdmS a b) := of_trig rfl rfl
theorem tkq a b : Statement (.tkq a b) := of_trig rfl rfl
theorem tkx a b : Statement (.tkx a b) := of_trig rfl rfl
theorem amoAdd a b : Statement (.amoAdd a b) := of_trig rfl rfl
theorem amoMin a b : Statement (.amoMin a b) := of_trig rfl rfl
theorem amoMax a b : Statement (.amoMax a b) := of_trig rfl rfl
theorem amoAnd a b : Statement (.amoAnd a b) := of_trig rfl rfl
theorem amoOr a b : Statement (.amoOr a b) := of_trig rfl rfl
theorem amoXor a b : Statement (.amoXor a b) := of_trig rfl rfl
theorem amoXchg a b : Statement (.amoXchg a b) := of_trig rfl rfl
theorem amoCas a b : Statement (.amoCas a b) := of_trig rfl rfl
theorem amoAddAcq a b : Statement (.amoAddAcq a b) := of_trig rfl rfl
theorem amoMinAcq a b : Statement (.amoMinAcq a b) := of_trig rfl rfl
theorem amoMaxAcq a b : Statement (.amoMaxAcq a b) := of_trig rfl rfl
theorem amoAndAcq a b : Statement (.amoAndAcq a b) := of_trig rfl rfl
theorem amoOrAcq a b : Statement (.amoOrAcq a b) := of_trig rfl rfl
theorem amoXorAcq a b : Statement (.amoXorAcq a b) := of_trig rfl rfl
theorem amoXchgAcq a b : Statement (.amoXchgAcq a b) := of_trig rfl rfl
theorem amoCasAcq a b : Statement (.amoCasAcq a b) := of_trig rfl rfl
theorem amoAddRel a b : Statement (.amoAddRel a b) := of_trig rfl rfl
theorem amoMinRel a b : Statement (.amoMinRel a b) := of_trig rfl rfl
theorem amoMaxRel a b : Statement (.amoMaxRel a b) := of_trig rfl rfl
theorem amoAndRel a b : Statement (.amoAndRel a b) := of_trig rfl rfl
theorem amoOrRel a b : Statement (.amoOrRel a b) := of_trig rfl rfl
theorem amoXorRel a b : Statement (.amoXorRel a b) := of_trig rfl rfl
theorem amoXchgRel a b : Statement (.amoXchgRel a b) := of_trig rfl rfl
theorem amoCasRel a b : Statement (.amoCasRel a b) := of_trig rfl rfl
theorem pref a b : Statement (.pref a b) := of_trig rfl rfl
theorem spb a b : Statement (.spb a b) := of_trig rfl rfl
theorem fla a b : Statement (.fla a b) := of_trig rfl rfl
theorem loc a b : Statement (.loc a b) := of_trig rfl rfl
theorem phaseT a b : Statement (.phaseT a b) := of_trig rfl rfl
theorem phaseG a b : Statement (.phaseG a b) := of_trig rfl rfl
theorem bar a b : Statement (.bar a b) := of_trig rfl rfl
theorem fence a b : Statement (.fence a b) := of_trig rfl rfl
theorem wait a b : Statement (.wait a b) := of_trig rfl rfl
theorem slns a b : Statement (.slns a b) := of_trig rfl rfl
theorem twns a b : Statement (.twns a b) := of_trig rfl rfl
theorem tstmp a b : Statement (.tstmp a b) := of_trig rfl rfl
theorem cycle a b : Statement (.cycle a b) := of_trig rfl rfl
theorem enq a b : Statement (.enq a b) := of_trig rfl rfl
theorem join a b : Statement (.join a b) := of_trig rfl rfl
theorem mode a b : Statement (.mode a b) := of_trig rfl rfl
theorem srd a b : Statement (.srd a b) := of_trig rfl rfl
theorem swr a b : Statement (.swr a b) := of_trig rfl rfl
theorem send a b : Statement (.send a b) := of_trig rfl rfl
theorem sendP a b : Statement (.sendP a b) := of_trig rfl rfl
theorem recv a b : Statement (.recv a b) := of_trig rfl rfl
theorem strm a b : Statement (.strm a b) := of_trig rfl rfl
theorem coll a b : Statement (.coll a b) := of_trig rfl rfl
theorem cpy a b : Statement (.cpy a b) := of_trig rfl rfl
theorem cpym a b : Statement (.cpym a b) := of_trig rfl rfl
theorem cpnest a b : Statement (.cpnest a b) := of_trig rfl rfl
theorem cpbuf a b : Statement (.cpbuf a b) := of_trig rfl rfl
theorem cpadv a b : Statement (.cpadv a b) := of_trig rfl rfl
theorem vadd a b : Statement (.vadd a b) := of_trig rfl rfl
theorem vaddS a b : Statement (.vaddS a b) := of_trig rfl rfl
theorem vsub a b : Statement (.vsub a b) := of_trig rfl rfl
theorem vsubS a b : Statement (.vsubS a b) := of_trig rfl rfl
theorem vmul a b : Statement (.vmul a b) := of_trig rfl rfl
theorem vmad a b : Statement (.vmad a b) := of_trig rfl rfl
theorem vand a b : Statement (.vand a b) := of_trig rfl rfl
theorem vor a b : Statement (.vor a b) := of_trig rfl rfl
theorem vxor a b : Statement (.vxor a b) := of_trig rfl rfl
theorem vshl a b : Statement (.vshl a b) := of_trig rfl rfl
theorem vshr a b : Statement (.vshr a b) := of_trig rfl rfl
theorem vshrA a b : Statement (.vshrA a b) := of_trig rfl rfl
theorem vmin a b : Statement (.vmin a b) := of_trig rfl rfl
theorem vmax a b : Statement (.vmax a b) := of_trig rfl rfl
theorem vabs a b : Statement (.vabs a b) := of_trig rfl rfl
theorem vcmpEq a b : Statement (.vcmpEq a b) := of_trig rfl rfl
theorem vcmpNe a b : Statement (.vcmpNe a b) := of_trig rfl rfl
theorem vcmpLt a b : Statement (.vcmpLt a b) := of_trig rfl rfl
theorem vcmpLe a b : Statement (.vcmpLe a b) := of_trig rfl rfl
theorem vcmpLtu a b : Statement (.vcmpLtu a b) := of_trig rfl rfl
theorem vcmpLeu a b : Statement (.vcmpLeu a b) := of_trig rfl rfl
theorem vsel a b : Statement (.vsel a b) := of_trig rfl rfl
theorem fadd a b c : Statement (.fadd a b c) := by cases b <;> exact of_trig rfl rfl
theorem fsub a b c : Statement (.fsub a b c) := by cases b <;> exact of_trig rfl rfl
theorem fmul a b c : Statement (.fmul a b c) := by cases b <;> exact of_trig rfl rfl
theorem ffma a b c : Statement (.ffma a b c) := by cases b <;> exact of_trig rfl rfl
theorem ffmaN a b c : Statement (.ffmaN a b c) := by cases b <;> exact of_trig rfl rfl
theorem ffms a b c : Statement (.ffms a b c) := by cases b <;> exact of_trig rfl rfl
theorem fmin a b c : Statement (.fmin a b c) := by cases b <;> exact of_trig rfl rfl
theorem fmax a b c : Statement (.fmax a b c) := by cases b <;> exact of_trig rfl rfl
theorem fabs a b c : Statement (.fabs a b c) := by cases b <;> exact of_trig rfl rfl
theorem fabsNeg a b c : Statement (.fabsNeg a b c) := by cases b <;> exact of_trig rfl rfl
theorem fabsSgn a b c : Statement (.fabsSgn a b c) := by cases b <;> exact of_trig rfl rfl
theorem fcmpEq a b c : Statement (.fcmpEq a b c) := by cases b <;> exact of_trig rfl rfl
theorem fcmpNe a b c : Statement (.fcmpNe a b c) := by cases b <;> exact of_trig rfl rfl
theorem fcmpLt a b c : Statement (.fcmpLt a b c) := by cases b <;> exact of_trig rfl rfl
theorem fcmpLe a b c : Statement (.fcmpLe a b c) := by cases b <;> exact of_trig rfl rfl
theorem fcmpUn a b c : Statement (.fcmpUn a b c) := by cases b <;> exact of_trig rfl rfl
theorem fcmpOrd a b c : Statement (.fcmpOrd a b c) := by cases b <;> exact of_trig rfl rfl
theorem fcvt a b c : Statement (.fcvt a b c) := by cases b <;> exact of_trig rfl rfl
theorem frnd a b c : Statement (.frnd a b c) := by cases b <;> exact of_trig rfl rfl
theorem vperm a b : Statement (.vperm a b) := of_trig rfl rfl
theorem vbcst a b : Statement (.vbcst a b) := of_trig rfl rfl
theorem vredAdd a b : Statement (.vredAdd a b) := of_trig rfl rfl
theorem vredMin a b : Statement (.vredMin a b) := of_trig rfl rfl
theorem vredMax a b : Statement (.vredMax a b) := of_trig rfl rfl
theorem vscanAdd a b : Statement (.vscanAdd a b) := of_trig rfl rfl
theorem vcmpx a b : Statement (.vcmpx a b) := of_trig rfl rfl
theorem vqnt a b : Statement (.vqnt a b) := of_trig rfl rfl
theorem vqntSr a b : Statement (.vqntSr a b) := of_trig rfl rfl
theorem vdqn a b : Statement (.vdqn a b) := of_trig rfl rfl
theorem vcvt a b : Statement (.vcvt a b) := of_trig rfl rfl
theorem ori2 a b : Statement (.ori2 a b) := of_trig rfl rfl
theorem ori3 a b : Statement (.ori3 a b) := of_trig rfl rfl
theorem incir a b : Statement (.incir a b) := of_trig rfl rfl
theorem insph a b : Statement (.insph a b) := of_trig rfl rfl
theorem segx a b : Statement (.segx a b) := of_trig rfl rfl
theorem gpst a b : Statement (.gpst a b) := of_trig rfl rfl
theorem sfn a b : Statement (.sfn a b) := of_trig rfl rfl
theorem sfrow a b : Statement (.sfrow a b) := of_trig rfl rfl
theorem sfld a b : Statement (.sfld a b) := of_trig rfl rfl
theorem sfcm a b : Statement (.sfcm a b) := of_trig rfl rfl
theorem mlda a b : Statement (.mlda a b) := of_trig rfl rfl
theorem mldb a b : Statement (.mldb a b) := of_trig rfl rfl
theorem mma a b : Statement (.mma a b) := of_trig rfl rfl
theorem mzro a b : Statement (.mzro a b) := of_trig rfl rfl
theorem mrd a b : Statement (.mrd a b) := of_trig rfl rfl
theorem mqrd a b : Statement (.mqrd a b) := of_trig rfl rfl
theorem bundleIssue a : Statement (.bundleIssue a) := of_none rfl
theorem streamEndEvent a : Statement (.streamEndEvent a) := of_none rfl
theorem resultLand a : Statement (.resultLand a) := of_none rfl
theorem resultArrive a b : Statement (.resultArrive a b) := of_none rfl
theorem linkWordArrive a b : Statement (.linkWordArrive a b) := of_none rfl
theorem linkCreditReturn a b : Statement (.linkCreditReturn a b) := of_none rfl
theorem linkCreditNotice a b : Statement (.linkCreditNotice a b) := of_none rfl
theorem linkMarkerArrive a b : Statement (.linkMarkerArrive a b) := of_none rfl
theorem codePageLoad a : Statement (.codePageLoad a) := of_none rfl
theorem codePagePrefetch a : Statement (.codePagePrefetch a) := of_none rfl
theorem spillEngineCycle a : Statement (.spillEngineCycle a) := of_none rfl
theorem spillTransferComplete a : Statement (.spillTransferComplete a) := of_none rfl
theorem syncOpComplete a : Statement (.syncOpComplete a) := of_none rfl
theorem barrierComplete a : Statement (.barrierComplete a) := of_none rfl
theorem checkpoint a : Statement (.checkpoint a) := of_none rfl
theorem readCacheFill a b : Statement (.readCacheFill a b) := of_none rfl
theorem tlbMissWalk a b c : Statement (.tlbMissWalk a b c) := of_none rfl
theorem pageWalkComplete a b : Statement (.pageWalkComplete a b) := of_none rfl
theorem invalAll a : Statement (.invalAll a) := of_none rfl
theorem invalPage a : Statement (.invalPage a) := of_none rfl
theorem replayAll a : Statement (.replayAll a) := of_none rfl
theorem failPage a : Statement (.failPage a) := of_none rfl
theorem tlbcmdDone a : Statement (.tlbcmdDone a) := of_none rfl
theorem loadAtTarget a b c : Statement (.loadAtTarget a b c) := of_none rfl
theorem amoAtSlice a b : Statement (.amoAtSlice a b) := of_none rfl
theorem postedStorePerform a b c : Statement (.postedStorePerform a b c) := of_none rfl
theorem peerAccessCheck a b c d : Statement (.peerAccessCheck a b c d) := of_none rfl
theorem peerStoreAck a b : Statement (.peerStoreAck a b) := of_none rfl
theorem peerRequestTimeout a b c : Statement (.peerRequestTimeout a b c) := of_none rfl
theorem ticketAllocate a b : Statement (.ticketAllocate a b) := of_none rfl
theorem ticketFetchComplete a b : Statement (.ticketFetchComplete a b) := of_none rfl
theorem redeemAtSlice a b : Statement (.redeemAtSlice a b) := of_none rfl
theorem redeemDeliver a b : Statement (.redeemDeliver a b) := of_none rfl
theorem ticketClassifyAtSlice a b : Statement (.ticketClassifyAtSlice a b) := of_none rfl
theorem ticketWatchdogPass a : Statement (.ticketWatchdogPass a) := of_none rfl
theorem enqAtSlice a b : Statement (.enqAtSlice a b) := of_none rfl
theorem joinAtSlice a b : Statement (.joinAtSlice a b) := of_none rfl
theorem handoverEnqueue a : Statement (.handoverEnqueue a) := of_none rfl
theorem dispenserSelect a : Statement (.dispenserSelect a) := of_none rfl
theorem reservationTake a : Statement (.reservationTake a) := of_none rfl
theorem tileRelease a : Statement (.tileRelease a) := of_none rfl
theorem gangRetire a : Statement (.gangRetire a) := of_none rfl
theorem gangFail a : Statement (.gangFail a) := of_none rfl
theorem recordCancel a b : Statement (.recordCancel a b) := of_none rfl
theorem unresponsiveTimeout a : Statement (.unresponsiveTimeout a) := of_none rfl
theorem quarantineEnd a : Statement (.quarantineEnd a) := of_none rfl
theorem gangStop a : Statement (.gangStop a) := of_none rfl
theorem gangResume a : Statement (.gangResume a) := of_none rfl
theorem ctlPark a : Statement (.ctlPark a) := of_none rfl
theorem ctlRelease a : Statement (.ctlRelease a) := of_none rfl
theorem ctlStop a : Statement (.ctlStop a) := of_none rfl
theorem supack a b : Statement (.supack a b) := of_none rfl
theorem queueDescriptorWrite a b c : Statement (.queueDescriptorWrite a b c) := of_none rfl
theorem mapWrite a b : Statement (.mapWrite a b) := of_none rfl
theorem mxOpStart a : Statement (.mxOpStart a) := of_none rfl
theorem mxLoadReady a : Statement (.mxLoadReady a) := of_none rfl
theorem mmaComplete a : Statement (.mmaComplete a) := of_none rfl
theorem gpOpComplete a : Statement (.gpOpComplete a) := of_none rfl
theorem sfOpComplete a : Statement (.sfOpComplete a) := of_none rfl
theorem copyJobStart a b : Statement (.copyJobStart a b) := of_none rfl
theorem copyJobEnd a b : Statement (.copyJobEnd a b) := of_none rfl
theorem cbSlotFilled a b : Statement (.cbSlotFilled a b) := of_none rfl
theorem collectiveComplete a : Statement (.collectiveComplete a) := of_none rfl
theorem sendAccepted a : Statement (.sendAccepted a) := of_none rfl
theorem messageArrive a : Statement (.messageArrive a) := of_none rfl
theorem streamWordArrive a b : Statement (.streamWordArrive a b) := of_none rfl
theorem slnsExpire a : Statement (.slnsExpire a) := of_none rfl
theorem waitComplete a : Statement (.waitComplete a) := of_none rfl
theorem waitTimeout a : Statement (.waitTimeout a) := of_none rfl
theorem weirAlarm a : Statement (.weirAlarm a) := of_none rfl
theorem weirStretchEnd a : Statement (.weirStretchEnd a) := of_none rfl
theorem weirHalveEnd a : Statement (.weirHalveEnd a) := of_none rfl
theorem powerInterval a : Statement (.powerInterval a) := of_none rfl
theorem tileClockChange a b : Statement (.tileClockChange a b) := of_none rfl
theorem flitCrcFail a b : Statement (.flitCrcFail a b) := of_none rfl
theorem moduleRetrain a b : Statement (.moduleRetrain a b) := of_none rfl
theorem retrainComplete a b : Statement (.retrainComplete a b) := of_none rfl
theorem boundaryRetrainCmd a b : Statement (.boundaryRetrainCmd a b) := of_none rfl
theorem memoryScrub a : Statement (.memoryScrub a) := of_none rfl
theorem imageLoad a : Statement (.imageLoad a) := of_none rfl
theorem imageUnload a : Statement (.imageUnload a) := of_none rfl
theorem mailboxDoorbell a : Statement (.mailboxDoorbell a) := of_none rfl
theorem jobCompletionNotice a : Statement (.jobCompletionNotice a) := of_none rfl
theorem attestationRequest a : Statement (.attestationRequest a) := of_none rfl
theorem boot : Statement .boot := of_none rfl
theorem tileReset a : Statement (.tileReset a) := of_none rfl
theorem moduleReset : Statement .moduleReset := of_none rfl
theorem readCacheEviction a b : Statement (.readCacheEviction a b) := of_none rfl
theorem syashPortStateChange a b : Statement (.syashPortStateChange a b) := of_none rfl
theorem syashLinkRetry a : Statement (.syashLinkRetry a) := of_none rfl
theorem scoreHalving a : Statement (.scoreHalving a) := of_none rfl

end Sys2Proof.Laws.OpcodeMap
end

