-- ==== Sys2Proof/Laws/Stops.lean ====
section
/-! SUPPORT. A bundle of one move that does not issue: the lock, a trap, a false guard. -/
namespace Sys2Proof.Machine

set_option maxHeartbeats 2000000 in
/-- Every move word runs its move. -/
theorem exec_actOf {i : Instr} {h : Head} {a : Act} (s : State) (hi : actOf i = some (h, a)) :
    exec i s = .next (s.runMove h a) := by
  cases i <;> first | (cases hi; rfl) | cases hi

theorem considers_iff {s : State} (hc : s.considers = true) :
    (s.tile s.cur).run = .running ∧ s.opening.boundary s.view = none ∧
      (s.opening.syncFault && s.opening.dfp && !s.opening.inh) = false := by
  simpa only [State.considers, Bool.and_eq_true, decide_eq_true_eq, Bool.not_eq_true', Option.isNone_iff_eq_none,
    and_assoc] using hc

/-- A bundle that is considered, by its locks and causes. -/
theorem solo_of_considers {s : State} (h : Head) (a : Act) (hc : s.considers = true) :
    s.opening.solo s.view h a =
      if s.locksOf h a ≠ 0 then
        s.opening.held s.view
          (heldCause s.view s.opening (s.found h a) s.opening.landings.2 (s.ctxOf h a) (s.moves h a)) (s.locksOf h a)
      else
        match firstCause s.view s.opening (s.found h a) s.opening.landings.2 (s.ctxOf h a) (s.moves h a) with
        | some x => s.opening.take s.view x
        | none =>
          match (firing (s.moves h a)).findSome? fun (m, x) => x.needPage (s.ctxOf h a m x) with
          | some p => .need p none
          | none => Tile.leave s.view (s.found h a) ((s.found h a).effects (s.ctxOf h a) false s.header (s.moves h a)) s.header
              (2 + h.src.literals.length) (flowOf (s.ctxOf h a) (s.moves h a)) := by
  obtain ⟨-, hb, hs⟩ := considers_iff hc
  unfold Tile.solo
  rw [hb]
  simp only
  unfold Tile.issue
  simp only [hs, Bool.false_eq_true, if_false]
  rfl

theorem runMove_solo {s : State} (h : Head) (a : Act) (hc : s.considers = true) :
    s.runMove h a =
      let v := match s.opening.solo s.view h a with
        | .next w => w
        | _ => s.opening
      s.ready.putTile s.cur { v with
        slns := countDown s.opening.slns v.slns, slnsH := countDown s.opening.slnsH v.slnsH } := by
  unfold State.runMove State.cycle
  rw [if_pos (considers_iff hc).1]
  rfl

theorem report_opening (s : State) : s.opening.report = (s.ready.tile s.cur).report := by
  have h := congrArg Tile.report (still_tick s.view (s.ready.tile s.cur))
  exact h

/-- A bundle that stays where it is. -/
theorem runMove_waits {s : State} {h : Head} {a : Act} (hc : s.considers = true)
    (hn : ∀ w, s.opening.solo s.view h a ≠ .next w) : s.runMove h a = s.waits := by
  rw [runMove_solo h a hc]
  have : (match s.opening.solo s.view h a with
        | .next w => w
        | _ => s.opening) = s.opening := by
    split
    · rename_i w hw; exact absurd hw (hn w)
    · rfl
  dsimp only
  rw [this]
  rw [putTile_eq]
  · rfl
  · exact report_opening s

/-- A bundle that leaves the tile as `w`, with no new report. -/
theorem runMove_next {s : State} {h : Head} {a : Act} {w : Tile} (hc : s.considers = true)
    (hn : s.opening.solo s.view h a = .next w) (hr : w.report = s.opening.report) :
    s.runMove h a = s.ready.setTile s.cur { w with
      slns := countDown s.opening.slns w.slns, slnsH := countDown s.opening.slnsH w.slnsH } := by
  rw [runMove_solo h a hc, hn]
  exact putTile_eq _ _ _ (hr.trans (report_opening s))

/-- A bundle that takes a trap takes it from the tile as it opened. -/
theorem solo_of_traps {s : State} {h : Head} {a : Act} {x : Trap} (ht : s.traps h a x = true) :
    s.considers = true ∧ s.opening.solo s.view h a = s.opening.take s.view x := by
  simp only [State.traps, Bool.and_eq_true, decide_eq_true_eq] at ht
  obtain ⟨hc, hx⟩ := ht
  refine ⟨hc, ?_⟩
  rw [solo_of_considers h a hc]
  unfold State.causeOf at hx
  split at hx
  · rename_i hl
    rw [hl, if_neg (by simp), hx]
  · rename_i hl
    rw [if_pos hl, hx, Tile.held]

/-- A locked bundle that nothing ends waits. -/
theorem solo_of_locked {s : State} {h : Head} {a : Act} (hc : s.considers = true) (hl : s.locksOf h a ≠ 0)
    (hn : s.causeOf h a = none) : s.opening.solo s.view h a = .locked (s.locksOf h a) := by
  unfold State.causeOf at hn
  rw [if_neg hl] at hn
  rw [solo_of_considers h a hc, if_pos hl, hn, Tile.held]

end Sys2Proof.Machine
end

