-- ==== Sys2Proof/Tests/Slice0.lean ====
section
/-! SUPPORT. The tests: ill-formed terms that each check refuses, words written out from the encodings, and for every
statement states that meet its hypotheses, with what one step then gives. Expected results are from the rules and tables
of the spec, or reckoned by hand from them. -/
open Sys2Proof Sys2Proof.Machine Sys2Proof.Claims
set_option maxRecDepth 100000
set_option Elab.async false

namespace Sys2Proof.Tests

/-! ### States -/

/-- A tile that runs, with a scratchpad of 256 KiB. -/
def tile : Tile := { Tile.reset with run := .running, spadk := 256 }
/-- The module with tile 0 as given. -/
def on (t : Tile) : State := { State.reset with tiles := [(0, t)] }
/-- The boot has ended: the service cores run. -/
def live (s : State) : State := { s with dev := { s.dev with sec := { s.dev.sec with booted := 3 } } }
/-- The tile with one operand entry set. -/
def entryOn (t : Tile) (k : Sock) (p : Nat) (e : Bool) (x : W64) : Tile :=
  { t with opnd := vput t.opnd (opndIdx k p e) (.ofScalar x) }
/-- The tile with v1 tagged. -/
def tagged (t : Tag) : Tile := { tile with v := vput tile.v 1 ⟨0, t, 0⟩ }
/-- The tile with doubles at offset 64 of its scratchpad. -/
def card (l : List W64) : Tile := { tile with spm := Mem.write [] 64 (l.flatMap (bytesOf 8)) }
/-- Heads: an immediate on S0, v1 on V0, v1 under the lane guard q1, MX's result on M0. -/
def imm (x : BitVec 9) : Head := ⟨.s0, 0, .imm x⟩
def hv : Head := ⟨.v0, 0, .v 1⟩
def hq : Head := ⟨.v0, 9, .v 1⟩
def hm : Head := ⟨.m0, 0, .res .mx false⟩
def lit (x : BitVec 31) : Head := ⟨.s0, 0, .lit 0 x .zx31⟩
/-- The state an instruction leaves. -/
def run (i : Instr) (s : State) : State := after s (exec i s)
/-- It is the next state of the step, and not a stop. -/
def goes (i : Instr) (s : State) : Bool :=
  match exec i s with
  | .next _ => true
  | _ => false

/-! ### Well-formedness (02 R30 to R32, 04 R82 to R90) -/

theorem test_wf_good : (Instr.add (imm 5) false false).wf = true := by decide
/-- A v register cannot ride an S bus (R31). -/
theorem test_wf_source_bus : (Instr.move ⟨.s0, 0, .v 1⟩ (.g 1)).wf = false := by decide
/-- Nor a g register a V bus. -/
theorem test_wf_source_vector : (Instr.move ⟨.v0, 0, .g 1⟩ (.v 1)).wf = false := by decide
/-- A g register is no destination of a V bus. -/
theorem test_wf_dest_bus : (Instr.move ⟨.v0, 0, .v 1⟩ (.g 1)).wf = false := by decide
/-- PC is never a destination (R90). -/
theorem test_wf_pc : (Instr.move (imm 5) (.spec .pc)).wf = false := by decide
/-- A two-word literal at index 6 has no second word (R84). -/
theorem test_wf_literal : (Instr.move ⟨.s0, 0, .lit 6 0 (.sx62 0)⟩ (.g 1)).wf = false := by decide
/-- IA's trigger takes an S bus only (R388). -/
theorem test_wf_trigger : (Instr.add ⟨.c0, 0, .imm 5⟩ false false).wf = false := by decide
/-- IA has no port O2 (R89). -/
theorem test_wf_port : (Instr.move (imm 5) (.opnd .ia0 2 false)).wf = false := by decide
/-- CU gives no res2 (R30). -/
theorem test_wf_result : (Instr.move ⟨.s0, 0, .res .ia0 true⟩ (.g 1)).wf = false := by decide
/-- There are 16,384 tiles, 64 clusters, 1,024 slices, 10 boundaries. -/
theorem test_wf_agents : ([Instr.bundleIssue 16384, .invalAll 64, .memoryScrub 1024, .moduleRetrain 10 0, .moduleRetrain 0 48,
    .weirAlarm 1024, .supack 0 0, .supack 0 65, .tlbMissWalk 0 0 32, .ticketFetchComplete 0 2048, .recordCancel 256 0,
    .mailboxDoorbell 4, .syashLinkRetry 24, .streamWordArrive 0 6, .linkWordArrive 0 4].all fun i => !i.wf) = true := by decide

/-! ### Decoding (04 R77 to R96): words written out field by field, one for each socket -/

/-- A trigger word: guard, short immediate, socket, E, opcode. -/
def trigWord (k : BitVec 5) (e : BitVec 1) (opc : BitVec 6) : Nat :=
  (0#1 ++ 0#5 ++ (2#3 ++ 0x40#9) ++ (3#2 ++ k ++ e ++ opc) : W32).toNat

theorem test_decode_triggers :
    [(0, 0x06), (1, 0x1B), (2, 0x15), (3, 0x05), (4, 0x37), (5, 0x0B), (6, 0x02), (7, 0x03), (12, 0x10), (13, 0x02),
      (14, 0x05)].map (fun x => decodeTableWord 32 (trigWord (BitVec.ofNat 5 x.1) 1 (BitVec.ofNat 6 x.2))) =
    [some (.trap (imm 64) true), some (.bext (imm 64) false true), some (.cmpLeu (imm 64) true true),
      some (.divU (imm 64) true), some (.amoCasRel (imm 64) true), some (.mode (imm 64) true), some (.recv (imm 64) true),
      some (.cpbuf (imm 64) true), some (.gpst (imm 64) true), some (.sfld (imm 64) true),
      some (.mqrd (imm 64) true)] := by decide +kernel

/-- VA, VF and VX: v1 on V0. -/
theorem test_decode_vector :
    [(8, 0x18), (9, 0x03), (10, 0x19), (11, 0x09)].map (fun x => decodeTableWord 32
      (0#1 ++ 0#5 ++ (4#3 ++ 0#4 ++ 1#5) ++ (3#2 ++ BitVec.ofNat 5 x.1 ++ 0#1 ++ BitVec.ofNat 6 x.2) : W32).toNat) =
    [some (.vsel hv false), some (.ffma hv false false), some (.frnd hv true false),
      some (.vdqn hv false)] := by decide +kernel

/-- The examples of R95 and R403: `g7 -> ia1.cmp.ltu.e1` is 0x0001F154, `au.amo.cas.rel.e0` has DST 0x3237. -/
theorem test_decode_examples :
    decodeTableWord 32 0x0001F154 = some (.cmpLtu ⟨.s0, 0, .g 7⟩ true true) ∧
    decodeTableWord 32 0x0000F184 = some (.div ⟨.s0, 0, .g 3⟩ false) ∧
    decodeTableWord 32 0x0000A180 = some (.move ⟨.s0, 0, .g 2⟩ (.opnd .im 0 false)) ∧
    (decodeTableWord 32 0x00003237).map Instr.word = some (some 0x00003237) := by decide +kernel

/-- The bundle of R403: header 0xE0000000, two moves on S0 and S1. -/
theorem test_decode_bundle :
    (decodeBundle [0xE0000000, 0x00012110, 0x0001F154]).toOption = some ⟨3, false, 0,
      [.move ⟨.s0, 0, .g 4⟩ (.opnd .ia1 0 true), .cmpLtu ⟨.s1, 0, .g 7⟩ true true]⟩ := by decide +kernel
/-- The check code and the word offset of a bundle that is refused. -/
def refusal (ws : List W32) : Option (Nat × Nat) :=
  match decodeBundle ws with
  | .error x => some x
  | .ok _ => none
/-- Check codes 2, 3, 4, 5, 6, 7, 8, 10, 11 and 12 of R96. -/
theorem test_decode_refusals :
    refusal [0xC0000000] = some (2, 0) ∧ refusal [0xC0000000, 0x80000000] = some (3, 0) ∧
    refusal [0xC0000001, 0] = some (4, 0) ∧
    refusal [0xC0000000, (0#1 ++ 0#5 ++ (2#3 ++ 5#9) ++ (1#2 ++ 0#12) : W32)] = some (5, 1) ∧
    refusal [0xC0000000, (0#1 ++ 0#5 ++ (2#3 ++ 5#9) ++ (3#2 ++ 15#5 ++ 0#7) : W32)] = some (6, 1) ∧
    refusal [0xC0000000, (0#1 ++ 0#5 ++ (2#3 ++ 5#9) ++ (3#2 ++ 1#5 ++ 0#1 ++ 0x0E#6) : W32)] = some (7, 1) ∧
    refusal [0xC0000000, (0#1 ++ 0#5 ++ (0#3 ++ 1#3 ++ 0#6) ++ 4#14 : W32)] = some (8, 1) ∧
    refusal [0xE0000000, 0x00004004, 0x00008004] = some (11, 2) ∧
    refusal [0xE0000000, 0x00008004, 0x00010005] = some (12, 2) := by decide +kernel

/-- R81 to R90: encode and decode agree on one move of each shape. -/
theorem witness_DecodeOfEncode :
    ([Instr.move ⟨.s2, 31, .lit 5 5 (.sx62 7)⟩ (.opnd .cu 0 true), .move hq (.v 31), .move hm .spr, .vst ⟨.c0, 3, .g 63⟩ true,
      .ffms hv true false].all fun i => i.wf && match i.head? with
        | some h => decide ((decodeBundle (encode i)).toOption =
            some ⟨2 + h.src.literals.length, false, h.src.literals.length, [i]⟩)
        | none => false) = true := by decide +kernel
theorem witness_EncodeOfDecode :
    (decodeMove [1, 2] .s1 0x0001F154).toOption = some (.cmpLtu ⟨.s1, 0, .g 7⟩ true true) ∧ (0x0001F154 : W32).getLsbD 31 = false := by
  decide +kernel

/-! ### Scalar and vector operations -/

theorem witness_IaResults : (ia.all fun x => (on tile).completes (x.1 (imm 8) true true)) = true := by decide +kernel
theorem witness_ImResults : (im.all fun x => (on tile).completes (x.1 (imm 8) true)) = true := by decide +kernel
theorem witness_VaResults : (va.all fun x => (on (tagged .i32)).completes (x.1 hv true)) = true := by decide +kernel
theorem witness_VectorBits : (vbit.all fun x => (on (tagged .i32)).completes (x.1 hq true)) = true := by decide +kernel
theorem witness_VectorCompares : (vcmp.all fun x => (on (tagged .ui8)).completes (x.1 hv true)) = true := by decide +kernel
theorem witness_VectorSelect : (on tile).completes (.vsel (imm 8) true) = true := by decide +kernel
theorem witness_VfResults : (vf.all fun x => (on (tagged .fp32)).completes (x.1 hv true true)) = true := by decide +kernel
theorem witness_VfCompares : (fcmp.all fun x => (on (tagged .fp64)).completes (x.1 hv false true)) = true := by decide +kernel
theorem witness_VfConversions :
    (on (entryOn (tagged .fp32) .vf0 0 true 12)).completes (.fcvt hv false true) = true ∧
    (on (tagged .fp16)).completes (.frnd hv true true) = true := by decide +kernel
theorem witness_VxPermutes : ([Instr.vperm hv true, .vbcst (imm 8) true, .vcmpx hv true].all
    (on (tagged .i16)).completes) = true := by decide +kernel
theorem witness_VxReductions : (vred.all fun x => [Tag.fp16, .i8].all fun t =>
    (on (tagged t)).completes (x.1 hv true)) = true := by decide +kernel
theorem witness_VxScan : ([Tag.fp32, .i64].all fun t => (on (tagged t)).completes (.vscanAdd hv true)) = true := by decide +kernel
theorem witness_VxConversions :
    (on (entryOn (tagged .fp32) .vx 0 true 0x83)).completes (.vqnt hv true) = true ∧
    (on (entryOn (tagged .bf16) .vx 0 true 0x22)).completes (.vqntSr hv true) = true ∧
    (on (entryOn (tagged .bfm8) .vx 0 true 12)).completes (.vdqn hv true) = true ∧
    (on (entryOn (tagged .i8) .vx 0 true 3)).completes (.vcvt hv true) = true := by decide +kernel

/-- What is on its way at fixed-latency socket `k` after one move. -/
def sent (i : Instr) (t : Tile) (k : Nat) : List W64 := (((run i (on t)).tile 0).fixedAt k).pipe.map fun x => x.val.lo

/-- O0 = 0xABCD and T = 0x8804: BEXT gives 0xFF..FBC (R399's table); BINS with O1 = 0x12 and T = 0x0804 0xA12D. -/
theorem test_bext : sent (.bext (lit 0x8804) false true) (entryOn tile .ia0 0 true 0xABCD) 1 = [0xFFFFFFFFFFFFFFBC] := by
  decide +kernel
theorem test_bins : sent (.bins (lit 0x0804) false true) (entryOn (entryOn tile .ia0 0 true 0xABCD) .ia0 1 true 0x12) 1 =
    [0xA12D] := by decide +kernel
/-- MULH of 0x4000_0000_0000_0000 by 4 is 1 (R443's table); the least number divided by −1 wraps (R411). -/
theorem test_mulh : sent (.mulh (imm 4) true) (entryOn tile .im 0 true 0x4000000000000000) 3 = [1] := by decide +kernel
theorem test_div : sent (.div (imm 0x1FF) true) (entryOn tile .im 0 true 0x8000000000000000) 3 = [0x8000000000000000] := by
  decide +kernel
theorem test_rem_zero : sent (.rem (imm 0) true) (entryOn tile .im 0 true 77) 3 = [77] := by decide +kernel
/-- 0xFFFF_FFFF_FFFF_FFFF is not below 1 unsigned (R403's table). -/
theorem test_cmp_ltu : sent (.cmpLtu (imm 1) true true) (entryOn tile .ia1 0 true (BitVec.allOnes 64)) 2 = [0] ∧
    sent (.cmpLt (imm 1) true true) (entryOn tile .ia1 0 true (BitVec.allOnes 64)) 2 = [1] := by decide +kernel
/-- SUB: the trigger is the subtrahend (R470). -/
theorem test_sub : sent (.sub (imm 3) false false) (entryOn tile .ia0 0 false 10) 1 = [7] := by decide +kernel
/-- 1.0 + 1.0 is 2.0 in every FP32 lane (06 R121). -/
theorem test_fadd : sent (.fadd hv false false)
    { entryOn tile .vf0 0 false 0x3F8000003F800000 with v := vput tile.v 1 ⟨0x3F800000, .fp32, 0⟩ } 5 =
      [0x3F80000040000000] := by decide +kernel
/-- I8 addition saturates at 127 (R479): 100 + 100. -/
theorem test_vadd_s : sent (.vaddS hv false) { entryOn tile .va 0 false 100 with v := vput tile.v 1 ⟨100, .i8, 0⟩ } 4 =
    [127] := by decide +kernel

/-! ### Plain moves -/

theorem witness_MoveWritesG : ([0, 31, 63].all fun i => (on tile).completes (.move (imm 8) (.g (BitVec.ofNat 6 i)))) = true := by
  decide +kernel
theorem witness_MoveWritesV : (on (tagged .i32)).completes (.move hv (.v 31)) = true ∧
    (on (tagged .i32)).completes (.move hq (.v 0)) = true ∧ (on tile).gateOf hv = .all ∧
    (match (on tile).gateOf hq with
      | .lanes _ _ => true
      | _ => false) = true := by decide +kernel
theorem witness_MoveWritesPairs :
    ([0, 1, 2, 15].all fun i => (on tile).completes (.move (imm 8) (.p (BitVec.ofNat 4 i)))) = true ∧
    ([0, 7].all fun i => (on tile).completes (.move (imm 8) (.q (BitVec.ofNat 3 i)))) = true ∧
    (on (tagged .pred)).completes (.move hq (.q 7)) = true := by decide +kernel
theorem witness_MoveWritesSpecial :
    ([SReg.rrc, .flm, .fpc, .tvec, .tpc, .tcause, .taddr, .tstat, .tid, .gid, .grank, .gshape, .phn, .wth, .lnkstat, .lc 0,
      .lc 3, .le 3, .ls 0].all fun r => (on tile).completes (.move (imm 8) (.spec r))) = true := by decide +kernel
theorem witness_MoveWritesPorts :
    ([Dir.w, .e, .n, .s].all fun d =>
      ({ State.reset with tiles := [(129, tile)], cur := 129 } : State).completes (.move (imm 8) (.link d))) = true ∧
    (on tile).completes (.move hm .spr) = true ∧ ((on tile).read hm).spm.wf = true := by decide +kernel
theorem witness_MoveWritesEntry : (on tile).completes (.move (imm 8) (.opnd .au 1 true)) = true ∧
    (on tile).completes (.move hm (.opnd .mx 3 true)) = true ∧
    (on (tagged .i8)).completes (.move hq (.opnd .va 1 true)) = true := by decide +kernel

/-- LD from 33 to 63 stores 32 (05 R101); a write to g0 is ignored; a p pair takes the complement. -/
theorem test_rrc : ((run (.move (lit 0x3F1F) (.spec .rrc)) (on tile)).tile 0).rrc = 0x201F := by decide +kernel
theorem test_g0 : ((run (.move (imm 8) (.g 0)) (on tile)).tile 0).gRead 0 = 0 := by decide +kernel
theorem test_pair : let t := (run (.move (imm 1) (.p 7)) (on tile)).tile 0
    t.p.getLsbD 7 = true ∧ t.p.getLsbD 6 = false := by decide +kernel

/-! ### Guards, locks, traps and control -/

/-- The tile with a handler at offset 64 of its page, in frame 0. -/
def handled : Tile := { tile with tvec := 65, frames := vput tile.frames 0 ⟨some (0, 0), [(67, 0x80)], 0⟩ }

theorem witness_FalseGuardHasNoEffect :
    actOf (.add ⟨.s0, 16, .imm 8⟩ true true) = some (⟨.s0, 16, .imm 8⟩, .trig (addSpec true true)) ∧
    (on tile).gateOf ⟨.s0, 16, .imm 8⟩ = .off ∧ (on tile).considers = true ∧
    (on tile).opening.landings.1.boundLocks (on tile).view false = 0 ∧ (on tile).opening.landings.2 = [] ∧
    (on tile).opening.mxError = false := by
  refine ⟨rfl, ?_⟩
  decide +kernel
/-- AU's queue is empty, and `au.res` is read (02 R46). -/
theorem witness_LockedBundleWaits : (on tile).considers = true ∧
    (on tile).locksOf ⟨.s0, 0, .res .au false⟩ (.plain (.g 1)) ≠ 0 := by decide +kernel
/-- A load of 8 bytes at address 4 traps with code 0x06 (R431). -/
theorem witness_TrapEntersHandler :
    (match firstCause (on handled).view (on handled).opening (on handled).landed (on handled).opening.landings.2
        ((on handled).ctxOf (imm 4) (.trig (ldDSpec true))) ((on handled).moves (imm 4) (.trig (ldDSpec true))) with
      | some x => (on handled).traps (imm 4) (.trig (ldDSpec true)) x && x.code == 0x06
      | none => false) = true ∧
    (on handled).opening.inh = false ∧ (on handled).opening.tvec.getLsbD 0 = true ∧
    ((on handled).opening.codeWord (bitsN (on handled).opening.tvec 2 28 * 4)).any (·.getLsbD 31) = true := by decide +kernel
theorem witness_TrapWithoutHandlerParks :
    ([tile, { handled with tstat := 0x8000000000000000 }].all fun t =>
      (match firstCause (on t).view (on t).opening (on t).landed (on t).opening.landings.2
          ((on t).ctxOf (imm 4) (.trig (ldDSpec true))) ((on t).moves (imm 4) (.trig (ldDSpec true))) with
        | some x => (on t).traps (imm 4) (.trig (ldDSpec true)) x && x.code == 0x06
        | none => false) && ((on t).tile 0).report.isNone &&
        ((on t).opening.inh || !(on t).opening.tvec.getLsbD 0)) = true := by decide +kernel
/-- The trap registers after it (R334): invalid operand of AU; the handler runs. -/
theorem test_trap : let t := (run (.ldD (imm 4) true) (on handled)).tile 0
    t.inh = true ∧ bitsN t.tcause 0 8 = 6 ∧ bitsN t.tcause 10 5 = 4 ∧ t.pc = 64 ∧ t.tpc = 0 := by decide +kernel
theorem test_trap_parks : let t := (run (.ldD (imm 4) true) (on tile)).tile 0
    t.run = .parked ∧ t.report.map (·.w1) = some 0x32 := by decide +kernel

theorem witness_ControlTransfers : ([Instr.br (imm 8) true, .jmp (imm 8) true, .ret (imm 8) true, .call (imm 8) true].all
    (on tile).completes) = true := by decide +kernel
/-- An image of one page, for the code length. -/
def imaged (t : Tile) : State := (on t).setImage 0 { Image.reset with v := true, npages := 1 }
theorem witness_LoopPushes : (on tile).landed.ok = true ∧ ([0, 1, 255].all fun c =>
    (imaged (entryOn handled .cu 0 true 8)).completes (.loop (imm c) true)) = true ∧
    (imaged tile).view.codeLen = 4096 := by decide +kernel
theorem test_loop : let t := (run (.loop (imm 3) true) (imaged (entryOn handled .cu 0 true 8))).tile 0
    vget 0 t.lc 0 = 0x8000000000000003 ∧ vget 0 t.le 0 = 8 := by decide +kernel
theorem witness_EndDrains : (on tile).completes (.endTile (imm 8) true) = true := by decide +kernel
theorem test_end : ((run (.endTile (imm 8) true) (on tile)).tile 0).run = .draining := by decide +kernel
theorem witness_SoftwareTrap : (on handled).completes (.trap (imm 8) true) = true ∧ (on handled).landed.inh = false ∧
    (on handled).landed.tvec.getLsbD 0 = true ∧
    ((on handled).landed.codeWord (bitsN (on handled).landed.tvec 2 28 * 4)).any (·.getLsbD 31) = true := by decide +kernel
/-- The handler runs. -/
def inHandler : Tile := { handled with tstat := 0x8000000000000000, tpc := 40 }
theorem witness_TrapReturns : (on inHandler).completes (.tret (imm 8) true) = true ∧ (on inHandler).landed.resTrap = false := by
  decide +kernel
theorem test_tret : let t := (run (.tret (imm 8) true) (on inHandler)).tile 0
    t.inh = false ∧ t.pc = 40 := by decide +kernel
/-- The handler of a load that faulted at its result. -/
def resolving (rsol : W64) : Tile :=
  { inHandler with
    resTrap := true, tstat := inHandler.tstat ||| (rsol <<< 61), tcause := 0x1010
    queues := vput tile.queues 0 [⟨7, true, .zero, true, .zero, 0, false, false, .i64, .zero⟩] }
theorem witness_TrapReturnResolves : ([0, 1, 2, 3].all fun r =>
    (on (resolving r)).completes (.tret (imm 8) true) && (on (resolving r)).landed.resTrap &&
    resultCode (bitsN (on (resolving r)).landed.tcause 0 8) &&
    decide (Sock.ofNum ((on (resolving r)).landed.tcause.extractLsb' 10 5) = some .au) &&
    decide ((on (resolving r)).landed.rsol = r.toNat) &&
    decide ((((on (resolving r)).read (imm 8)).queue 0).filter (fun p => !p.hp) =
      [⟨7, true, .zero, true, .zero, 0, false, false, .i64, .zero⟩])) = true := by decide +kernel

/-! ### Moves that enter queues -/

def laneMask : W64 := 0x10000000C
def indexed : Tile := { entryOn tile .au 0 true laneMask with
  opnd := vput (entryOn tile .au 0 true laneMask).opnd (opndIdx .au 1 true) ⟨0, .i32, 0⟩ }

theorem witness_LoadsEnter : (loads.all fun x => (on tile).completes (x.1 (imm 128) true)) = true ∧
    (on tile).completes (.vld (imm 128) true) = true ∧
    (on (entryOn tile .au 0 true 19)).completes (.vld (imm 0) true) = true ∧
    (on indexed).completes (.gld (imm 128) true) = true := by decide +kernel
theorem witness_AtomicsEnter : (amos.all fun x => (on tile).completes (x.1 (imm 128) true)) = true := by decide +kernel
theorem witness_StoresEnter : (stores.all fun x => (on tile).completes (x.1 (imm 128) true)) = true ∧
    (on tile).completes (.vst (imm 128) true) = true ∧ (on indexed).completes (.sct (imm 128) true) = true ∧
    (on tile).completes (.pref (imm 3) true) = true := by decide +kernel
theorem witness_TicketRequestsEnter : ([Instr.rdm (imm 0) true, .rdmS (imm 8) true, .tkq (imm 8) true, .tkx (imm 8) true].all
    (on tile).completes) = true := by decide +kernel
theorem witness_SpillsEnter : ([Instr.spb (imm 1) true, .fla (imm 1) true, .spb (lit 0x10001) true].all
    (on tile).completes) = true := by decide +kernel
theorem witness_SyncsEnter : ([Instr.phaseT (imm 8) true, .phaseG (imm 8) true, .bar (imm 8) true, .fence (imm 8) true].all
    (on tile).completes) = true := by decide +kernel
theorem witness_WaitsAndTime : ([Instr.slns (imm 8) true, .twns (imm 0) true, .tstmp (imm 8) true, .cycle (imm 8) true,
    .wait (imm 1) true].all (on tile).completes) = true := by decide +kernel
theorem witness_TasksEnter : (on tile).completes (.enq (imm 255) true) = true ∧ (on tile).completes (.join (imm 64) true) = true := by
  decide +kernel
theorem witness_ModeAndWindow : ([Instr.mode (imm 2) true, .srd (lit 0x75010) true, .swr (lit 0x75010) true].all
    (on tile).completes) = true := by decide +kernel
/-- A collective card: all-gather of one I32, source 256, destination 512. -/
def collCard : List W64 := [0x2018000000000001, 0, 256, 512]
theorem witness_ChannelsEnter : ([Instr.send (imm 0) true, .sendP ⟨.s0, 0, .lit 0 1 .sh31⟩ true, .sendP (imm 0) true,
    .recv (imm 8) true, .strm (imm 5) true, .coll (imm 64) true].all (on (card collCard)).completes) = true := by decide +kernel
theorem witness_recv_takes : let s := on { tile with inbox := [⟨0, []⟩] }
    s.completes (.recv (imm 8) true) = true ∧ (s.read (imm 8)).inbox = [⟨0, []⟩] := by decide +kernel
/-- Buffer 0: two slots of 128 bytes, one taken and `n` of the other filled. -/
def buffered (n : Nat) : Tile :=
  { tile with cbufs := vput tile.cbufs 0 ⟨0x10010, 1 - n, n, 1, 0, 0, 0, 0, 0, []⟩ }
theorem witness_CopiesEnter :
    ([Instr.cpy (imm 64) true, .cpnest (imm 0) true].all (on tile).completes) = true ∧
    (on (card [0, 0, 0, 0, 0, 0, 0, 0x80])).completes (.cpym (imm 64) true) = true ∧
    (on (card [])).completes (.cpbuf (lit 0x10010) true) = true ∧
    ([0, 1].all fun n => [8, 4, 12].all fun x => (on (buffered n)).completes (.cpadv (imm x) true)) = true := by decide +kernel
theorem witness_UnitsEnter :
    ([Instr.ori2 (imm 0) true, .ori3 (imm 0) true, .incir (imm 0) true, .insph (imm 0) true, .segx (imm 0) true,
      .gpst (imm 0) true, .sfld (imm 0) true, .sfcm (imm 3) true].all (on tile).completes) = true ∧
    (on (tagged .fp32)).completes (.sfn hv true) = true ∧
    (on (entryOn tile .sf 0 true 0xB0001)).completes (.sfrow (imm 0) true) = true := by decide +kernel
theorem witness_MatrixOpsEnter : ([Instr.mlda (imm 0x80) true, .mldb (imm 0x80) true, .mma (imm 0) true, .mzro (imm 0) true,
    .mzro (imm 15) true, .mrd (imm 0) true, .mqrd (lit 0x2000) true].all (on tile).completes) = true := by decide +kernel

/-! ### Bundles, pipelines and engines -/

/-- A program of one bundle of one move: 64 -> ia0.add.e1. -/
def stocked (s : State) : State := s.withFetchWord 32 0x011030C0

theorem witness_BundleIssueRunsTheMove : (stocked (on tile)).waitingMove = some (.add (imm 64) false true) := by decide +kernel

/-- A result of IA0 due, and MX at its work, in free-running and in data-locked mode. -/
def due (flm : W64) (unread : Bool) (op : MxOp) : Tile :=
  { tile with
    flm := flm, nb := 8
    fixed := vput tile.fixed 1 ⟨⟨.ofScalar 1, unread, 0, true, 0, false, .zero⟩,
      [.fresh 3 0 (.ofScalar 2) 0 0, .fresh 8 1 (.ofScalar 3) 0 0, .fresh 9 2 (.ofScalar 4) 0 0], none, []⟩
    mx := { tile.mx with load := some ⟨op, 7, 8, Vector.replicate 8 (.ofScalar 5), false⟩ } }
def dueLoads : List MxOp := [.mlda true 8 0, .mldb false 8 false 0 [] none false]
def dueMx : Tile := { due 0 false (.mzro 1) with
  mx := { tile.mx with queue := [⟨0, 1, .mzro 1⟩], runs := [⟨1, .launch, .launch, false, false, 0, 4, 7⟩] } }

/-- A bundle that waits for `au.res`, with a data-lock collision due at IA0 (02 R40). -/
theorem witness_LockedBundleEnds : let s := on (due 2 true (.mzro 0))
    let h : Head := ⟨.s0, 0, .res .au false⟩
    s.considers = true ∧ s.locksOf h (.plain (.g 1)) ≠ 0 ∧ overrun s.opening.landings.2 (s.moves h (.plain (.g 1))) = true ∧
    (earlyCause s.opening s.landed (s.moves h (.plain (.g 1)))).isNone = true := by decide +kernel
theorem witness_BundleStartEvents :
    ([due 0 false, due 2 false, due 2 true].all fun t => dueLoads.all fun op =>
      (stocked (on (t op))).unlocked 0 && ((t op).mx.loadDue 8).isSome) = true ∧
    (stocked (on dueMx)).unlocked 0 = true ∧ (dueMx.landings.1.mx.dueStart 8).isSome = true ∧
    dueMx.mx.runs.any (fun r => decide (r.done ≤ 8)) = true := by decide +kernel
theorem test_landing :
    [(0, false), (2, false), (2, true)].map (fun x : W64 × Bool =>
      (((run (.resultLand 0) (stocked (on (due x.1 x.2 (.mzro 0))))).tile 0).fixedAt 1).port.val.lo) = [3, 2, 1] := by
  decide +kernel

/-- Spill transfers of g5: out, in, and done. -/
def spilling (fill : Bool) (pos : Nat) : Tile :=
  { tile with g := vput tile.g 5 9, spm := [(64, 7)], spill := [⟨0, fill, false, 64, [some 5], [some 9], pos, false⟩] }
theorem witness_EngineEvents_spill : ([false, true].all fun f =>
    (spilling f 0).pre.isNone && (spilling f 0).spm.wf && !(spilling f 0).spmBad 64 8) = true := by decide +kernel
theorem test_spill :
    ((run (.spillEngineCycle 0) (on (spilling false 0))).tile 0).spm.read 64 8 = [9, 0, 0, 0, 0, 0, 0, 0] ∧
    vget 0 ((run (.spillEngineCycle 0) (on (spilling true 0))).tile 0).g 5 = 7 ∧
    ((run (.spillTransferComplete 0) (on (spilling true 1))).tile 0).spill = [] := by decide +kernel
/-- A GP operation, running until cycle 3, with and without a fault. -/
def gpRun (f : Option FaultRep) : Tile :=
  { tile with cyc := 2, gp := { tile.gp with run := some ⟨⟨0, 0, 0, 0, false, false, 0, 0, 0⟩, 3, .ofScalar 1, 0, f⟩ } }
theorem witness_EngineEvents_gp : ((run (.gpOpComplete 0) (on (gpRun none))).tile 0).gp.run = none ∧
    ((run (.gpOpComplete 0) (on (gpRun (some .zero)))).tile 0).gp.run = none := by decide +kernel
/-- SF operations: SFN of an FP32 row; SFLD of bytes that are no package; one on a bad scratchpad double. -/
def sfOn (opc : BitVec 6) (bad : List Nat) : Tile :=
  { tile with badSpm := bad, sf := { tile.sf with queue := [⟨0, 0, opc, ⟨0, .fp32, 0⟩, 0, 0, 0, false⟩] } }
theorem witness_EngineEvents_sf :
    ([sfOn 0 [], sfOn 2 [], sfOn 2 [0]].all fun t => match t.sf.queue with
      | op :: _ => !t.storeOpen 0 (op.range t).1 (op.range t).2 op.nb
      | [] => false) = true ∧
    (match (sfOn 2 [0]).sf.queue with
      | op :: _ => (sfOn 2 [0]).spmBad (op.range (sfOn 2 [0])).1 (op.range (sfOn 2 [0])).2
      | [] => false) = true := by decide +kernel
/-- Whether the signature of a package passes is a free value (log 9): each of the two clauses of SFLD is met or not. -/
theorem witness_EngineEvents_package : pkgVerified (sfOn 2 []).spm 0 = true ∨ pkgVerified (sfOn 2 []).spm 0 = false :=
  Bool.eq_false_or_eq_true _
theorem witness_EngineEvents_slns : ({ tile with slns := 1 } : Tile).slns = 1 ∧
    ((run (.slnsExpire 0) (on { tile with slns := 1 })).tile 0).slns = 0 := by decide +kernel

/-! ### Controls and code -/

/-- Stream queue 2 has ended; its handler stands at offset 64. -/
def ended : Tile := { handled with strm := vput tile.strm 2 ⟨0x8000004000000002, [], [], true⟩ }
theorem witness_TileControl_stream : (ended.strmAt 2).eos = true ∧ ([0, 1].all fun j => !(ended.strmAt j).eos) = true ∧
    bitsN (ended.strmAt 2).bind 32 30 = 64 ∧ (ended.codeWord 64).any (·.getLsbD 31) = true := by decide +kernel
theorem test_stream_end : let t := (run (.streamEndEvent 0) (on ended)).tile 0
    t.pc = 64 ∧ bitsN t.tcause 0 8 = 0x20 ∧ bitsN t.tstat 32 8 = 2 := by decide +kernel
def parked : Tile := { tile with run := .parked, report := some ⟨0, 0x32, 0, 0⟩ }
theorem witness_TileControl_release : (live (on parked)).atRest 0 = true ∧ (live (on parked)).up = true ∧
    ((run (.ctlRelease 0) (live (on parked))).tile 0).run = .idle ∧ (on Tile.reset).tile 0 = Tile.reset := by decide +kernel

theorem ofBytes_append (l : List Byte) (b : Byte) : ofBytes (l ++ [b]) = ofBytes l + b.toNat * 2 ^ (8 * l.length) := by
  induction l with
  | nil => simp [ofBytes]
  | cons a l ih =>
    have : 2 ^ (8 * (l.length + 1)) = 2 ^ (8 * l.length) * 256 := by rw [Nat.mul_add, Nat.pow_add]
    simp only [List.cons_append, ofBytes, ih, Nat.shiftLeft_eq, List.length_cons, this]
    rw [Nat.add_mul, Nat.mul_assoc, Nat.add_assoc]
theorem ofBytes_bytesOf {w : Nat} (n : Nat) (x : BitVec w) : ofBytes (bytesOf n x) = x.toNat % 2 ^ (8 * n) := by
  induction n with
  | zero => simp [bytesOf, ofBytes, Nat.mod_one]
  | succ n ih =>
    have : bytesOf (n + 1) x = bytesOf n x ++ [x.extractLsb' (8 * n) 8] := by simp [bytesOf, List.range_succ]
    rw [this, ofBytes_append, ih]
    simp only [bytesOf, List.length_map, List.length_range, BitVec.extractLsb'_toNat, Nat.shiftRight_eq_div_pow]
    rw [show 8 * (n + 1) = 8 * n + 8 by omega, Nat.pow_add, Nat.mod_mul, Nat.mul_comm (x.toNat / 2 ^ (8 * n) % 2 ^ 8)]
theorem clean_read (s : State) (pa n : Nat) (h : s.badHbm = []) (hs : s.softHbm = []) :
    s.readHbm pa n = (s.hbm.read pa n, false, s) := by
  have : ∀ l : List Nat, l.foldl (fun (x : Bool × State) g => let y := x.2.granuleRead g; (x.1 || y.1, y.2)) (false, s) = (false, s) := by
    intro l
    induction l with
    | nil => rfl
    | cons g l ih =>
      have e : s.granuleRead g = (false, s) := by simp [State.granuleRead, h, hs, look]
      simpa only [List.foldl_cons, e, Bool.or_false] using ih
  unfold State.readHbm State.readGranules
  rw [show (fun x g => match x with
      | (b, s) => match s.granuleRead g with
        | (x, s) => (b || x, s)) = (fun (x : Bool × State) g => let y := x.2.granuleRead g; (x.1 || y.1, y.2)) from rfl, this]

/-- An image of one page: its code behind handle 1, its hash behind handle 2. -/
def unpaged : State :=
  let s := (on tile).setImage 0 { Image.reset with v := true, npages := 1, codeh := 1, hashh := 2 }
  { s with dev := { s.dev with handles := [(1, (0xE000000000010000, 1)), (2, (0xE000000000020000, 1))] } }
theorem unpaged_checks : unpaged.handlePa 1 0 4096 false = some (0x10000, none) ∧
    unpaged.handlePa 2 0 64 false = some (0x20000, none) ∧ unpaged.neededPage 0 = some (0, none) ∧
    unpaged.named 0 = some { Image.reset with v := true, npages := 1, codeh := 1, hashh := 2 } ∧ unpaged.badHbm = [] ∧
    unpaged.softHbm = [] ∧ (unpaged.tile 0).img = 0 ∧ (unpaged.tile 0).report = none := by decide +kernel
theorem load_page (s : State) (d : BitVec 512) (b : List Byte) (hb : s.hbm = Mem.write [] 0x20000 (bytesOf 64 d)) (hz : s.badHbm = []) (hs : s.softHbm = [])
    (h1 : s.handlePa 1 0 4096 false = some (0x10000, none)) (h2 : s.handlePa 2 0 64 false = some (0x20000, none))
    (hn : s.named 0 = some { Image.reset with v := true, npages := 1, codeh := 1, hashh := 2 })
    (hl : b = List.replicate 4096 0) :
    s.loadPage 0 0 = (if sha3_512 b = d then .page b else .badHash 0, s) := by
  have e0 : ∀ h off n pa, s.handlePa h off n false = some (pa, none) → addressable pa n = true →
      s.handleRead h off n = (some (s.hbm.read pa n), s) := by
    intro h off n pa hp ha
    simp only [State.handleRead, hp, ha, if_true, clean_read s pa n hz hs]
    simp
  have e1 : s.handleRead 1 0 4096 = (some b, s) := by
    rw [e0 1 0 4096 0x10000 h1 (by decide), hb]
    suffices Mem.read (Mem.write [] 0x20000 (bytesOf 64 d)) 0x10000 4096 = b by rw [this]
    refine List.ext_getElem (by simp [Mem.read, hl]) fun i p q => ?_
    simp only [Mem.read, List.length_map, List.length_range] at p
    simp only [Mem.read, List.getElem_map, List.getElem_range, hl, List.getElem_replicate]
    rw [Mem.get_write _ _ _ rfl, if_neg (by omega)]
    rfl
  have e2 : s.handleRead 2 0 64 = (some (bytesOf 64 d), s) := by
    rw [e0 2 0 64 0x20000 h2 (by decide), hb]
    suffices Mem.read (Mem.write [] 0x20000 (bytesOf 64 d)) 0x20000 64 = bytesOf 64 d by rw [this]
    refine List.ext_getElem (by simp [Mem.read, bytesOf]) fun i p q => ?_
    simp only [Mem.read, List.length_map, List.length_range] at p
    simp only [Mem.read, List.getElem_map, List.getElem_range]
    rw [Mem.get_write _ _ _ rfl, if_pos ⟨by omega, by simp [bytesOf]; omega⟩]
    simp [bytesOf, p]
  have e3 : BitVec.ofNat 512 (ofBytes (bytesOf 64 d)) = d := by
    rw [ofBytes_bytesOf]
    exact BitVec.eq_of_toNat_eq (by rw [BitVec.toNat_ofNat, Nat.mod_eq_of_lt d.isLt, Nat.mod_eq_of_lt d.isLt])
  unfold State.loadPage
  rw [hn]
  simp only [show ¬ (1 ≤ 0) by omega, if_false, Image.reset, Bool.false_eq_true, Nat.mul_zero,
    show ((1 : BitVec 16).toNat) = 1 from rfl, show ((2 : BitVec 16).toNat) = 2 from rfl, e1, e2, e3]
  split <;> rfl
theorem other_memory (s : State) (m : Mem) :
    (∀ h o n, ({ s with hbm := m } : State).handlePa h o n false = s.handlePa h o n false) ∧
      (∀ h, ({ s with hbm := m } : State).named h = s.named h) ∧ (∀ k, ({ s with hbm := m } : State).neededPage k = s.neededPage k) ∧
      ∀ k, ({ s with hbm := m } : State).tile k = s.tile k := ⟨fun _ _ _ => rfl, fun _ => rfl, fun _ => rfl, fun _ => rfl⟩
/-- A page of zeros whose hash is good, and one whose hash is another. -/
theorem witness_CodePages (b : List Byte) (hl : b = List.replicate 4096 0) :
    (∃ s : State, s.neededPage 0 = some (0, none) ∧ s.loadPage (s.tile 0).img 0 = (.page b, s)) ∧
    ∃ s : State, s.neededPage 0 = some (0, none) ∧ s.loadPage (s.tile 0).img 0 = (.badHash 0, s) ∧ (s.tile 0).report = none := by
  obtain ⟨h1, h2, hp, hn, hz, hs, hi, hr⟩ := unpaged_checks
  generalize unpaged = z at *
  have key : ∀ d, ({ z with hbm := Mem.write [] 0x20000 (bytesOf 64 d) } : State).loadPage
      (({ z with hbm := Mem.write [] 0x20000 (bytesOf 64 d) } : State).tile 0).img 0 =
        (if sha3_512 b = d then .page b else .badHash 0, { z with hbm := Mem.write [] 0x20000 (bytesOf 64 d) }) := by
    intro d
    generalize hm : Mem.write [] 0x20000 (bytesOf 64 d) = m
    obtain ⟨o1, o2, -, o4⟩ := other_memory z m
    rw [o4 0, hi]
    refine load_page _ d b ?_ ?_ ?_ ?_ ?_ ?_ hl
    · exact hm.symm
    · exact hz
    · exact hs
    · rw [o1]; exact h1
    · rw [o1]; exact h2
    · rw [o2]; exact hn
  have o3 := fun d : BitVec 512 => (other_memory z (Mem.write [] 0x20000 (bytesOf 64 d))).2.2
  generalize sha3_512 b = x at key
  refine ⟨⟨_, ((o3 x).1 0).trans hp, by rw [key x, if_pos rfl]⟩, ⟨_, ((o3 (x + 1)).1 0).trans hp, ?_, by rw [(o3 (x + 1)).2]; exact hr⟩⟩
  rw [key (x + 1), if_neg (by bv_omega)]

/-! ### Links, messages and streams -/

/-- Tiles 0 and 1 are neighbours, 1 east of 0; tile 1 has sent `wire` west and `back` on its way. -/
def pair (t : Tile) (wire : List Fwd) (back : List Back) : State :=
  { State.reset with tiles := [(0, t), (1, tile.setLink 0 ⟨[], 0, 3, wire, back⟩)] }
theorem test_links : edgeAt 0 1 = false ∧ neighbour 0 1 = 1 ∧ opposite 1 = 0 ∧
    (((run (.linkWordArrive 0 1) (pair tile [.word 9] [])).tile 0).link 1).queue = [9] ∧
    ((run (.linkWordArrive 0 1) (pair Tile.reset [.word 9] [])).tile 0).linkDisc = 1 ∧
    ((run (.linkMarkerArrive 0 1) (pair (tile.setLink 1 ⟨[], 1, 8, [], []⟩) [.marker] [])).tile 0).link 1 = .reset ∧
    (((run (.linkCreditReturn 0 1) (pair (tile.setLink 1 ⟨[], 0, 4, [], []⟩) [] [.credit])).tile 0).link 1).credit = 5 ∧
    (((run (.linkCreditNotice 0 1) (pair (tile.setLink 1 ⟨[], 0, 4, [], []⟩) [] [.notice 6])).tile 0).link 1) =
      ⟨[], 0, 6, [.marker], []⟩ := by decide +kernel

/-- Tile 0 sends the words 1 and 2 to tile 1, to its inbox or to its stream queue 3. -/
def sendWord (str : Bool) : W64 := if str then 0x8200000000030001 else 0x0200000000030001
def sending (str delivered : Bool) (t : Tile) : State :=
  { State.reset with tiles := [(0, { tile with sends := [⟨0, false, sendWord str, [1, 2], delivered⟩] }), (1, t)] }
/-- Tile 1 has bound stream queue 3, which holds `n` doubles. -/
def bound (n : Nat) : Tile := { tile with strm := vput tile.strm 3 ⟨0x8000000000000003, [], List.replicate n 5, false⟩ }
theorem witness_MessageEvents : sendTid (sendWord false) = 1 ∧ (sending false false tile).gangOf 0 = none ∧
    Tile.reset.resident = false ∧ tile.resident = true ∧ tile.toStream (sendWord false) = false ∧ tile.inboxFull = false ∧
    (bound 3).toStream (sendWord true) = true ∧ sendQ (sendWord true) = 3 ∧
    ([0, 13, 14, 15].all fun n => ((bound n).strmAt 3).accepts [1, 2] false) = true := by decide +kernel
/-- A gang of one tile, and a state in which it holds tile 0, with its record in slot 0 of the ring at 65536; its word 4
stands at 65568. -/
def owner (x : Bool) : Gang := ⟨7, 0, 0, 0, 0, 0, none, 0, x⟩
def owned (x : Bool) (s : State) : State :=
  { s.onTile 0 (fun t => { t with gid := 7 }) with
    gangs := [owner x]
    dev := { s.dev with
      handles := [(1, (0xE000000000010000, 1))]
      queues := [(0, { QDesc.reset with en := true, ring := 1, log2 := 4, cmask := BitVec.allOnes 64, prod := 1 })] } }
theorem witness_exposure : ([true, false].all fun x => ((owned x (on tile)).gangOf 0) == some (owner x)) = true ∧
    exposureAt (owned true (on tile)) 0 = none ∧ exposureAt (owned false (on tile)) 0 = some 65568 ∧
    exposureAt (on tile) 0 = none := by decide +kernel
/-- The word gains bit 6; a send to a tile outside the gang exposes it. A send to device 1 is not held. -/
theorem test_exposure :
    (run (.messageArrive 0) (owned false (sending false false tile))).slotWord 65536 0 4 = 0x40 ∧
    (run (.messageArrive 0) (owned false (sending false false tile))).gangs.map (·.exposed) = [true] ∧
    (owned false (on tile)).route (sendDev 0x0100001000030001) ≠ .down := by decide +kernel
theorem test_messages :
    ((run (.messageArrive 0) (sending false false tile)).tile 1).inbox.map (·.words) = [[1, 2]] ∧
    ((run (.messageArrive 0) (sending false false Tile.reset)).tile 1).disc = 1 ∧
    (((run (.streamWordArrive 0 3) (sending true false (bound 14))).tile 1).strmAt 3).rows.length = 1 ∧
    ((run (.sendAccepted 0) (sending false true tile)).tile 0).sends = [] := by decide +kernel
theorem witness_StreamRowsInOrder : ((bound 15).strmAt 3).asm.length < 16 := by decide

/-! ### Translation -/

def lane (a : W64) (len : Nat) (st : LaneSt) : Lane := ⟨0, a, len, st, 0⟩
def req (k : ReqKind) (ls : List Lane) : Req := ⟨1, 0, k, .zero, ls, none⟩
/-- Tile 0 with one request. -/
def asking (k : ReqKind) (a : W64) (len : Nat) (st : LaneSt) : Tile := { tile with reqs := [req k [lane a len st]] }
/-- The load of 8 bytes at virtual address 0x20010. -/
def ldOf (st : LaneSt) : Tile := asking (.load 8 true) 0x20010 8 st
/-- The leaf of granule 2: 64 KiB at physical address 0x30000. -/
def leaf : Tlb := ⟨0, true, 2, 0x30000⟩
theorem witness_Translation_hit : spaceOf 0x20010 = .virt 0x20010 ∧ (on (ldOf .issue)).nextUp 0 (req (.load 8 true) [lane 0x20010 8 .issue]) (lane 0x20010 8 .issue) = true ∧
    tlbFind [leaf] 2 0 = some leaf ∧ addressable (leaf.paOf 0x20010) 8 = true ∧ tlbFind [] 2 0 = none ∧
    ((on (ldOf .issue)).cluster 0).pendOf 2 = none ∧ lowestFree 64 ((on (ldOf .issue)).cluster 0).pend = some 0 := by
  decide +kernel
theorem test_tlb_hit : laneOf ((run (.tlbMissWalk 0 1 0) (on { ldOf .issue with tlb := [leaf] })).tile 0) 1 0 =
    some (.hit 0x30010, 0) := by decide +kernel
/-- LOC, PREF, a load of tile 1's scratchpad and one of device 1, each next to be looked up. -/
theorem witness_Translation_others : ([(ReqKind.loc, (0x20010 : W64)), (.pref, 0x20010), (.load 8 true, 0xE000000001000010), (.load 8 true, 0xD000010000000040)].all
    fun (q, a) => (on (asking q a 8 .issue)).nextUp 0 (req q [lane a 8 .issue]) (lane a 8 .issue)) = true ∧
    spaceOf 0xE000000001000010 = .chip (.tile 1 16) ∧ spaceOf 0xD000010000000040 = .peer 1 0x40 ∧
    ((on tile).dev.devid.toNat = 0) ∧ addressable (leaf.paOf 0x20010) 8 = true ∧
    addressable (({ leaf with pa := 0xF000000000 } : Tlb).paOf 0x20010) 8 = false := by decide +kernel
theorem test_loc : laneOf ((run (.tlbMissWalk 0 1 0) (on { asking .loc 0x20010 8 .issue with tlb := [leaf] })).tile 0) 1 0 =
    some (.fin, (locHbm 0 0x30010).setWidth 1120) ∧
    ((run (.tlbMissWalk 0 1 0) (on (asking .pref 0x20010 8 .issue))).tile 0).reqs = [] := by decide +kernel
/-- A store of the bytes 0x22 0x11. -/
def stOf (k : ReqKind) (a : W64) (st : LaneSt) : Tile := { tile with reqs := [req k [{ lane a 2 st with data := 0x1122 }]] }
def storing : State := on { stOf .store 0x20010 .issue with tlb := [leaf] }
theorem witness_StoresAreLogged : storing.nextUp 0 (req .store [{ lane 0x20010 2 .issue with data := 0x1122 }])
      { lane 0x20010 2 .issue with data := 0x1122 } = true ∧
    tlbFind [leaf] 2 1 = some leaf ∧ storing.hashed 0x30010 2 = false ∧ (storing.tile 0).ovf = [] ∧
    ((storing.tile 0).reqs.map (·.id)).Nodup := by decide +kernel
theorem test_store_logged : ((run (.tlbMissWalk 0 1 0) storing).tile 0).ownByte 2 0x30011 = some 0x11 ∧
    ((run (.tlbMissWalk 0 1 0) storing).tile 0).reqs = [] := by decide +kernel
/-- Its walk in progress; root table at 0x1000; `e4` its entry 0, then tables at 0x2000, 0x3000, 0x4000, and `e0` the entry
2 of the last, at 0x5000. -/
def walking (e4 e0 : W64) (bad : List (Nat × Bool)) : State :=
  let s := on (ldOf .miss)
  let hbm := [(0x1000, e4), (0x2000, 0x8000000000003000), (0x3000, 0x8000000000004000), (0x4000, 0x8000000000005000),
    (0x5010, e0)].foldl (fun m (a, x) => Mem.write m a (bytesOf 8 x)) []
  let s := s.setCluster 0 { Cluster.reset with pend := [(5, ⟨2, false, false, 0, true, 0, [⟨0, 1, 0, 0⟩], []⟩)] }
  { s with hbm := hbm, badHbm := bad, dev := { s.dev with ptroot := 0x1000 } }
def table1 : W64 := 0x8000000000002000
theorem witness_Translation_walk :
    (match ((walking table1 0xE000000000030000 []).walk 2).1 with
      | .leaf e => decide (e = leaf)
      | _ => false) = true ∧
    (match ((walking table1 0 []).walk 2).1 with
      | .fault 1 0 => true
      | _ => false) = true ∧
    (match ((walking 0 0 []).walk 2).1 with
      | .fault 1 4 => true
      | _ => false) = true ∧
    (match ((walking table1 0 [(0x5000 / 64, false)]).walk 2).1 with
      | .error => true
      | _ => false) = true ∧
    ((walking table1 0 []).tile 0).reqs.all (fun x => x.lanes.all fun y => y == lane 0x20010 8 .miss) = true ∧
    (lane 0x20010 8 .miss).va = 0x20010 := by decide +kernel
theorem test_walk :
    laneOf ((run (.pageWalkComplete 0 5) (walking table1 0xE000000000030000 [])).tile 0) 1 0 = some (.hit 0x30010, 0) ∧
    ((run (.pageWalkComplete 0 5) (walking table1 0 [])).cluster 0).fb.map (·.2.kind) = [1] ∧
    laneOf ((run (.pageWalkComplete 0 5) (walking table1 0 [(0x5000 / 64, false)])).tile 0) 1 0 = some (.flt 0x14 0, 0) := by
  decide +kernel
/-- A LOC that waits for another's walk, which a memory error ends. -/
def locWaits : State :=
  let s := { walking table1 0 [(0x5000 / 64, false)] with tiles := [(0, asking .loc 0x20010 8 .miss)] }
  s.setCluster 0 { Cluster.reset with pend := [(5, ⟨2, false, false, 0, true, 0, [], [⟨0, 1, 0, 3⟩]⟩)] }
theorem witness_Translation_loc : (match (locWaits.walk 2).1 with
      | .leaf _ => false
      | _ => true) = true ∧ (locWaits.tile 0).lane? 1 0 = some (req .loc [lane 0x20010 8 .miss], lane 0x20010 8 .miss) := by
  decide +kernel
theorem test_loc_error : laneOf ((run (.pageWalkComplete 0 5) locWaits).tile 0) 1 0 =
    some (.fin, locNone.setWidth 1120) := by decide +kernel
theorem witness_WalkFollowsTables : (walking table1 0 []).badHbm = [] := rfl

/-- TLB command `op` of granule 2 in cluster 0. -/
def command (op : Nat) (f : Cluster → Cluster) (t : Tile) : State :=
  (on t).setCluster 0 (f { Cluster.reset with tlbop := BitVec.ofNat 64 (op * 2 ^ 60 + 2), tlbBusy := true, tlbPend := true })
def faultedPend (c : Cluster) : Cluster := { c with pend := [(5, ⟨2, true, true, 1, false, 0, [⟨0, 1, 0, 0⟩], []⟩)], fb := [(0, ⟨1, 0, 0, 2, 0, 0⟩)] }
theorem witness_TlbCommandEvents : ([1, 2, 3, 4].all fun op => ((command op id tile).cluster 0).commanded op) = true ∧
    (((command 4 faultedPend (ldOf .miss)).cluster 0).pendOf 2).map (·.2.faulted) = some true ∧
    ((command 4 faultedPend (ldOf .miss)).tile 0).lane? 1 0 =
      some (req (.load 8 true) [lane 0x20010 8 .miss], lane 0x20010 8 .miss) := by decide +kernel
theorem test_tlb_commands :
    ((run (.invalAll 0) (command 1 (fun c => { c with l2 := [(0, leaf)] }) { tile with tlb := [leaf] })).cluster 0).l2 = [] ∧
    ((run (.invalPage 0) (command 2 (fun c => { c with l2 := [(0, leaf)] }) { tile with tlb := [leaf] })).tile 0).tlb = [] ∧
    laneOf ((run (.failPage 0) (command 4 faultedPend (ldOf .miss))).tile 0) 1 0 = some (.flt 0x11 1, 0) ∧
    ((run (.replayAll 0) (command 3 faultedPend (ldOf .miss))).cluster 0).fb = [] ∧
    ((run (.tlbcmdDone 0) (command 1 (fun c => { c with tlbPend := false }) tile)).cluster 0).tlbBusy = false := by
  decide +kernel

/-! ### Accesses at their targets -/

theorem witness_LoadEvents : let t := ldOf (.hit 0x30010)
    (on t).mayPerform 0 (req (.load 8 true) [lane 0x20010 8 (.hit 0x30010)]) (lane 0x20010 8 (.hit 0x30010)) = true ∧
    t.storesSettled (fun x => decide (x.id < 1)) = true ∧ t.fills = [] ∧ (on t).badHbm = [] := by decide +kernel
/-- The tile's own store to byte 0x30011 hides what memory holds there. -/
theorem test_load : laneOf ((run (.loadAtTarget 0 1 0) { on { ldOf (.hit 0x30010) with
      log := [⟨0, 0x6002, [⟨0, 2, 0xAB00⟩]⟩] } with hbm := [(0x30010, 1), (0x30011, 2)] }).tile 0) 1 0 = some (.fin, 0xAB01) := by
  decide +kernel
/-- Rank 1 of the gang has published the double at 0x30010 ahead of the barrier; rank 0 sees what it held. -/
def holding : State := { owned true (on (ldOf (.hit 0x30010))) with hbm := [(0x30010, 1)], held := [⟨7, 0x6002, 5, [1]⟩] }
theorem witness_LoadEvents_held : holding.gangOf 0 = some (owner true) ∧
    holding.held.find? (fun x => x.gid == 7 && x.dbl == 0x6002 && !x.seers.contains (holding.tile 0).rank) =
      some ⟨7, 0x6002, 5, [1]⟩ := by decide +kernel
theorem test_load_held : laneOf ((run (.loadAtTarget 0 1 0) holding).tile 0) 1 0 = some (.fin, 5) := by decide +kernel
def fill (bad : Bool) : Fill := ⟨1536, 7, bad, false, false⟩
def answered : Tile := { (asking (.load 2 true) 0x20010 2 .fin) with
  reqs := [req (.load 2 true) [{ lane 0x20010 2 .fin with data := 0xFFFE }]]
  queues := vput tile.queues 0 [⟨1, false, .zero, false, .zero, 0, false, false, .i64, .zero⟩] }
theorem witness_FillsAndResults : (tile.fills.isEmpty) = true ∧
    ({ tile with fills := [fill false] } : Tile).fills.find? (·.line == 1536) = some (fill false) ∧
    (answered.req? 1).map (·.kind.places) = some true ∧ answered.reqs.all (fun r => r.lanes.all fun l => !l.open_) = true ∧
    ((answered.queue 0).map fun p => (p.id, p.ready)) = [(1, false)] := by decide +kernel
theorem test_fills :
    ((run (.readCacheFill 0 1536) (on { tile with fills := [fill false] })).tile 0).cache = [⟨1536, 7⟩] ∧
    ((run (.readCacheFill 0 1536) (on { tile with fills := [fill true] })).tile 0).cache = [] ∧
    ((run (.readCacheEviction 0 5) (on { tile with cache := [⟨5, 1⟩, ⟨6, 2⟩] })).tile 0).cache = [⟨6, 2⟩] ∧
    (((run (.resultArrive 0 1) (on answered)).tile 0).queue 0).map (fun p => (p.ready, p.val.lo)) =
      [(true, 0xFFFFFFFFFFFFFFFE)] := by decide +kernel

/-- An atomic on the double at physical address 0x30010, and one on offset 16 of tile 1's scratchpad. -/
def amoOf (op : AmoOp) (o : AmoOrd) (a : W64) : Tile := { tile with
  reqs := [{ req (.amo op o) [lane a 8 (.hit 0x30010)] with ops := { Opnds.zero with o0 := .ofScalar 5, o1 := .ofScalar 7 } }] }
/-- Tile `k` lets tile 0 read and write it. -/
def granting (t : Tile) : Tile := { t with grants := vput t.grants 0 0xE0000000000001FF }
def onBoth (t u : Tile) : State := { State.reset with tiles := [(0, t), (1, granting u)], hbm := [(0x30010, 7)] }
def chipAddr : W64 := BitVec.ofNat 64 (spmAddr 1 16)
theorem witness_AtomicsAtMemory : ([AmoOrd.relaxed, .acq].all fun o =>
    let t := amoOf .cas o 0x20010
    match t.lane? 1 0 with
    | some (r, l) => (onBoth t tile).mayPerform 0 r l && t.storesSettled (fun x => decide (x.id < r.id)) && t.log.isEmpty &&
        t.ovf.isEmpty && !(onBoth t tile).hashed 0x30010 8 && (onBoth t tile).hbm.wf &&
        ([true, false].all fun x => (owned x (onBoth t tile)).mayPerform 0 r l &&
          !(owned x (onBoth t tile)).hashed 0x30010 8 &&
          (exposureAt (owned x (onBoth t tile)) 0).all fun w => decide (0x30018 ≤ w) || decide (w + 8 ≤ 0x30010))
    | none => false) = true := by decide +kernel
theorem test_amo : (run (.amoAtSlice 0 1) (onBoth (amoOf .cas .relaxed 0x20010) tile)).hbm = [(0x30010, 5)] ∧
    (run (.amoAtSlice 0 1) (onBoth (amoOf .add .acq 0x20010) tile)).hbm = [(0x30010, 12)] ∧
    laneOf ((run (.amoAtSlice 0 1) (onBoth (amoOf .max .relaxed 0x20010) tile)).tile 0) 1 0 = some (.fin, 7) ∧
    (run (.amoAtSlice 0 1) (owned false (onBoth (amoOf .add .relaxed 0x20010) tile))).hbm = [(65568, 0x40), (0x30010, 12)] := by
  decide +kernel
theorem witness_AtomicsAtScratchpad : spaceOf chipAddr = .chip (.tile 1 16) ∧
    (let s := onBoth (amoOf .add .relaxed chipAddr) tile
    s.chipCheck (.tile 0) false (.tile 1 16) 8 = none ∧ s.chipCheck (.tile 0) true (.tile 1 16) 8 = none ∧
    (s.tile 1).spmBad 16 8 = false ∧ (s.tile 1).spm.wf = true ∧ (match (s.tile 0).lane? 1 0 with
      | some (r, l) => s.mayPerform 0 r l && (s.tile 0).storesSettled (fun x => decide (x.id < r.id))
      | none => false) = true) := by decide +kernel
theorem test_amo_scratchpad :
    ((run (.amoAtSlice 0 1) (onBoth (amoOf .add .relaxed chipAddr) { tile with spm := [(16, 3)] })).tile 1).spm = [(16, 8)] := by
  decide +kernel

def peerAddr : W64 := 0xD000010000000040
theorem witness_PeerAtomicTimesOut : ((amoOf .add .relaxed peerAddr).lane? 1 0).any (fun x => x.2.st == .hit 0x30010) = true ∧
    spaceOf peerAddr = .peer 1 0x40 := by decide +kernel
theorem test_peer_atomic :
    let u := run (.peerRequestTimeout 0 1 0) (owned false (on (amoOf .add .relaxed peerAddr)))
    laneOf (u.tile 0) 1 0 = some (.flt 0x13 0, 0) ∧ u.gangs = [owner true] ∧ u.slotWord 65536 0 4 = 0x40 := by decide +kernel
/-- The route to device 1 is up. -/
def routed (t : Tile) : State :=
  { on t with dev := { Device.reset with
      routes := [(1, 0x8000)], ports := vput Device.reset.ports 0 { SyPort.reset with state := 2 } } }
theorem witness_StoreEvents : (let s := onBoth (stOf .store chipAddr (.hit 0)) tile
    s.chipCheck (.tile 0) true (.tile 1 16) 2 = none ∧ ((s.tile 0).lane? 1 0).any (fun x => s.mayPerform 0 x.1 x.2) = true) ∧
    (let t := stOf .storeRel 0x20010 (.hit 0x30010)
    (t.lane? 1 0).any (fun x => (onBoth t tile).mayPerform 0 x.1 x.2) = true ∧ (onBoth t tile).releaseReady 0 0 = true ∧
      t.storesSettled (fun x => decide (x.nb < 0)) = true ∧ (onBoth t tile).hashed 0x30010 2 = false ∧
      (owned false (onBoth t tile)).releaseReady 0 0 = true ∧
      (t.lane? 1 0).any (fun x => (owned false (onBoth t tile)).mayPerform 0 x.1 x.2) = true) ∧
    spaceOf peerAddr = .peer 1 0x40 ∧ (routed (stOf .store peerAddr (.hit 0))).route 1 = .up ∧
    ((stOf .store peerAddr (.hit 0)).lane? 1 0).any (fun x => (routed (stOf .store peerAddr (.hit 0))).mayPerform 0 x.1 x.2) = true ∧
    ((stOf .store peerAddr .fin).req? 1).isSome = true := by decide +kernel
theorem test_store : (run (.postedStorePerform 0 1 0) (onBoth (stOf .storeRel 0x20010 (.hit 0x30010)) tile)).hbm =
      [(0x30010, 0x22), (0x30011, 0x11)] ∧
    ((run (.postedStorePerform 0 1 0) (onBoth (stOf .store chipAddr (.hit 0)) tile)).tile 1).spm = [(16, 0x22), (17, 0x11)] ∧
    (run (.postedStorePerform 0 1 0) (owned false (onBoth (stOf .storeRel 0x20010 (.hit 0x30010)) tile))).hbm =
      [(65568, 0x40), (0x30010, 0x22), (0x30011, 0x11)] ∧
    laneOf ((run (.postedStorePerform 0 1 0) (routed (stOf .store peerAddr (.hit 0)))).tile 0) 1 0 = some (.fin, 0x1122) ∧
    (((run (.peerRequestTimeout 0 1 0) (on (stOf .store peerAddr .fin))).tile 0).deferred.map (·.cause)) = some 0x13 := by
  decide +kernel
/-- Peer 5 may load, store and use atomics in the first GiB. -/
def peered : State :=
  { State.reset with hbm := [(0x30010, 7)], dev := { Device.reset with peers := [(0, (0xF000000000000005, 1))] } }
theorem witness_PeerRequests : ([60, 61, 62].all fun r => peered.peerAllows 5 r 0x30010 && !peered.peerAllows 6 r 0x30010 &&
    peered.peerAllows 5 r 0x3FFFFFF8 && !peered.peerAllows 5 r 0x40000000) = true ∧ peered.hashed 0x30010 8 = false ∧
    peered.badHbm = [] ∧ peered.hbm.wf = true := by decide +kernel
/-- Kind 1 stores the bytes that the mask selects; kind 2 adds. -/
theorem test_peer : (run (.peerAccessCheck 5 0x30010 1 (0x02 * 2 ^ 64 + 0x0908)) peered).hbm = [(0x30010, 7), (0x30011, 9)] ∧
    (run (.peerAccessCheck 5 0x30010 2 6) peered).hbm = [(0x30010, 13)] ∧
    run (.peerAccessCheck 6 0x30010 2 6) peered = peered := by decide +kernel
/-- Peer 5's tile 9 sends the word 3 to tile 1, which has a gang or has none. -/
def foreign : Nat := 0x0100000000030001 + 3 * 2 ^ 64
theorem witness_PeerRequests_send : peered.peerRight 5 62 = true ∧ peered.peerRight 6 62 = false ∧
    (let w := BitVec.ofNat 64 foreign
    sendTid w = 1 ∧ bitsN w 56 4 = 1 ∧ tile.toStream w = false ∧ tile.inboxFull = false) := by decide +kernel
theorem test_peer_send :
    (((run (.peerAccessCheck 5 9 10 foreign) { peered with tiles := [(1, tile)] }).tile 1).inbox.map (·.words)) = [[3]] ∧
    ((run (.peerAccessCheck 5 9 10 foreign) peered).tile 1).disc = 1 ∧
    run (.peerAccessCheck 6 9 10 foreign) peered = peered := by decide +kernel

/-! ### Publication, barriers and checkpoints -/

/-- A log entry for the double at 0x30010, two stores merged. -/
def logged : Tile := { tile with log := [⟨0, 0x6002, [⟨0, 3, 0x0201⟩, ⟨1, 2, 0x0900⟩]⟩], cache := [⟨0x600, 0⟩] }
theorem witness_PublicationWritesLog : (on logged).withholds 0 = false ∧ (logged.log.map (·.dbl)).Nodup ∧
    (on logged).gangOf 0 = none ∧ (on logged).hbm.wf = true ∧
    ([true, false].all fun x => !(owned x (on logged)).withholds 0) = true ∧
    (logged.log.all fun e => (exposureAt (owned false (on logged)) 0).all fun w =>
      decide (8 * e.dbl + 8 ≤ w) || decide (w + 8 ≤ 8 * e.dbl)) = true := by decide +kernel
theorem test_publish : ((on logged).publish 0).hbm = [(0x30010, 1), (0x30011, 9)] ∧
    ((owned false (on logged)).publish 0).hbm = [(65568, 0x40), (0x30010, 1), (0x30011, 9)] ∧
    (((on logged).publish 0).tile 0).cache = [] := by decide +kernel
def syncing (k : SyncKind) (arrived : Bool) : Tile := { logged with sync := [⟨k, 0, 0, false, arrived, 0⟩], arr := arrived }
theorem witness_SyncEvents : ([SyncKind.fence, .phaseT, .bar, .phaseG].all fun k =>
    (syncing k false).sync.all fun x => (syncing k false).syncReady x && !x.arrived) = true ∧
    (owned true (on (syncing .phaseG false))).gangOf 0 = some (owner true) ∧
    0x6002 ∈ (syncing .phaseG false).loggedDoubles := by decide +kernel
theorem test_phase_held : (run (.syncOpComplete 0) (owned true (on (syncing .phaseG false)))).held.map
    (fun h => (h.gid, h.dbl, h.old, h.seers)) = [(7, 0x6002, 0, [0])] := by decide +kernel
/-- A gang of four tiles, 0, 1, 128 and 129, each as given. -/
def gang : Gang := ⟨7, 0, 0, 0, 2, 0, none, 0, false⟩
def ganged (g : Gang) (t : Tile) : State :=
  { State.reset with gangs := [g], tiles := [0, 1, 128, 129].map fun k => (k, { t with gid := 7, grank := BitVec.ofNat 64 ([0, 1, 128, 129].idxOf k) }) }
def ckptGang : Gang := { gang with record := 1 <<< 227 }
theorem witness_BarrierComplete : ([SyncKind.bar, .phaseG].all fun k =>
    (ganged gang (syncing k true)).barrierKind [0, 1, 128, 129] == some (some k)) = true ∧ gang.ckpt = false ∧
    (ganged gang tile).gang? 7 = some gang ∧ (ganged gang tile).members gang = [0, 1, 128, 129] ∧
    [0, 1, 128, 129].Nodup := by decide +kernel
/-- Tile 0 has arrived at a BAR, the others at a PHASE.G. -/
def mismatched : State := (ganged gang (syncing .phaseG true)).setTile 0 { syncing .bar true with gid := 7 }
theorem witness_BarrierMismatch : mismatched.barrierKind (mismatched.members gang) = some none ∧
    mismatched.members gang = [0, 1, 128, 129] := by decide +kernel
theorem test_barrier_mismatch : [0, 1, 128, 129].map (fun m => (((run (.barrierComplete 7) mismatched).tile m).report.map (·.w1))) =
    List.replicate 4 (some 0x30) := by decide +kernel
theorem test_barrier :
    (([0, 1, 128, 129].map fun m => (((run (.barrierComplete 7) (ganged gang (syncing .phaseG true))).tile m).sync.length,
      ((run (.barrierComplete 7) (ganged gang (syncing .phaseG true))).tile m).phCount)) = List.replicate 4 (0, 1)) ∧
    (run (.syncOpComplete 0) (on (syncing .phaseT false))).hbm = [(0x30010, 1), (0x30011, 9)] ∧
    ((run (.syncOpComplete 0) (on (syncing .bar false))).tile 0).arr = true := by decide +kernel
/-- Queue 0's checkpoint pool is handle 1: 4 MiB at address 0x10000. -/
def pooled (s : State) : State :=
  { s with dev := { s.dev with
      handles := [(1, (0xE000000000010000, 64))]
      queues := [(0, { QDesc.reset with en := true, ring := 1, log2 := 4, cmask := BitVec.allOnes 64, prod := 1, ckpool := 1, cksize := 4 })] } }
def ckptState : State := ganged ckptGang { syncing .phaseG true with log := [], cache := [] }
theorem witness_CheckpointEvent : ckptGang.ckpt = true ∧ ckptState.barrierKind (ckptState.members ckptGang) = some (some .phaseG) ∧
    (ckptState.members ckptGang).all (fun m => ckptState.quiet m && ckptState.arrived m) = true ∧
    ckptState.saveRoom 0 (saveSize 2) = none ∧ (pooled ckptState).saveRoom 0 (saveSize 2) = some 4096 := by decide +kernel
theorem test_checkpoint : (run (.checkpoint 7) ckptState).saves = [] ∧ ((run (.checkpoint 7) ckptState).tile 129).phCount = 1 ∧
    ((run (.checkpoint 7) ckptState).tile 129).arr = false := by decide +kernel

/-- A pool of handle 1, 4 MiB, takes what lies in it. -/
theorem pool_write (s : State) (hd : s.dev.handles = [(1, (0xE000000000010000, 64))]) (hq : (s.queueDesc 0).ckpool = 1)
    (hi : s.dev.images = []) (off : Nat) (l : List W64) (h : off + 8 * l.length ≤ 4194304) :
    ∃ u : State, s.poolWrite true 0 off l = (true, u) ∧ u.dev = s.dev := by
  have hl : (l.flatMap (bytesOf 8)).length = 8 * l.length := by
    induction l with
    | nil => rfl
    | cons x l ih => simp only [List.flatMap_cons, List.length_append, ih (by simp at h; omega)]; simp [bytesOf]; omega
  have hp : s.handlePa 1 off (8 * l.length) true = some (0x10000 + off, none) := by
    simp only [State.handlePa, hd, handleAt, look]
    rw [if_pos]
    · rfl
    · have h1 : handleSize (0xE000000000010000, 64) = 4194304 := by decide
      have h2 : handleBase (0xE000000000010000, 64) = 65536 := by decide
      simp only [if_neg (show ¬ (1 = 0) by decide), if_true, Option.getD_some, h1, h2, Bool.and_eq_true, decide_eq_true_eq]
      exact ⟨⟨⟨by decide, by decide⟩, h⟩, by omega⟩
  have hh : s.hashed (0x10000 + off) (8 * l.length) = false := by simp [State.hashed, hi]
  have ha : addressable (0x10000 + off) (8 * l.length) = true := by simp [addressable]; omega
  refine ⟨s.writeHbm (0x10000 + off) (l.flatMap (bytesOf 8)), ?_, rfl⟩
  simp only [State.poolWrite, hq, State.handleWrite, State.handlePut, show ((1 : BitVec 32).toNat) = 1 from rfl, hl, hp, ha, hh]
  simp
theorem pool_takes (s : State) (v : Save) (t : Tile) (hd : s.dev.handles = [(1, (0xE000000000010000, 64))])
    (hq : (s.queueDesc 0).ckpool = 1) (hi : s.dev.images = []) (hg : v.gang.queue = 0) (ho : v.offset = 4096)
    (hm : v.members = [(0, t)]) (h : t.saveRecord.length ≤ 60000) : (s.poolSave v).1 = true := by
  have key : ∀ u : State, u.dev = s.dev → ∀ off l, off + 8 * l.length ≤ 4194304 →
      ∃ w : State, u.poolWrite true 0 off l = (true, w) ∧ w.dev = s.dev := by
    intro u hu off l hl
    obtain ⟨w, e, hw⟩ := pool_write u (by rw [hu]; exact hd) (by unfold State.queueDesc at *; rw [hu]; exact hq) (by rw [hu]; exact hi) off l hl
    exact ⟨w, e, hw.trans hu⟩
  have hxl : (v.header ++ v.directory).length = 264 := by simp [Save.header, Save.directory]
  simp only [State.poolSave, Save.parts, hm, memberParts, List.map, List.foldl_cons, List.foldl_nil, hg, ho]
  obtain ⟨a, ea, da⟩ := key s rfl (4096 + 0) _ (show 4096 + 0 + 8 * (v.header ++ v.directory).length ≤ 4194304 by omega)
  rw [ea]
  obtain ⟨c, ec, dc⟩ := key a da (4096 + 2112) t.saveRecord (by omega)
  rw [ec]

/-- The gang of one tile stopped, with room for its save in the pool; and at its PHASE.G, with CKPT. -/
def soloStop : Gang := { owner true with why := some .preempt }
def soloStopped : State := { pooled { on { tile with run := .stopping, gid := 7 } with gangs := [soloStop] } with
  saves := [⟨owner true, false, 4096, saveSize 0, []⟩] }
def soloCkpt : Gang := { owner true with record := 1 <<< 227 }
def soloArrived : State := pooled { on { tile with gid := 7, sync := [⟨.phaseG, 0, 0, false, true, 0⟩], arr := true } with gangs := [soloCkpt] }
theorem soloStopped_saves : (soloStopped.freeze 7 true).memberSaves soloStop [0] =
    [(0, ({ tile with run := .stopping, gid := 7 } : Tile).saved 700)] := by
  rfl
theorem witness_GangStop_pool : soloStopped.gang? 7 = some soloStop ∧ soloStopped.members soloStop = [0] ∧
    (soloStopped.tile 0).halted = true ∧ soloStopped.quiet 0 = true ∧ soloStopped.arrived 0 = true ∧
    ((soloStopped.freeze 7 true).poolSave ⟨{ soloStop with why := none }, false, 4096, saveSize 0,
      (soloStopped.freeze 7 true).memberSaves soloStop [0]⟩).1 = true :=
  ⟨by decide +kernel, by decide +kernel, by decide +kernel, by decide +kernel, by decide +kernel,
    pool_takes _ _ _ rfl (by decide +kernel) rfl rfl rfl soloStopped_saves (by decide +kernel)⟩
theorem soloArrived_saves : (soloArrived.barrierEnd 7 [0]).memberSaves soloCkpt [0] =
    [(0, ((soloArrived.barrierEnd 7 [0]).tile 0).saved 700)] := by
  rfl
theorem witness_CheckpointEvent_pool : soloArrived.gang? 7 = some soloCkpt ∧ soloCkpt.ckpt = true ∧
    soloArrived.barrierKind [0] = some (some .phaseG) ∧ soloArrived.members soloCkpt = [0] ∧
    (soloArrived.quiet 0 && soloArrived.arrived 0) = true ∧ soloArrived.saveRoom 0 (saveSize 0) = some 4096 ∧
    ((soloArrived.dropSaves soloCkpt).poolSave ⟨{ soloCkpt with exposed := false }, true, 4096, saveSize 0,
      (soloArrived.barrierEnd 7 [0]).memberSaves soloCkpt [0]⟩).1 = true :=
  ⟨by decide +kernel, by decide +kernel, by decide +kernel, by decide +kernel, by decide +kernel, by decide +kernel,
    pool_takes _ _ _ rfl (by decide +kernel) rfl rfl rfl soloArrived_saves (by decide +kernel)⟩

/-! ### Tickets -/

/-- Entry 3 of slice 768, which holds physical address 0x30010, and a ticket that names it. -/
def entry (st : TkState) (done : Bool) : Ticket :=
  { Ticket.reset with state := st, kind := 1, gen := 4, retgen := 3, retwhy := 0, data := 99, done := done, claimer := some (7, 2, 1) }
def sliced (e : Ticket) (t : Tile) : State := (ganged gang t).setSlice 768 { Slice.reset with tickets := [(3, e)] }
def tick (g : BitVec 16) : W64 := mkTicket 1 768 3 g 0 0
def redeeming (k : ReqKind) (w : W64) : Tile :=
  { tile with reqs := [{ req k [] with ops := { Opnds.zero with t := .ofScalar w } }] }
def claiming : Tile := asking .rdm 0 8 (.hit (2048 * 768 + 3))
def ticketing : State := { on (asking (.ldt false) 0x20010 8 (.hit 0x30010)) with hbm := [(0x30010, 7)] }

theorem look_map (e : Ticket) (k : Nat) (l : List Nat) (h : k ∈ l) : look k (l.map fun i => (i, e)) = some e := by
  induction l with
  | nil => cases h
  | cons a l ih =>
    by_cases x : a = k
    · simp [look, x]
    · have := ih (by simpa [Ne.symm x] using h)
      simp [look, x] at this ⊢
      exact this
/-- A slice with no free entry. -/
def fullSlice : Slice := { Slice.reset with tickets := (List.range 2048).map fun k => (k, entry .pending false) }
theorem witness_TicketAllocation : sliceOf 0x30010 = 768 ∧ (ticketing.slice 768).firstFree = some 0 ∧
    (match (ticketing.tile 0).lane? 1 0 with
      | some (r, l) => ticketing.mayPerform 0 r l && !ticketing.sliceHeld 0 r 768
      | none => false) = true := by decide +kernel
theorem witness_TicketAllocation_null : fullSlice.firstFree = none := by
  simp only [Slice.firstFree, List.find?_eq_none, List.mem_range]
  intro k hk
  have : fullSlice.ticket k = entry .pending false := by
    rw [Slice.ticket, fullSlice]
    simp only
    rw [look_map _ k (List.range 2048) (List.mem_range.2 hk)]
    rfl
  rw [this]
  decide
theorem test_ticket : let u := run (.ticketAllocate 0 1) ticketing
    laneOf (u.tile 0) 1 0 = some (.fin, (mkTicket 1 768 0 0 0 0).setWidth 1120) ∧
    ((u.slice 768).ticket 0).state = .pending ∧ ((u.slice 768).ticket 0).data = 7 := by decide +kernel
theorem witness_TicketEvents :
    ([TkState.pending, .ready, .faulted].all fun st =>
      decide (((sliced (entry st false) tile).slice 768).classify (tick 4) = .is st)) = true ∧
    ((sliced (entry .ready false) tile).slice 768).classify (tick 3) = .spent ∧
    ((sliced (entry .ready false) tile).slice 768).classify (tick 2) = .expired ∧
    ((sliced (entry .ready false) tile).slice 768).classify (tick 4 ^^^ 1) = .invalid ∧
    ((sliced (entry .ready false) tile).slice 768).classify 0 = .null ∧
    ([0, tick 2, tick 3, tick 4].all fun w => [ReqKind.rdm, .rdmS 64, .tkq, .tkx].all fun k =>
      !(redeeming k w).acqHeld 0 && ((redeeming k w).req? 1).any fun r => !(redeeming k w).ticketHeld 0 r) = true ∧
    (redeeming (.rdmS 64) 0).limit = 262144 ∧ claiming.reqs.all (fun r => r.lanes.all fun l => l.st == .hit (2048 * 768 + 3)) = true ∧ tkSlice (tick 4) = 768 ∧
    (sliced (entry .claimed true) claiming).claimerTile 7 2 = some 128 := by decide +kernel
theorem test_tickets :
    ([(tick 4, LaneSt.hit 0), (tick 3, .flt 0x16 0), (tick 2, .flt 0x17 0), (tick 4 ^^^ 1, .flt 0x15 0), (0, .flt 0x15 1)].all
      fun (w, st) => match laneOf ((run (.redeemAtSlice 0 1) (sliced (entry .ready true) (redeeming .rdm w))).tile 0) 1 0, st with
        | some (.hit _, _), .hit _ => true
        | some (a, _), b => a == b
        | none, _ => false) = true ∧
    ((run (.ticketFetchComplete 768 3) (sliced (entry .pending false) tile)).slice 768 |>.ticket 3).state = .ready ∧
    laneOf ((run (.redeemDeliver 768 3) (sliced (entry .claimed true) claiming)).tile 128) 1 0 = some (.fin, 99) ∧
    laneOf ((run (.redeemDeliver 768 3) (sliced { entry .claimed true with fcode := 0x14, line := true } claiming)).tile 128) 1 0 =
      some (.flt 0x14 0, 0) ∧
    laneOf ((run (.ticketClassifyAtSlice 0 1) (sliced (entry .ready true) (redeeming .tkq (tick 3)))).tile 0) 1 0 = some (.fin, 3) ∧
    ((run (.ticketClassifyAtSlice 0 1) (sliced (entry .ready true) (redeeming .tkx (tick 4)))).slice 768).cancelled = 1 := by
  decide +kernel
theorem witness_TicketsAge : (((sliced (entry .ready true) tile).slice 768).tickets.map (·.1)).Nodup := by decide +kernel
theorem test_age : ([0, 991, 992].map fun a => let e := ((run (.ticketWatchdogPass 768)
      (sliced { entry .ready true with age := a } tile)).slice 768).ticket 3
    (e.age, e.state)) = [(8, .ready), (999, .ready), (0, .free)] := by decide +kernel

/-! ### Queues, joins and the dispenser -/

def ringed (prod : BitVec 32) (en : Bool) (hbm : Mem) (t : Tile) : State :=
  { on t with
    hbm := hbm
    dev := { Device.reset with
      handles := [(1, (0xE000000000010000, 1))]
      queues := [(0, { QDesc.reset with en := en, ring := 1, log2 := 4, cmask := BitVec.allOnes 64, prod := prod })] } }
def enqOf (rec_ : BitVec 1120) : Tile := { tile with reqs := [req (.enq 0 64) [{ lane 0 32 (.hit 0) with data := rec_ }]] }
theorem witness_EnqueueEvents : (on (enqOf 0)).enqReady 0 (req (.enq 0 64) [lane 0 32 (.hit 0)]) = true ∧ recStatic 0 = true ∧
    recStatic (1 <<< 30) = false ∧ (ringed 1 true [] tile).ringBase 0 = some 65536 ∧ (on tile).ringBase 0 = none ∧
    ([true, false].all fun x => (owned x (on (enqOf 0))).enqReady 0 (req (.enq 0 64) [lane 0 32 (.hit 0)]) &&
      ((owned x (on (enqOf 0))).queueDesc 0).prod == 1) = true ∧
    (on tile).dev.sec.failed = none := by decide +kernel
theorem test_enq : ([((1 : BitVec 32), true, (0 : BitVec 1120), LaneSt.fin, (65536 : BitVec 1120)), (16, true, 0, .fin, 1), (1, false, 0, .fin, 2), (1, true, 1 <<< 30, .fin, 3)].all
    fun (prod, en, rec_, (st : LaneSt), (x : BitVec 1120)) => decide (laneOf ((run (.enqAtSlice 0 1) (ringed prod en [] (enqOf rec_))).tile 0) 1 0 =
      some (st, x))) = true ∧
    ((run (.enqAtSlice 0 1) (ringed 1 true [] (enqOf 0))).slotWord 65536 1 4) = 1 ∧
    ((run (.enqAtSlice 0 1) (owned false (on (enqOf 0)))).slotWord 65536 0 4) = 0x40 ∧
    ((run (.queueDescriptorWrite 3 2 17) (live (on tile))).queueDesc 3).en = false ∧
    ((run (.queueDescriptorWrite 3 2 16) (live (on tile))).queueDesc 3).log2 = 16 := by decide +kernel

/-- A join block at physical address 0x30000: its counter and status, and its target word. -/
def joinOf (cnt target : W64) (prod : BitVec 32) : State :=
  ringed prod true (Mem.write (Mem.write [] 0x30000 (bytesOf 8 cnt)) 0x30008 (bytesOf 8 target))
    { tile with reqs := [{ req .join [lane 0x20000 64 (.hit 0x30000)] with ops := { Opnds.zero with o0 := .ofScalar 4 } }] }
/-- The same block in the HASHH region of an image: handle 2 of one page. -/
def hashedJoin : State :=
  let s := (joinOf 1 0 1).setImage 0 { Image.reset with v := true, npages := 1, hashh := 2 }
  { s with dev := { s.dev with handles := s.dev.handles ++ [(2, (0xE000000000030000, 1))] } }
theorem witness_JoinEvents : (joinOf 1 0 1).enqReady 0 (req .join [lane 0x20000 64 (.hit 0x30000)]) = true ∧
    (joinOf 1 0 1).hashed 0x30000 8 = false ∧ (joinOf 1 0 1).softHbm = [] ∧ hashedJoin.hashed 0x30000 8 = true ∧
    (owned false (joinOf 1 0 1)).enqReady 0 (req .join [lane 0x20000 64 (.hit 0x30000)]) = true ∧
    (joinOf 1 0 1).badHbm = [] ∧ (joinOf 1 0 1).hbm.wf = true ∧ recStatic (recWith (BitVec.ofNat 256 ((joinOf 1 0 1).hbm.value 0x30020 32)) 4) = true ∧
    (joinOf 1 0 1).ringBase 0 = some 65536 ∧ (0x8000000000000000 : W64).getLsbD 63 = true ∧
    quadrantOf (homeCluster (sliceOf 0x30000)) < 4 := by decide +kernel
theorem test_join :
    laneOf ((run (.joinAtSlice 0 1) (joinOf 0 0 1)).tile 0) 1 0 = some (.flt 0x19 0, 0) ∧
    laneOf ((run (.joinAtSlice 0 1) hashedJoin).tile 0) 1 0 = some (.flt 0x12 0, 0) ∧
    (run (.joinAtSlice 0 1) (owned false (joinOf 0 0 1))).gangs = [owner true] ∧
    (run (.joinAtSlice 0 1) (joinOf 0x0200000003 0 1)).hbm.double 0x30000 = 0x0600000002 ∧
    ((run (.joinAtSlice 0 1) (joinOf 1 0 1)).queueDesc 0).prod = 2 ∧
    ((run (.joinAtSlice 0 1) (joinOf 1 0 16)).cluster (homeCluster (sliceOf 0x30000))).handover.length = 1 ∧
    (vget .reset (run (.joinAtSlice 0 1) (joinOf 1 0x8000000000000000 1)).dev.mail (quadrantOf (homeCluster (sliceOf 0x30000)))).notices =
      [.jobDone 0x20000 4 0] := by decide +kernel
def handing : State := (ringed 1 true [(0x30005, 1)] tile).setCluster 3 { Cluster.reset with handover := [⟨0, 0, 0x30000⟩] }
theorem witness_Handover : handing.ringBase 0 = some 65536 ∧ (handing.queueDesc 0).en = true ∧ handing.hbm.wf = true ∧
    (run (.handoverEnqueue 3) handing).hbm.double 0x30000 = 0 := by decide +kernel

/-- Queue 0 with its record of zeros READY in slot 0; image 0 has an entry at offset 0. -/
def served (hbm : Mem) (tiles : List (Nat × Tile)) : State :=
  ({ ringed 1 true hbm tile with tiles := tiles }).setImage 0 { Image.reset with v := true, npages := 1, entries := [⟨0, 0, 0, 0, 0⟩] }
def readySlot : Mem := [(65536 + 32, 1)]
theorem witness_DispenserEvents : let s := served readySlot []
    s.head 0 0 = some (65536, 0) ∧ s.launchable (s.slotRecord 65536 0) = some ⟨0, 0, 0, 0, 0⟩ ∧
    s.place 0 0 0 (s.slotRecord 65536 0) = some 0 ∧ bitsN (s.cluster 0).dspctl 0 2 = 1 ∧
    (ringed 1 true readySlot tile).launchable 0 = none ∧ recJoin 0 = 0 := by decide +kernel
theorem test_dispenser : let u := run (.dispenserSelect 0) (served readySlot [])
    u.gangs.map (·.gid) = [0] ∧ (u.tile 0).run = .running ∧ slotState (u.slotWord 65536 0 4) = 2 ∧
    (u.queueDesc 0).claim = 1 := by decide +kernel
/-- The record asks for all of cluster 0 and has waited; tile 0 is taken. -/
def crowded : State :=
  { (ringed 1 true [(65536 + 24, 8), (65536 + 32, 1)] tile).setImage 0
      { Image.reset with v := true, npages := 1, entries := [⟨0, 0, 8, 0, 0⟩] } with ns := 2000000 }
theorem witness_ReservationTake : (crowded.cluster 0).rsv = none ∧ crowded.head 0 0 = some (65536, 0) ∧
    2000000 ≤ crowded.waited 65536 0 ∧ recShape (crowded.slotRecord 65536 0) = 8 ∧
    (crowded.launchable (crowded.slotRecord 65536 0)).isSome = true ∧ crowded.place 0 0 0 (crowded.slotRecord 65536 0) = none ∧ 0 ∈ rectsOf 0 8 ∧
    ((rectTiles 0 8).all fun t => crowded.tileAllowed (recSpadk (crowded.slotRecord 65536 0)) t) = true := by decide +kernel
theorem test_reservation : (run (.reservationTake 0) crowded).cluster 0 = { Cluster.reset with rsv := some ⟨0, 0, 8, 0⟩ } := by
  decide +kernel
def reports (n : Nat) : List Report := (List.range n).map fun k => ⟨BitVec.ofNat 64 k, 0, 0, 0⟩
theorem witness_SupervisorRing : ((on tile).setCluster 0 { Cluster.reset with supring := reports 64, supWait := reports 2 } |>.cluster 0).supring.length ≤ 64 := by
  decide +kernel
theorem test_supack : let c := (run (.supack 0 1) ((live (on tile)).setCluster 0 { Cluster.reset with supring := reports 64, supWait := reports 2 })).cluster 0
    c.supring.length = 64 ∧ c.supWait.length = 1 := by decide +kernel

/-! ### Gangs -/

def draining (d : Option Deferred) : State := ganged gang { tile with run := .draining, deferred := d }
theorem witness_ReleaseEvents : (draining none).drained 0 = true ∧ ((draining none).tile 0).queues = Vector.replicate 7 [] ∧
    ((draining none).tile 0).log = [] ∧ ({ State.reset with gangs := [gang] } : State).gang? 7 = some gang ∧
    ({ State.reset with gangs := [gang] } : State).members gang = [] ∧ gang.runsOn = true ∧ recJoin gang.record = 0 ∧
    ({ ringed 1 true readySlot tile with tiles := [], gangs := [gang] } : State).ringBase 0 = some 65536 := by decide +kernel
theorem test_release : ((run (.tileRelease 0) (draining none)).tile 0).run = .idle ∧
    ((run (.tileRelease 0) (draining (some ⟨1, 0x13, 64, 0⟩))).cluster 0).supring.map (·.w1) = [0x1A] ∧
    (run (.tileRelease 0) (draining (some ⟨1, 0x13, 64, 0⟩))).gangs.map (·.status) = [2] ∧
    (run (.gangRetire 7) { State.reset with gangs := [gang] }).gangs = [] ∧
    ((run (.gangRetire 7) { State.reset with gangs := [gang] }).cluster 0).unretired = [(0, 0, 0)] := by decide +kernel

def failed (x : Bool) (r : Run) : State :=
  ((ganged { gang with why := some (.failed true), exposed := x } { tile with run := r }).setImage 0
    { Image.reset with v := true, npages := 1, entries := [⟨0, 0, 0, 0, 0⟩] })
def failedRinged (x : Bool) (r : Run) : State :=
  let s := failed x r
  { s with hbm := readySlot, dev := { s.dev with handles := (served [] []).dev.handles, queues := (served [] []).dev.queues } }
theorem witness_FailureEvents :
    ({ gang with why := some (.failed true) } : Gang).runsOn = false ∧
    ((failed true .running).members gang).any (fun m => ((failed true .running).tile m).run == .running) = true ∧
    ([true, false].all fun x => let s := failedRinged x .stopping
      (s.members gang).all (fun m => (s.tile m).run != .running && s.quiet m) && !s.reportWaits (s.members gang) &&
      (s.granted gang (s.members gang)).isEmpty && s.saves.isEmpty && decide (s.ringBase 0 = some 65536) &&
      decide (slotRetry (s.slotWord 65536 0 4) < 3) && (s.launchable gang.record).isSome) = true ∧
    ({ gang with why := some (.failed true), exposed := true } : Gang).mustRetire = true ∧
    ({ gang with why := some (.failed true) } : Gang).mustRetire = false := by decide +kernel
theorem test_fail : ((run (.gangFail 7) (failed true .running)).tile 129).stopReq = true ∧
    (run (.gangFail 7) (failedRinged true .stopping)).gangs = [] ∧
    ((run (.gangFail 7) (failedRinged false .stopping)).cluster 0).redo = [⟨0, 0, 7⟩] ∧
    slotRetry ((run (.gangFail 7) (failedRinged false .stopping)).slotWord 65536 0 4) = 1 ∧
    (run (.recordCancel 0 0) (live (ganged gang tile))).gangs.map (·.why) = [some .cancelled] := by decide +kernel
theorem witness_Unresponsive : let s := stocked (on (due 0 false (.mzro 1)))
    (s.tile 0).run = .running ∧ (s.tile 0).report = none ∧ s.lockBits 0 = 0 ∧ (s.tile 0).undo.pending = true := by
  decide +kernel

def quarantined : State :=
  { State.reset with
    tiles := [(0, { tile with run := .quarantined }), (1, { tile with run := .quarantined }), (5, { tile with phCount := 4 })]
    quar := [⟨7, [0, 1], [(5, 3)]⟩] }
theorem witness_QuarantineEnd : (quarantined.quar.find? fun q => q.gid.toNat == 7) = some ⟨7, [0, 1], [(5, 3)]⟩ ∧
    (quarantined.tile 5).phCount ≠ 3 := by decide +kernel
theorem test_quarantine : ((run (.quarantineEnd 7) quarantined).tile 1).run = .idle ∧ (run (.quarantineEnd 7) quarantined).quar = [] := by
  decide +kernel
theorem witness_GangStop : gang.why = none ∧ (pooled (ganged gang tile)).saveRoom 0 (saveSize 2) = some 4096 := by decide +kernel
theorem test_stop : (run (.gangStop 7) (live (pooled (ganged gang tile)))).gangs.map (·.why) = [some .preempt] ∧
    ((run (.gangStop 7) (live (pooled (ganged gang tile)))).tile 128).stopReq = true := by decide +kernel
def halting : State := { pooled (ganged { gang with why := some .preempt } { tile with run := .stopping }) with
  saves := [⟨gang, false, 4096, saveSize 2, []⟩] }
theorem witness_GangStop_saves : (halting.saves.find? fun v => v.gang.gid == gang.gid && !v.checkpoint).isSome = true ∧
    halting.members gang ≠ [] ∧ (halting.members gang).all (fun m => (halting.tile m).halted &&
      (halting.tile m).sync.all (·.arrived) && halting.quiet m && halting.arrived m) = true := by decide +kernel
/-- The cells of bytes that stand from `a` on. -/
def cellsAt (a : Nat) : List Byte → Mem
  | [] => []
  | b :: bs => if b = 0 then cellsAt (a + 1) bs else (a, b) :: cellsAt (a + 1) bs
theorem cellsAt_zip (bs : List Byte) : ∀ a n : Nat, (bs.zipIdx n).filterMap (fun (b, k) => if b = 0 then none else some (a + k, b)) =
    cellsAt (a + n) bs := by
  induction bs with
  | nil => simp [cellsAt]
  | cons b bs ih =>
    intro a n
    simp only [List.zipIdx_cons, List.filterMap_cons, cellsAt, ih a (n + 1), Nat.add_assoc]
    by_cases h : b = 0#8 <;> simp [h]
theorem cellsAt_range (bs : List Byte) : ∀ a : Nat, ∀ p ∈ cellsAt a bs, a ≤ p.1 ∧ p.1 < a + bs.length := by
  induction bs with
  | nil => simp [cellsAt]
  | cons b bs ih =>
    intro a p hp
    simp only [cellsAt] at hp
    split at hp
    · have := ih (a + 1) p hp; simp; omega
    · rcases List.mem_cons.1 hp with rfl | hp
      · simp
      · have := ih (a + 1) p hp; simp; omega
theorem cellsAt_wf (bs : List Byte) (m : Mem) : ∀ a lo : Nat, lo ≤ a → m.wfFrom (a + bs.length) = true →
    Mem.wfFrom lo (cellsAt a bs ++ m) = true := by
  induction bs with
  | nil => intro a lo h hm; exact Mem.wfFrom_mono hm (by simpa using h)
  | cons b bs ih =>
    intro a lo h hm
    have hm' : m.wfFrom (a + 1 + bs.length) = true := by rw [show a + 1 + bs.length = a + (b :: bs).length by simp; omega]; exact hm
    simp only [cellsAt]
    split
    · exact ih (a + 1) lo (by omega) hm'
    · rename_i hb
      simp only [List.cons_append, Mem.wfFrom, Bool.and_eq_true, decide_eq_true_eq, bne_iff_ne, ne_eq]
      exact ⟨⟨h, hb⟩, ih (a + 1) (a + 1) (Nat.le_refl _) hm'⟩
theorem bytes_length (l : List W64) : (l.flatMap (bytesOf 8)).length = 8 * l.length := by
  induction l with
  | nil => rfl
  | cons x l ih => simp only [List.flatMap_cons, List.length_append, ih]; simp [bytesOf]; omega
/-- Doubles stand where their cells are between others'. -/
theorem holds_cells (x y : Mem) (a : Nat) (l : List W64) (hx : ∀ p ∈ x, p.1 < a) (hy : ∀ p ∈ y, a + 8 * l.length ≤ p.1) :
    Mem.holds (x ++ (cellsAt a (l.flatMap (bytesOf 8)) ++ y)) a l = true := by
  have h1 : x.filter (fun p => decide (a ≤ p.1) && decide (p.1 < a + 8 * l.length)) = [] := by
    rw [List.filter_eq_nil_iff]; intro p hp; have := hx p hp; simp; omega
  have h2 : y.filter (fun p => decide (a ≤ p.1) && decide (p.1 < a + 8 * l.length)) = [] := by
    rw [List.filter_eq_nil_iff]; intro p hp; have := hy p hp; simp; omega
  have h3 : (cellsAt a (l.flatMap (bytesOf 8))).filter (fun p => decide (a ≤ p.1) && decide (p.1 < a + 8 * l.length)) =
      cellsAt a (l.flatMap (bytesOf 8)) := by
    rw [List.filter_eq_self]; intro p hp
    have := cellsAt_range _ a p hp
    rw [bytes_length] at this
    simp; omega
  simp only [Mem.holds, cellsAt_zip _ a 0, List.filter_append, h1, h2, h3, List.nil_append, List.append_nil, Nat.add_zero, beq_self_eq_true]

/-- Gang 7, of one tile, saved with 5 in g1 at 4096 of its pool. -/
def soloGang : Gang := { gang with log2n := 0 }
def soloSave : Save := ⟨soloGang, false, 4096, saveSize 0, [(0, { tile with g := vput tile.g 1 5 })]⟩
/-- Handle 2, of 64 pages at 0x100000 of this device's memory or of device 1's, is the queue's checkpoint pool. -/
def pool2 (peer : Bool) (s : State) : State :=
  { s with dev := { s.dev with
      handles := [(1, (0xE000000000010000, 1)), (2, (if peer then 0xF000010000100000 else 0xE000000000100000, 64))]
      queues := s.dev.queues.map fun (q, d) => (q, { d with ckpool := 2 }) } }
/-- Nothing of the save stands in the pool, and all of it does, as it was written. -/
def savedOver : State := { live (pool2 false (served readySlot [])) with saves := [soloSave] }
def savedRecord : List W64 := ({ tile with g := vput tile.g 1 5 } : Tile).saveRecord
def saved : State := { savedOver with
  hbm := readySlot ++ (cellsAt 0x101000 ((soloSave.header ++ soloSave.directory).flatMap (bytesOf 8)) ++
    (cellsAt 0x101840 (savedRecord.flatMap (bytesOf 8)) ++ [])) }
theorem saved_parts : soloSave.parts = [(0, soloSave.header ++ soloSave.directory), (2112, savedRecord)] := rfl
theorem header_length (v : Save) : (v.header ++ v.directory).length = 264 := by simp [Save.header, Save.directory]
theorem savedRecord_length : savedRecord.length ≤ 60000 := by decide +kernel
theorem witness_GangResume_stands : saved.saveStands soloSave 0x101000 = true ∧ saved.hbm.wf = true := by
  have hr : ∀ p ∈ cellsAt 0x101840 (savedRecord.flatMap (bytesOf 8)) ++ [], 0x101840 ≤ p.1 := fun p hp => by
    rw [List.append_nil] at hp; exact (cellsAt_range _ _ p hp).1
  constructor
  · simp only [State.saveStands, saved_parts, List.all_cons, List.all_nil, Bool.and_true, Bool.and_eq_true]
    constructor
    · exact holds_cells readySlot _ 0x101000 _ (by simp [readySlot]) fun p hp => by
        have := hr p hp; rw [header_length]; omega
    · have : saved.hbm = (readySlot ++ cellsAt 0x101000 ((soloSave.header ++ soloSave.directory).flatMap (bytesOf 8))) ++
          (cellsAt 0x101840 (savedRecord.flatMap (bytesOf 8)) ++ []) := by simp [saved]
      rw [this]
      refine holds_cells _ [] 0x101840 savedRecord (fun p hp => ?_) (by simp)
      rcases List.mem_append.1 hp with h | h
      · simp [readySlot] at h; subst h; decide
      · have := (cellsAt_range _ _ p h).2; rw [bytes_length, header_length] at this; omega
  · have hw : Mem.wfFrom 65569 (cellsAt 0x101000 ((soloSave.header ++ soloSave.directory).flatMap (bytesOf 8)) ++
        (cellsAt 0x101840 (savedRecord.flatMap (bytesOf 8)) ++ [])) = true :=
      cellsAt_wf _ _ _ _ (by omega) (cellsAt_wf _ [] _ _ (Nat.le_of_eq (by rw [bytes_length, header_length])) rfl)
    have e : saved.hbm = (65568, 1) :: (cellsAt 0x101000 ((soloSave.header ++ soloSave.directory).flatMap (bytesOf 8)) ++
        (cellsAt 0x101840 (savedRecord.flatMap (bytesOf 8)) ++ [])) := by simp only [saved, readySlot, List.singleton_append]
    rw [e]
    simp only [Mem.wf, Mem.wfFrom, hw, Nat.zero_le, decide_true, Bool.true_and, Bool.and_true]
    decide
theorem witness_GangResume_place : saved.savePlace soloSave = some (some 0x101000) ∧
    savedOver.savePlace soloSave = some (some 0x101000) := by
  have h : soloSave.length = 2112 + 8 * savedRecord.length := by
    simp only [Save.length, saved_parts, List.foldl_cons, List.foldl_nil, header_length]; omega
  have hl := savedRecord_length
  have key : ∀ s : State, s.dev = savedOver.dev → s.savePlace soloSave = some (some 0x101000) := by
    intro s hs
    have hp : s.handlePa 2 4096 (2112 + 8 * savedRecord.length) false = some (0x101000, none) := by
      simp only [State.handlePa, hs]
      have h1 : handleSize (handleAt savedOver.dev.handles 2) = 4194304 := by decide
      have h2 : handleBase (handleAt savedOver.dev.handles 2) = 0x100000 := by decide
      have h3 : (handleAt savedOver.dev.handles 2).1.getLsbD 63 = true ∧ (handleAt savedOver.dev.handles 2).1.getLsbD 61 = true := by decide
      rw [if_pos]
      · simp only [h2]; rfl
      · simp only [h1, h2, h3, Bool.and_eq_true, decide_eq_true_eq, Bool.false_eq_true, if_false, true_and]; omega
    have hq : (s.queueDesc soloSave.gang.queue).ckpool.toNat = 2 := by unfold State.queueDesc; rw [hs]; decide +kernel
    simp only [State.savePlace, hq, h, show soloSave.offset = 4096 from rfl, hp, addressable]
    rw [if_pos (by simp; omega)]
  exact ⟨key _ rfl, key _ rfl⟩
theorem witness_GangResume : saved.badHbm = [] ∧ ([saved, savedOver].all fun s => s.resumable 0 soloSave &&
    (s.launchable soloGang.record).isSome && decide (s.place 0 0 0 soloGang.record = some 0)) = true ∧
    soloGang.why ≠ some .integrity ∧ soloSave.members.map (·.1) = [0] ∧ bitsN (saved.cluster 0).dspctl 0 2 = 1 ∧
    savedOver.saveStands soloSave 0x101000 = false ∧ (live (served readySlot [])).savePlace soloSave = none := by decide +kernel
/-- What a member takes from a control section in which its pc and its loop count 2 have changed. -/
theorem test_recall : let t := tile.readControl fun k => if k = 0 then 8 else if k = 3 then 3 else 0
    t.pc = 8 ∧ vget 0 t.lc 2 = 3 := by decide +kernel
/-- The save on a peer. -/
def savedPeer : State := { pool2 true (live { served readySlot [] with
  dev := { (served readySlot []).dev with routes := (routed tile).dev.routes, ports := (routed tile).dev.ports } }) with saves := [soloSave] }
theorem test_resume : let u := run (.gangResume 0) savedPeer
    (u.tile 0).run = .running ∧ vget 0 (u.tile 0).g 1 = 5 ∧ u.saves = [] ∧ u.gangs = [soloGang] := by decide +kernel

/-! ### Copies, collectives and waits -/

/-- A nest of one iteration, and a card of one element of 8 bytes: from byte 0 to byte 64 of handle 1. -/
def nest1 : BitVec 2048 := (List.range 6).foldl (fun n l => n ||| (1 <<< (256 * l))) 0
def card1 : Card := ⟨#v[0x0001000000000000, 0x0001000000000040, 0x0600000000000000, 0x1000000000, 0, 0x1000000000, 0, 0], nest1⟩
def job (st : JobSt) (w2 : W64) : Job :=
  ⟨0, { card1 with w := vput card1.w 2 w2 }, mkTicket 2 5 3 4 0 0, 0, 7, 1, st, 0, none, 0, (0xE000000000010000, 1), (0xE000000000010000, 1), none, false⟩
def copying (j : Job) : State :=
  let s := ringed 1 true [(65536, 7)] { tile with cbufs := vput tile.cbufs 0 ⟨0x10010, 2, 0, 0, 0, 0, 0, 0, 0, []⟩ }
  (s.setSlice 5 { Slice.reset with tickets := [(3, { Ticket.reset with state := .pending, kind := 2, gen := 4 })] }).setCluster 0
    { Cluster.reset with jobs := [(9, j)] }
theorem witness_CopyJobEvents :
    ([job .waiting 0x0600000000000000, { job .waiting 0x1600000000000000 with card := { card1 with w := vput (vput card1.w 2 0x1600000000000000) 1 0 } }].all
      fun j => !(copying j).jobRevoked j && (copying j).jobMayStart ((copying j).cluster 0) j) = true ∧
    (let j := job .running 0x0600000000000000
    (List.range 6).all (fun l => nestCount j.card.nest l == 1) = true ∧ j.card.clip = false ∧ j.card.rop = 0 ∧ j.card.cb = false ∧
    j.card.esize = 8 ∧ j.source.inPrint 0 8 = true ∧ j.source.aligned 0 8 = true ∧
    (j.dest CBuf.empty).inPrint 0 8 = true ∧ (j.dest CBuf.empty).aligned 0 8 = true ∧
    (match (copying j).copyPlace (.copy 0 0) (j.dest CBuf.empty) true 0 8, (copying j).copyPlace (.copy 0 0) j.source false 0 8 with
      | .ok (.hbm d), .ok (.hbm s) => d == 65600 && s == 65536
      | _, _ => false) = true ∧ (owned false (copying j)).gang? 7 = some (owner false) ∧ j.ticket ≠ 0 ∧ j.staged = none ∧
    slotToExpose (owned false (copying j)) (some (owner false)) = some 65568) ∧
    (job .running 0x0608000000000000).card.rop ≠ 0 := by decide +kernel
theorem test_copy : (run (.copyJobEnd 0 9) (copying (job .running 0x0600000000000000))).hbm = [(65536, 7), (65600, 7)] ∧
    (((run (.copyJobEnd 0 9) (copying (job .running 0x0600000000000000))).slice 5).ticket 3).data = 8 ∧
    (((run (.copyJobEnd 0 9) (copying (job .running 0x0600000000000000))).slice 5).ticket 3).state = .ready ∧
    (run (.copyJobEnd 0 9) (owned false (copying (job .running 0x0600000000000000)))).hbm = [(65536, 7), (65568, 0x40), (65600, 7)] := by
  decide +kernel
def filling : Tile := { tile with cbufs := vput tile.cbufs 0 ⟨0x10010, 0, 0, 0, 2, 0, 1, 0, 0, [1]⟩ }
theorem witness_CbSlotFilled : (filling.cbuf 0).fillAt ∈ (filling.cbuf 0).ended := by decide +kernel
theorem test_slot_filled : ((run (.cbSlotFilled 0 0) (on filling)).tile 0).cbuf 0 = ⟨0x10010, 0, 1, 0, 1, 0, 0, 0, 0, []⟩ := by
  decide +kernel
/-- An all-gather of one I32 in a gang of one, from offset 256 to offset 512. -/
def gathering (early : List Byte) : State := { State.reset with
  gangs := [soloGang]
  tiles := [(0, { tile with
    gid := 7, spm := [(256, 9)]
    colls := [⟨0, #v[0x2018000000000001, 0, 256, 512, 0, 0, 0, 0], 0, some (tick 4), 0, [0, 0, 0, 0], early⟩] })] }
theorem witness_CollectiveComplete : let s := gathering [9, 0, 0, 0]
    s.gang? 7 = some soloGang ∧ s.members soloGang = [0] ∧
    ((s.tile 0).colls.all fun x => (s.tile 0).collReady x && x.ticket.isSome && !collPeer x.card &&
      decide (collKind x.card = 2) && decide (collBlock x.card = 4) && decide (x.early.length = 4) &&
      decide (collDst x.card ≠ collSrc x.card)) = true ∧ (s.tile 0).spm.wf = true ∧ (s.tile 0).spmBad 256 4 = false := by
  decide +kernel
theorem test_collective : let u := run (.collectiveComplete 7) (gathering [9, 0, 0, 0])
    (u.tile 0).spm = [(256, 9), (512, 9)] ∧ (u.tile 0).colls = [] := by decide +kernel
/-- A WAIT for a message, its place, and a bound that has run out. -/
def waitingFor (box : List Msg) : Tile :=
  { tile with
    inbox := box, waits := [⟨4, 0x1000, [0, 0, 0, 0], if box.isEmpty then some 0 else none⟩]
    queues := vput tile.queues 1 [⟨4, false, .zero, false, .zero, 0, false, false, .raw, .zero⟩] }
theorem witness_WaitEvents : (on (waitingFor [⟨0, []⟩])).waitHolds (waitingFor [⟨0, []⟩]) ⟨4, 0x1000, [0, 0, 0, 0], none⟩ = true ∧
    ((waitingFor []).queue 1).any (fun p => p.id == 4 && !p.ready) = true := by decide +kernel
theorem test_wait :
    (((run (.waitComplete 0) (on (waitingFor [⟨0, []⟩]))).tile 0).queue 1).map (·.val.lo) = [0x1000] ∧
    (((run (.waitTimeout 0) (on (waitingFor []))).tile 0).queue 1).map (·.val.lo) = [0x8000000000000000] := by decide +kernel

/-! ### Power, memory, boundaries and service cores -/

def weired (w : Weir) (left : Nat) : State := (on { tile with slns := 40, weir := left }).setRow 0 { VRow.reset with
  weir := w, grant := 840, thresh := 5 }
theorem witness_PowerEvents : ((weired .idle 0).row 0).weir ≠ .stretch ∧ ((weired .idle 0).row 0).thresh ≠ 0 ∧
    ((weired .stretch 64).row 0).weir = .stretch ∧ (weired .stretch 64).weirLeft 0 64 = true ∧
    ((weired .halve 1).row 0).weir = .halve ∧ (weired .halve 1).weirLeft 0 1 = true ∧ (weired .halve 2).weirLeft 0 1 = false ∧
    ((weired .idle 0).row 0).grant ≠ ((weired .idle 0).row 0).mhz ∧ rowOfTile 0 = 0 := by decide +kernel
theorem test_power : ((run (.weirAlarm 0) (weired .idle 0)).row 0).weir = .stretch ∧
    ((run (.weirAlarm 0) (weired .idle 0)).tile 0).weir = 70 ∧
    ((run (.weirStretchEnd 0) (weired .stretch 64)).row 0).weir = .halve ∧
    ((run (.weirHalveEnd 0) (weired .halve 1)).tile 0).slns = 39 ∧
    ((run (.tileClockChange 0 840) (weired .idle 0)).tile 0).slns = 48 := by decide +kernel
def scored : State := State.reset.setSlice 3 { Slice.reset with scores := [⟨5, 127⟩, ⟨6, 1⟩] }
theorem witness_MemoryReliabilityEvents : ((scored.slice 3).scores.all fun r => decide (r.score < 128)) = true := by decide +kernel
theorem test_halving : ((run (.scoreHalving 3) scored).slice 3).scores = [⟨5, 63⟩] := by decide +kernel
def moduled (rt : Bool) (n : Nat) : State :=
  State.reset.setModule 2 47 { (State.reset.module 2 47) with rt := rt, streak := n, bad := [0, 1, 2] }
theorem witness_BoundaryEvents : ((moduled false 3).module 2 47).rt = false ∧ ((moduled false 3).module 2 47).width ≠ 3 ∧
    ((moduled true 0).module 2 47).rt = true ∧ (2 ^ 47).testBit 47 = true := by decide +kernel
theorem test_retrain : run (.flitCrcFail 2 47) (moduled true 0) = moduled true 0 ∧
    ((run (.retrainComplete 2 47) (moduled true 0)).module 2 47).width = 2 ∧
    ((run (.boundaryRetrainCmd 2 (2 ^ 47)) (live (moduled false 0))).module 2 47).rt = true := by decide +kernel

theorem witness_MapWrites :
    spaceOf (BitVec.ofNat 64 (0xE0000000020B0018 / 8 * 8)) = .chip (.tile 2 0xB0018) ∧
    spaceOf (BitVec.ofNat 64 (0xE0000000000B1800 / 8 * 8)) = .chip (.tile 0 0xB1800) ∧
    spaceOf (BitVec.ofNat 64 (0xE100000005048040 / 8 * 8)) = .chip (.slice 5 0x48040) ∧
    spaceOf (BitVec.ofNat 64 (0xE200000003000000 / 8 * 8)) = .chip (.cluster 3 0) ∧
    spaceOf (BitVec.ofNat 64 (0xE400000000000008 / 8 * 8)) = .chip (.device 8) ∧
    spaceOf (BitVec.ofNat 64 (0xE400000000100010 / 8 * 8)) = .chip (.device 0x100010) := by decide +kernel
theorem test_map : bitsN (vget 0 ((run (.mapWrite 0xE0000000020B0018 0x1FE) (live (on tile))).tile 2).grants 3) 0 9 = 256 ∧
    ((run (.mapWrite 0xE0000000000B1800 1) (live (on tile))).tile 0).parkReq = true ∧
    ((run (.mapWrite 0xE200000003000000 0x1000000000000002) (live (on tile))).cluster 3).tlbBusy = true ∧
    (run (.mapWrite 0xE400000000000008 0x1234) (live (on tile))).dev.ptroot = 0x1000 := by decide +kernel
/-- A manifest of one entry and one page, with a byte set behind its signature. -/
def badImage : State :=
  let hd : List Byte := bytesOf 4 (0x4F41544D : W32) ++ [1, 0, 1, 0, 1, 0, 0, 0] ++ List.replicate 8 0 ++ [1]
  { State.reset with
    hbm := Mem.write [(0x10000 + 8000, 1)] 0x10000 hd
    dev := { Device.reset with handles := [(1, (0xE000000000010000, 1))] } }
theorem witness_ImageLoad : (match (State.readImage { badImage with dev := { badImage.dev with loaded := none } } 0x0001000000000000).1 with
    | some x => !x.formOk
    | none => false) = true := by decide +kernel
def unloading : State := (on Tile.reset).setImage 3 { Image.reset with v := true, gen := 2 }
theorem witness_ImageUnload : (unloading.named (2 * 1024 + 3)).isSome = true ∧ unloading.imageBusy (2 * 1024 + 3) = false := by
  decide +kernel
def mailed : State := { State.reset with dev := { Device.reset with
  mail := vput Device.reset.mail 2 { Mailbox.reset with
    requests := [⟨.mapWrite 0xE400000000000008 0x1234⟩, ⟨.queueDescriptorWrite 3 3 9⟩], notices := [.jobDone 64 2 0] }
  sec := ⟨3, none, [], 0, []⟩ } }
theorem witness_ServiceEvents : (vget .reset mailed.dev.mail 2).requests.length = 2 ∧
    State.reset.dev.sec.booted = 0 ∧ State.reset.dev.sec.failed = none ∧ 2 ≤ mailed.dev.sec.booted ∧ mailed.dev.sec.failed = none ∧
    mailed.gangs = [] ∧ ({ mailed with dev := { mailed.dev with sec := ⟨2, some 3, [], 0, []⟩ } } : State).dev.sec.failed.isSome = true := by
  decide +kernel
theorem test_service : ((run (.mailboxDoorbell 2) mailed).queueDesc 3).cmask = 9 ∧
    (run (.mailboxDoorbell 2) mailed).dev.ptroot = 0x1000 ∧
    (vget .reset (run (.jobCompletionNotice 2) mailed).dev.mail 2).done = [(64, 2)] ∧
    (vget .reset (run (.jobCompletionNotice 2) mailed).dev.mail 2).raised = 1 ∧
    ((run .moduleReset (on { tile with spm := [(5, 1)] })).tile 0).spm = [(5, 1)] := by decide +kernel

/-! ### Bundles of several moves, loops, sources and the window -/

/-- The words of a bundle at offset 0 of image 0. -/
def coded (t : Tile) (ws : List W32) : State :=
  imaged { t with frames := vput t.frames 0 ⟨some (0, 0), Mem.write [] 0 (ws.flatMap (bytesOf 4)), 0⟩ }
/-- Bundle b1 of R104: `g33 -> g5 | #2 -> g32 | rotate`, with 1 in the register that g33 names (RRB 31, LD 3). -/
def rotating : State := coded { tile with rrc := 0x31F, g := vput tile.g 32 1 } [0xE0020000, 0x00084005, 0x01008020]
def b1 : Bundle := ⟨3, true, 0, [.move ⟨.s0, 0, .g 33⟩ (.g 5), .move ⟨.s1, 0, .imm 2⟩ (.g 32)]⟩
/-- Bundle b0 of R403: `g4 -> ia1.o0.e1 | g7 -> ia1.cmp.ltu.e1`, with -1 in g4 and 1 in g7. -/
def comparing : State :=
  coded { tile with g := vput (vput tile.g 4 (BitVec.allOnes 64)) 7 1 } [0xE0000000, 0x00012110, 0x0001F154]
def b0 : Bundle := ⟨3, false, 0, [.move ⟨.s0, 0, .g 4⟩ (.opnd .ia1 0 true), .cmpLtu ⟨.s1, 0, .g 7⟩ true true]⟩
theorem witness_BundlesOfMoves : rotating.bundleIssues b1 = true ∧ (rotating.landed.ld, rotating.landed.rrb) = (3, 31) ∧
    comparing.bundleIssues b0 = true ∧ comparing.gateOf ⟨.s0, 0, .g 4⟩ = .all ∧ comparing.gateOf ⟨.s1, 0, .g 7⟩ = .all := by
  decide +kernel
/-- The second row of R104's table; the only outcome of R403's. -/
theorem test_bundles :
    (let t := (run (.bundleIssue 0) rotating).tile 0; (t.rrc, t.gRead 5, t.gRead 33, t.gRead 34, t.gRead 32) = (0x31E, 1, 2, 1, 0)) ∧
    (((run (.bundleIssue 0) comparing).tile 0).fixedAt 2).pipe.map (fun x => x.val.lo) = [0] := by decide +kernel

/-- Levels 0, 1 and 2 active with 3, 1 and 5 iterations left; 0 and 1 end at 64 and start at 8, 2 ends at 128. -/
def looping : Tile := { tile with
  lc := #v[0x8000000000000003, 0x8000000000000001, 0x8000000000000005, 0], le := #v[64, 64, 128, 0], ls := #v[8, 8, 8, 0] }
theorem witness_LoopStepRule : lcActive looping.lc 1 = true ∧ looping.leAt 1 = 64 ∧ looping.leAt 2 ≠ 64 ∧ looping.leAt 0 = 64 ∧
    lcActive looping.lc 3 = false ∧ looping.leAt 1 ≠ 4 := by decide +kernel
/-- R157: level 1 expires with count 0, level 0 goes on; a transfer pops both with their counts. -/
theorem test_loop_step : (looping.loopStep 64).1.lc = #v[0x8000000000000002, 0, 5, 0] ∧ (looping.loopStep 64).2 = some 8 ∧
    (looping.loopPop 64).lc = #v[3, 1, 5, 0] := by decide +kernel

/-- A tile with something at every source: IA0's port, AU's queue (a handler's place behind a context's), link W, the inbox,
stream queue 2. -/
def place (id : Nat) (hp : Bool) : Place := ⟨id, true, .zero, false, .zero, 0, hp, false, .i64, .zero⟩
def fed : Tile :=
  { due 0 true (.mzro 1) with
    nb := 0, queues := vput tile.queues 0 [place 1 true, place 2 false, place 3 false]
    links := vput tile.links 0 ⟨[5, 6], 8, 0, [], []⟩, inbox := [⟨9, [7]⟩, ⟨8, []⟩]
    strm := vput tile.strm 2 ⟨0x8000000000000002, [11, 12], [], false⟩ }
def src (x : Src) : Head := ⟨.s0, 0, x⟩
theorem witness_SourcesRemove : fixedIdx .ia0 = some 1 ∧ queueIdx .au false = some 0 ∧
    (on fed).landed.queue 0 = [place 1 true] ++ place 2 false :: [place 3 false] ∧ (on fed).landed.inh = false ∧
    ((on fed).landed.link Dir.w.num).queue = [5, 6] ∧ (on fed).landed.inbox = [⟨9, [7]⟩, ⟨8, []⟩] ∧
    ((on fed).landed.taking).isNone = true ∧ ((on { fed with taking := some (⟨9, [7]⟩, 1) }).landed.taking) = some (⟨9, [7]⟩, 0 + 1) ∧
    ((on fed).landed.strmAt StreamQ.vf0O0.num).rows = [11, 12] := by decide +kernel
theorem test_sources :
    (((on fed).read (src (.res .au false))).queue 0).map (·.id) = [1, 3] ∧
    (((on fed).read (src (.port (.link .w)))).link 0).queue = [6] ∧
    (((on fed).read (src (.port (.link .w)))).link 0).back = [.credit] ∧
    ((on fed).read (src (.port .inbox))).taking = some (⟨9, [7]⟩, 1) ∧ ((on fed).read (src (.port .spr))).mx.rp = 288 := by
  decide +kernel

/-- The handler runs: IA0's captured port, and one captured result due two bundles on; a place of CH that holds a wait. -/
def windowed : Tile :=
  { inHandler with
    fixed := vput tile.fixed 1 ⟨⟨.ofScalar 1, true, 0, true, 0, false, .zero⟩, [],
      some ⟨.ofScalar 2, false, 5, true, 0, false, .zero⟩, [.fresh 2 0 (.ofScalar 3) 0 0]⟩
    queues := vput tile.queues 2 [{ place 4 false with rt := true, ops := { Opnds.zero with t := .ofScalar 6, opc := 2, e := true } }] }
theorem witness_WindowResults : (1, 0x90400, 4) ∈ fixedAreas ∧ (2, 0x94400, 8) ∈ placeAreas ∧ windowed.inh = true ∧ tile.inh = false ∧
    (windowed.fixedAt 1).port.full = true ∧ (tile.fixedAt 1).port.full = false ∧
    ((windowed.fixedAt 1).shPort.any fun p => p.full) = true ∧ (windowed.fixedAt 1).shadows.length = 1 ∧
    (windowed.queue 2).length = 1 ∧ (tile.queue 2).length = 0 ∧ ({ tile with slns := 3 } : Tile).slns ≠ 0 := by decide +kernel
/-- By the layouts of R193, R352 and R353: V and UNREAD; OFF 2 and V; OPC; the operands of the wait; RUN; and what writes do
to g0, p1, a dead register and a port. -/
theorem test_window : let at_ := windowed.winRead (on tile).view 0
    (at_ 0x90490 &&& 0xFFFFFFFFFFFFFFC0, at_ 0x90400) = (0x8000000000400000, 1) ∧
    (at_ 0x90600, at_ 0x90690 &&& 0xFFFFFF0000000000) = (3, 0x8000020000000000) ∧
    (at_ 0x944A0, at_ 0x944C8) = (6, 0x42) ∧ at_ 0xB1000 = 0x101 ∧ at_ 0x75040 = 0x8000000000000000 ∧
    (windowed.winWrite 0x70000 9).g = windowed.g ∧ (windowed.winWrite 0x74000 0).p = 1 ∧
    vget 0 (({ windowed with rrc := 0x300 } : Tile).winWrite 0x70120 9).g 36 = 0 ∧
    vget 0 (windowed.winWrite 0x70120 9).g 36 = 9 ∧
    ((windowed.winWrite 0x90490 0x1000000).fixedAt 1).port.flt = true ∧
    (windowed.winWrite 0x91490 0x1000000) = windowed := by decide +kernel

/-! ### Traps of deferred faults, of MX's load, and at a handler's bad word -/

/-- A FENCE with a deferred fault recorded; MX's load due with a memory error; the same with a handler word of zeros. -/
def faulted : Tile := { handled with deferred := some ⟨3, 0x13, 0x40, 0⟩ }
def badLoad : Tile :=
  { handled with mx := { tile.mx with load := some ⟨.mldb false 1 false 0x4000 [] none false, 7, 0, Vector.replicate 8 .zero, true⟩ } }
def causeAt (s : State) (h : Head) (a : Act) : Option Trap :=
  firstCause s.view s.opening (s.found h a) s.opening.landings.2 (s.ctxOf h a) (s.moves h a)
theorem witness_Trap_deferred : causeAt (on faulted) (imm 8) (.trig (fenceSpec true)) = some (on faulted).opening.deferredTrap ∧
    ((on faulted).opening.deferredTrap.code, (on faulted).opening.deferredTrap.addr) = (0x1A, 0x40) ∧
    (on faulted).takes (imm 8) (.trig (fenceSpec true)) (on faulted).opening.deferredTrap = true ∧
    (let s := on { faulted with syncFault := true }
    s.takes (imm 8) (.trig (addSpec false false)) s.opening.deferredTrap = true) := by decide +kernel
theorem witness_Trap_load : (match (on badLoad).opening.mxErrorTrap with
    | some x => (on badLoad).takes (imm 8) (.trig (addSpec false false)) x && x.code == 0x14
    | none => false) = true := by decide +kernel
theorem witness_Trap_badWord : let s := imaged { faulted with frames := vput tile.frames 0 ⟨some (0, 0), [], 0⟩ }
    s.takes (imm 8) (.trig (fenceSpec true)) s.opening.deferredTrap = true ∧ bitsN s.opening.tvec 2 28 * 4 < s.view.codeLen ∧
    (s.opening.codeWord (bitsN s.opening.tvec 2 28 * 4)).any (fun w => !w.getLsbD 31) = true ∧ s.opening.inh = false ∧
    s.opening.tvec.getLsbD 0 = true := by decide +kernel
theorem test_trap_deferred :
    (let t := (run (.fence (imm 8) true) (on faulted)).tile 0; (bitsN t.tcause 0 8, t.taddr, t.dfp, bitsN t.tstat 48 8) = (0x1A, 0x40, false, 3)) ∧
    (let t := (run (.add (imm 8) false false) (on badLoad)).tile 0; (t.tcause, t.taddr, t.mxError) = (0x3814, 0x4000, false)) ∧
    (let t := (run (.fence (imm 8) true) (imaged { faulted with frames := vput tile.frames 0 ⟨some (0, 0), [], 0⟩ })).tile 0; (t.run, t.report.map (fun r => (r.w0, r.w1)), t.dfp) = (.parked, some (0x9A00000000, 0x32), true)) := by decide +kernel

/-! ### Engines and events with several ends -/

/-- v2 on its way out of and into offset 64, in its second cycle; SFROW of one FP64 element; SFCM. -/
def spillingV (fill : Bool) : Tile :=
  { tile with v := vput tile.v 2 ⟨9, .i32, 0⟩, spm := [(64, 7)], spill := [⟨0, fill, true, 64, [some 2], [some 9], 0, true⟩] }
theorem witness_EngineEvents_more : ([false, true].all fun f => (spillingV f).spm.wf && !(spillingV f).spmBad 64 144 &&
      (spillingV f).pre.isNone) = true ∧
    ([sfOn 1 [], sfOn 3 []].all fun t => match t.sf.queue with
      | op :: _ => !t.storeOpen 0 (op.range t).1 (op.range t).2 op.nb && !t.spmBad (op.range t).1 (op.range t).2
      | [] => false) = true := by decide +kernel
theorem test_spill_v : (vget .zero ((run (.spillEngineCycle 0) (on (spillingV true))).tile 0).v 2).data = 7 ∧
    ((run (.spillEngineCycle 0) (on (spillingV false))).tile 0).spm.read 64 2 = [9, 0] := by decide +kernel

/-- A parked tile whose GP still runs: its RELEASE waits. -/
def busyParked : Tile := { gpRun none with run := .parked }
theorem witness_TileControl_waits : (on busyParked).atRest 0 = false ∧ (on parked).atRest 0 = true := by decide +kernel
theorem test_release_waits : ((run (.ctlRelease 0) (live (on busyParked))).tile 0).relReq = true ∧
    ((run (.ctlRelease 0) (live (on busyParked))).tile 0).run = .parked := by decide +kernel

/-- A WAIT whose message is there, in a cycle in which no bundle issues and its bound has one cycle left. -/
def holdsNow : State := on { waitingFor [⟨0, []⟩] with waits := [⟨4, 0x1000, [0, 0, 0, 0], some 1⟩] }
theorem witness_WaitEvents_cycle : holdsNow.waitHolds (holdsNow.tile 0) ⟨4, 0x1000, [0, 0, 0, 0], some 1⟩ = true ∧
    ((holdsNow.tile 0).queue 1).any (fun p => p.id == 4 && !p.ready) = true := by decide +kernel
theorem test_wait_cycle : (((run (.spillEngineCycle 0) holdsNow).tile 0).queue 1).map (·.val.lo) = [0x1000] := by decide +kernel

/-- A clipped job that has written all it writes, and the inbox with and without room for its notice. -/
def clipJob (written : Bool) : Job :=
  { job .running 0x0600000000000000 with
    card := { card1 with w := vput card1.w 3 (vget 0 card1.w 3 ||| 0x1000000000000000) }, staged := some [], written := written }
def full (n : Nat) (s : State) : State := s.onTile 0 fun t => { t with inbox := List.replicate n ⟨0, []⟩ }
theorem witness_CopyJobEvents_notice : (let s := full 64 (copying (clipJob false))
      (s.tile 0).resident = true ∧ (s.tile 0).inboxFull = true ∧ (clipJob false).card.clipped = (clipJob true).card.clipped ∧
      (s.cluster 0).jobs.map (·.1) = [9]) ∧
    ((full 0 (copying (clipJob true))).tile 0).inboxFull = false ∧ (clipJob true).ticket ≠ 0 := by decide +kernel

/-- An ENQ whose slot stands in a HASHH region, and a JOIN whose T has faulted. -/
def hashedRing : State :=
  (ringed 0 true [] (enqOf 0)).setImage 0 { Image.reset with v := true, npages := 1, hashh := 1 }
def denied : State := owned false (on { tile with reqs := [req .join [lane 0x20000 64 (.deny 0x10 0)]] })
theorem witness_QueuesDenied : hashedRing.hashed 65536 64 = true ∧ hashedRing.ringBase 0 = some 65536 ∧
    denied.enqReady 0 (req .join [lane 0x20000 64 (.deny 0x10 0)]) = true ∧ (denied.tile 0).log = [] ∧ denied.hbm.wf = true := by
  decide +kernel
theorem test_denied : laneOf ((run (.enqAtSlice 0 1) hashedRing).tile 0) 1 0 = some (.flt 0x12 0, 0) ∧
    laneOf ((run (.joinAtSlice 0 1) denied).tile 0) 1 0 = some (.flt 0x10 0, 0) ∧
    (run (.joinAtSlice 0 1) denied).gangs = [owner true] := by decide +kernel
/-- Another gang still holds the identifier; and a record that no image launches. -/
theorem witness_DispenserEvents_more : (({ served readySlot [] with gangs := [{ soloGang with gid := 0 }] } : State).gang? 0).isSome = true ∧
    (ringed 1 true readySlot tile).head 0 0 = some (65536, 0) := by decide +kernel
theorem test_not_launchable : let u := run (.dispenserSelect 0) (ringed 1 true readySlot tile)
    slotStatus (u.slotWord 65536 0 4) = 8 ∧ slotState (u.slotWord 65536 0 4) = 0 ∧ (u.queueDesc 0).claim = 1 := by decide +kernel

/-- A row with a correctable error, and a row at 130 with a spare. -/
def softened : State := { State.reset.setSlice 768 { Slice.reset with scores := [⟨5, 130⟩], spares := 1 } with softHbm := [0x30010 / 64] }
theorem witness_MemoryReliabilityEvents_remap : (softened.slice 768).scores = [⟨5, 130⟩] ∧ (softened.slice 768).spares ≠ 0 := by
  decide +kernel
theorem test_remap : ((run (.scoreHalving 768) softened).slice 768).remapped = 1 ∧
    ((run (.scoreHalving 768) softened).slice 768).scores = [] := by decide +kernel

theorem witness_MapWrites_hbm : spaceOf (BitVec.ofNat 64 (0x5010 / 8 * 8)) = .virt 0x5010 ∧ addressable 0x5010 8 = true := by
  decide +kernel
theorem test_map_hbm : (run (.mapWrite 0x5010 0x0203) (live (on tile))).hbm = [(0x5010, 3), (0x5011, 2)] := by decide +kernel

/-! ### Clauses over accesses on their way, held bytes and power -/

/-- A handler that has moved the latch's cursor and row pointers. -/
def movedMx : Tile := { inHandler with mxKept := some (3, 5, 7), mx := { inHandler.mx with cursor := 9, rp := 8, wp := 11 } }
theorem witness_TrapReturns_latch : (on movedMx).completes (.tret (imm 8) true) = true ∧ (on movedMx).landed.resTrap = false ∧
    (on movedMx).landed.mxKept = some (3, 5, 7) := by decide +kernel
theorem test_tret_latch : let t := (run (.tret (imm 8) true) (on movedMx)).tile 0
    (t.mx.cursor, t.mx.rp, t.mx.wp) = (3, 5, 7) := by decide +kernel

/-- Tile 1's entries let tile 0 read by one and write by another. -/
def splitGrants (t : Tile) : Tile :=
  { t with grants := vput (vput t.grants 0 0xA0000000000001FF) 1 0xC0000000000001FF }
def onSplit : State :=
  { State.reset with tiles := [(0, amoOf .add .relaxed chipAddr), (1, splitGrants tile)] }
theorem witness_AtomicsAtScratchpad_split :
    onSplit.chipCheck (.tile 0) false (.tile 1 16) 8 = none ∧ onSplit.chipCheck (.tile 0) true (.tile 1 16) 8 = none ∧
    (vlist (onSplit.tile 1).grants).all (fun g => !(grantAllows g (.tile 0) false 16 8 && grantAllows g (.tile 0) true 16 8)) = true ∧
    (vlist (granting tile).grants).any (fun g => grantAllows g (.tile 0) false 16 8 && grantAllows g (.tile 0) true 16 8) = true := by
  decide +kernel
theorem test_amo_split : laneOf ((run (.amoAtSlice 0 1) onSplit).tile 0) 1 0 = some (.flt 0x12 0, 0) := by decide +kernel

/-- An AMO.REL whose address lies in no space, behind a logged store. -/
def relNowhere (st : LaneSt) : Tile :=
  { logged with reqs := [{ req (.amo .add .rel) [lane 0x1000000000000000 8 st] with id := 2, nb := 1 }] }
theorem witness_ReleasePublishesBeforeFault : spaceOf 0x1000000000000000 = .nowhere ∧
    ((relNowhere .issue).lane? 2 0).any (fun x => (on (relNowhere .issue)).nextUp 0 x.1 x.2) = true ∧
    ((relNowhere (.deny 0x10 0)).lane? 2 0).any (fun x => (on (relNowhere (.deny 0x10 0))).mayPerform 0 x.1 x.2) = true ∧
    (relNowhere (.deny 0x10 0)).storesSettled (fun x => decide (x.id < 2)) = true ∧
    (on (relNowhere (.deny 0x10 0))).releaseReady 0 1 = true ∧ (on (relNowhere (.deny 0x10 0))).withholds 0 = false ∧
    ((relNowhere .issue).reqs.map (·.id)).Nodup := by decide +kernel
theorem test_release_fault : let u := run (.amoAtSlice 0 2) (on (relNowhere (.deny 0x10 0)))
    u.hbm = [(0x30010, 1), (0x30011, 9)] ∧ laneOf (u.tile 0) 2 0 = some (.flt 0x10 0, 0) := by decide +kernel

/-- A releasing store that has yet to publish, and stores on their way to addressable and other memory of a peer. -/
def releasing : Tile := { logged with reqs := [{ req .storeRel [{ lane 0x20010 2 .issue with data := 0x1122 }] with id := 2, nb := 1 }] }
theorem witness_StoreEvents_release : (releasing.req? 2).map (·.sent) = some none ∧ releasing.acqHeld 1 = false ∧
    (on releasing).releaseReady 0 1 = true ∧ releasing.storesSettled (fun x => decide (x.nb < 1)) = true ∧
    (on releasing).withholds 0 = false ∧
    bitsN (peerAddr : W64) 0 40 + 2 ≤ 0xF000000000 ∧ 0xF000000000 < bitsN (0xD00001F000000000 : W64) 0 40 + 2 := by decide +kernel
theorem test_release_publishes : let u := run (.postedStorePerform 0 2 0) (on releasing)
    u.hbm = [(0x30010, 1), (0x30011, 9)] ∧ ((u.tile 0).req? 2).bind (·.sent) = some [] := by decide +kernel

/-- An LDT on its way behind the logged stores; one that has taken bytes with it. -/
def onItsWay (sent : Option (List (Option Byte))) : Tile :=
  { logged with reqs := [{ req (.ldt false) [lane 0x20010 8 (.hit 0x30010)] with id := 5, sent := sent }] }
def took : List (Option Byte) := [some 1, some 9, none, none, none, none, none, none]
theorem witness_PublicationWritesLog_ldt : (on (onItsWay none)).ldtPlace 0 { req (.ldt false) [lane 0x20010 8 (.hit 0x30010)] with id := 5 }
      (lane 0x20010 8 (.hit 0x30010)) = some 0x30010 ∧
    (logged.log.all fun e => e.hist.all fun x => decide (x.id ≤ 5)) = true := by decide +kernel
theorem test_ldt_sent : (((on (onItsWay none)).publish 0).tile 0).reqs.map (·.sent) = [some took] := by decide +kernel
theorem witness_TicketAllocation_sent : (on (onItsWay (some took))).sliceHeld 0 { req (.ldt false) [lane 0x20010 8 (.hit 0x30010)] with id := 5, sent := some took } 768 = false ∧
    took.length = 8 := by decide +kernel
theorem test_ticket_sent : (((run (.ticketAllocate 0 5) { on { onItsWay (some took) with log := [] } with hbm := [(0x30010, 4), (0x30012, 6)] }).slice 768).ticket 0).data =
    0x060901 := by decide +kernel
theorem witness_SyncEvents_phaseG : (owned true (on (syncing .phaseG false))).hashed (8 * 0x6002) 8 = false := by decide +kernel

/-- The ready record names a frame, and the walk for it finds no table. -/
def framed : State :=
  let s := served [(65536 + 10, 3), (65536 + 26, 1), (65536 + 32, 1)] []
  let s := s.setImage 0 { Image.reset with v := true, npages := 1, entries := [⟨0, 64, 0, 0, 0⟩] }
  { s with dev := { s.dev with ptroot := 0xFFFFFFF000, sec := ⟨3, none, [], 0, []⟩ } }
theorem witness_DispenserEvents_frame : (framed.launchable (framed.slotRecord 65536 0)).map (·.frame) = some 64 ∧
    framed.place 0 0 0 (framed.slotRecord 65536 0) = some 0 ∧ framed.gang? 0 = none ∧
    0xF000000000 < bitsN framed.dev.ptroot 12 28 * 4096 + 4096 ∧ framed.head 0 0 = some (65536, 0) := by decide +kernel
theorem test_frame_fault : let u := run (.dispenserSelect 0) framed
    slotStatus (u.slotWord 65536 0 4) = 2 ∧ u.gangs = [] ∧ (u.queueDesc 0).claim = 1 := by decide +kernel

/-- A double that a gang-mate had published, held when the gang was saved. -/
theorem test_resume_acquires : (run (.gangResume 0) { savedPeer with held := [⟨7, 0x6002, 5, [0]⟩, ⟨8, 0x6002, 5, [0]⟩] }).held.map (·.gid) = [8] := by
  decide +kernel

/-- The last of the stretched cycles, and the halved ones. -/
theorem witness_PowerEvents_alarm : (weired .stretch 64).weirLeft 0 63 = false ∧ (weired .stretch 63).weirLeft 0 63 = true ∧
    (weired .halve 11).weirLeft 0 63 = true ∧ ((weired .halve 11).tile 0).waits = [] := by decide +kernel
theorem test_alarm : run (.weirAlarm 0) (weired .stretch 64) = weired .stretch 64 ∧
    (((weired .halve 11).passDisabled 0).tile 0).slns = 39 ∧ (((weired .halve 12).passDisabled 0).tile 0).slns = 40 := by
  decide +kernel
theorem test_reset_keeps : let s := mailed.setCluster 3 { Cluster.reset with handover := [⟨0, 0, 0x30000⟩] }
    ((run .moduleReset s).cluster 3).handover = [] ∧ ((run .moduleReset s).cluster 3).owed = [⟨0, 0, 0x30000⟩] ∧
    (vget .reset (run .moduleReset s).dev.mail 2).notices = [.jobDone 64 2 0] := by decide +kernel

/-! ### Traps by the operand, of the fetch, and a software trap that finds no handler -/

/-- The cause, the socket and the address of the trap that a trigger on this tile takes where it comes to its checks. -/
def refusedWith (t : Tile) (i : Instr) : Option (Nat × Nat × W64) :=
  let s := on t
  match actOf i with
  | some (h, a) =>
    if s.considers && !(s.moves h a).isEmpty && s.locksOf h a == 0 && (earlyCause s.opening (s.found h a) (s.moves h a)).isNone &&
        s.opening.mxErrorTrap.isNone && ((s.found h a).srcTrap s.view h.src).isNone then
      (s.causeOf h a).map fun x => (x.code.toNat, x.sock.toNat, x.addr)
    else none
  | none => none
/-- A tile whose result queue `q` holds `n` places that are not ready. -/
def crammed (q n : Nat) : Tile :=
  { tile with queues := vput tile.queues q (List.replicate n ⟨1, false, .zero, false, .zero, 0, false, false, .i64, .zero⟩) }
def mxCrammed : Tile := { tile with mx := { tile.mx with queue := List.replicate 8 ⟨0, 1, .mzro 1⟩ } }
theorem test_operand_traps : ([
    (loads.filter fun x => decide (1 < x.2.2.1)).map fun x => (tile, x.1 (imm 5) true, 6, 4, 0),
    loads.map fun x => (crammed 0 32, x.1 (imm 128) true, 8, 4, 0),
    amos.map fun x => (tile, x.1 (imm 4) true, 6, 4, 0), amos.map fun x => (crammed 0 32, x.1 (imm 8) true, 8, 4, 0),
    ((stores.drop 1).map fun x => (tile, x.1 (imm 1) true, 6, 4, 0)),
    [(entryOn tile .au 1 true 2, .amoMin (imm 8) true, 6, 4, 0), (entryOn tile .au 0 true 64, .vld (imm 128) true, 6, 4, 0),
      (entryOn tile .au 0 true 19, .vld (imm 128) true, 6, 4, 0), (tile, .vst (imm 64) true, 6, 4, 0),
      (tile, .gld (imm 128) true, 5, 4, 0), (tile, .sct (imm 128) true, 5, 4, 0),
      ({ indexed with opnd := vput indexed.opnd (opndIdx .au 0 true) (.ofScalar 0x4C) }, .gld (imm 128) true, 6, 4, 0),
      (indexed, .gld (imm 2) true, 6, 4, 0),
      ({ tagged .i32 with opnd := vput tile.opnd (opndIdx .va 0 true) ⟨0, .i16, 0⟩ }, .vadd hv true, 5, 8, 0),
      ({ tagged .fp32 with opnd := vput tile.opnd (opndIdx .vf0 0 true) ⟨0, .fp64, 0⟩ }, .fadd hv false true, 5, 9, 0)],
    ([Instr.mlda (imm 0x80) true, .mldb (imm 0x80) true, .mma (imm 0) true, .mzro (imm 1) true, .mrd (imm 0) true,
      .mqrd (lit 0x2000) true].map fun i => ({ tile with tstat := 0x8000000000000000 }, i, 6, 14, 0)),
    [(tile, .mma (imm 16) true, 6, 14, 0), (mxCrammed, .mma (imm 0) true, 9, 14, 0), (tile, .mlda (imm 0x90) true, 6, 14, 0),
      (entryOn tile .mx 0 true 0x7FFE, .mlda (imm 0x80) true, 0x12, 14, 0x3FFF0),
      (tile, .mldb (lit 0x7FFF0080) true, 0x12, 14, 0x3FFF8), (tile, .mldb (lit 0x10082) true, 6, 14, 0),
      (tile, .mldb (imm 0x82) true, 5, 14, 0)],
    ([Instr.ori2 (imm 8) true, .ori3 (imm 8) true, .incir (imm 8) true, .insph (imm 8) true, .segx (imm 8) true].map fun i =>
      (tile, i, 6, 12, 0)),
    ([Instr.ori2 (lit 0x3FFC0) true, .ori3 (lit 0x3FFC0) true, .incir (lit 0x3FFC0) true, .insph (lit 0x3FFC0) true,
      .segx (lit 0x3FFC0) true].map fun i => (tile, i, 0x12, 12, 0x3FFC0)),
    [(crammed 4 4, .ori2 (imm 0) true, 8, 12, 0), (tagged .i32, .sfn hv true, 5, 13, 0),
      (entryOn (tagged .fp32) .sf 0 true 256, .sfn hv true, 6, 13, 0)].map fun x =>
        (if x.1.queues = tile.queues ∧ x.2.2.1 = 6 then { x.1 with v := (tagged .fp32).v } else x.1, x.2),
    [(tile, .cpy (imm 8) true, 6, 7, 0), (tile, .cpym (imm 8) true, 6, 7, 0), (tile, .cpy (lit 0x40000) true, 0x12, 7, 0x40000),
      (tile, .cpnest (imm 128) true, 6, 7, 0), (entryOn tile .cp 0 true 8, .cpnest (imm 0) true, 6, 7, 0),
      (tile, .cpnest (lit 0x40000) true, 0x12, 7, 0x40000), (tile, .send (lit 0x4000) true, 6, 6, 0),
      (entryOn tile .ch 0 true 0x40000, .send ⟨.s0, 0, .lit 0 0x02000000 .sh31⟩ true, 0x12, 6, 0x40000)]
    ].flatten.all fun (x : Tile × Instr × Nat × Nat × W64) => decide (refusedWith x.1 x.2.1 = some x.2.2)) = true := by decide +kernel

/-- A handler at offset 64 of the page; the tile's pc and how it came there, the other words of the page zero but for a header with a bit at 128. -/
def fetching (pc : Int) (via : Via) : State :=
  imaged { tile with tvec := 65, pc := pc, via := via, frames := vput tile.frames 0 ⟨some (0, 0), [(67, 0x80), (128, 1), (131, 0xC0)], 0⟩ }
theorem test_fetch_traps : [(fetching 4096 .seq, 0x03, 0, 4096), (fetching (-4) (.xfer 8), 0x03, 0, 8), (fetching 4100 (.xfer 8), 0x03, 0, 4100),
    (fetching 16 (.xfer 8), 0x02, 0, 8), (fetching 16 .seq, 0x01, 0x10, 16), (fetching 66 (.xfer 8), 0x02, 0, 8)].all
      (fun (x : State × Nat × Nat × Nat) => let t := (run (.bundleIssue 0) x.1).tile 0
        (x.1.opening.boundary x.1.view |>.isNone) &&
        decide ((bitsN t.tcause 0 8, bitsN t.tstat 32 8, t.taddr.toNat, t.inh, t.pc) = (x.2.1, x.2.2.1, x.2.2.2, true, 64))) = true ∧
    (match decodeBundle ((fetching 128 .seq).opening.packetFrom 128) with
      | .error (c, off) => let t := (run (.bundleIssue 0) (fetching 128 .seq)).tile 0
        decide ((bitsN t.tcause 0 8, bitsN t.tstat 32 8, t.taddr) = (1, (16 * c + off) % 256, 128))
      | .ok _ => false) = true := by decide +kernel
theorem test_trap_unhandled : [({ handled with tstat := 0x8000000000000000 }, 0x31, 0x0C), (tile, 0x32, 0x0C),
    ({ tile with tvec := 65, frames := vput tile.frames 0 ⟨some (0, 0), [], 0⟩ }, 0x32, 0x8C)].all
      (fun (x : Tile × W64 × Nat) => let s := imaged x.1
        let u := run (.trap (imm 8) true) s
        s.completes (.trap (imm 8) true) && (u.tile 0).run == .parked &&
          (u.tile 0).report.any fun r => r.w1 == x.2.1 && bitsN r.w0 32 8 == x.2.2 && r.w2 == 64) = true := by decide +kernel

/-! ### What MX, GP and SF leave, and the flags that land -/

/-- A file of MX whose element bytes are 3, of scale 127 with no fraction. -/
def mxFile : MxFile :=
  ⟨Vector.replicate 8 ⟨BitVec.ofNat 2048 (packN 8 (List.replicate 256 3)), .bfm8, BitVec.ofNat 192 (packN 24 (List.replicate 8 0x7F0000))⟩, 8⟩
/-- Every element of row i of acc 1 is i; MX with an operation due, and with an MMA that is done. -/
def mxDue (ops : List MxOp) (runs : List MxRun) : State :=
  stocked (on { due 0 false (.mzro 1) with mx := { tile.mx with
    acc := Vector.ofFn fun r : Fin 128 => Vector.replicate 32
      (if r.val / 32 = 1 then BitVec.ofNat 64 (Fmt.f64.ofInt .rne (r.val % 32)).bits else 0)
    queue := ops.map fun op => ⟨5, 1, op⟩, runs := runs } })
def mmaDone : List MxRun := [⟨1, mxFile, mxFile, false, false, 1, 4, 7⟩]
theorem witness_MatrixResults : (mxDue [] mmaDone).unlocked 0 = true ∧ ((mxDue [] mmaDone).tile 0).inh = false ∧
    ((mxDue [] mmaDone).tile 0).mx.runs.filter (·.done ≤ 8) = mmaDone ∧
    ([MxOp.mzro 2, .mrd true 0 7 1 0, .mrd false 1 7 1 0, .mqrd false 8 0 1 0].all fun op => let s := mxDue [op] []
      s.unlocked 0 && !(s.tile 0).endsNow (s.env 0) &&
        ((s.tile 0).landings.1.mx.dueStart 8).any fun q => q.op == op) = true := by decide +kernel
/-- 5 + 2 * 32 * 9 * 2^-14 is 5.03515625; 7 as FP32; a row of zeros quantised. -/
theorem test_matrix : accElem ((run (.mmaComplete 0) (mxDue [] mmaDone)).tile 0).mx 1 5 7 = 0x4014240000000000 ∧
    accElem ((run (.mmaComplete 0) (mxDue [] mmaDone)).tile 0).mx 2 5 7 = 0 ∧
    accElem ((run (.mxOpStart 0) (mxDue [.mzro 2] [])).tile 0).mx 1 5 7 = 0 ∧
    (((run (.mxOpStart 0) (mxDue [.mrd false 1 7 1 0] [])).tile 0).fixedAt 8).pipe.map (fun x => (x.due, elem x.val.data 32 31, x.val.tag)) =
      [(12, 0x40E00000, .fp32)] ∧
    (((run (.mxOpStart 0) (mxDue [.mqrd false 8 0 1 0] [])).tile 0).fixedAt 8).pipe.map (fun x => (x.due, elem x.val.data 8 31, x.val.tag)) =
      [(16, 0, .bfm8)] := by decide +kernel

/-- Results with flags in IA0, one of them not due, and in VF0. -/
def flying (flm : W64) (unread : Bool) : State :=
  stocked (on { tile with
    flm := flm, nb := 8, fpc := 0x10
    fixed := vput (vput tile.fixed 1 ⟨⟨.ofScalar 1, unread, 0, true, 0, false, .zero⟩,
      [.fresh 3 0 (.ofScalar 2) 1 0, .fresh 8 1 (.ofScalar 3) 2 0, .fresh 9 2 (.ofScalar 4) 4 0], none, []⟩) 5
      ⟨⟨.ofScalar 1, false, 0, true, 0, false, .zero⟩, [.fresh 8 3 (.ofScalar 3) 8 0], none, []⟩ })
theorem test_landing_flags : [(0, false), (2, false), (2, true)].map (fun x : W64 × Bool =>
      ((flying x.1 x.2).unlocked 0, ((run (.resultLand 0) (flying x.1 x.2)).tile 0).fpc)) =
    [(true, 0xB10), (true, 0x910), (true, 0x810)] := by decide +kernel

/-- ORI2 of binary32 points: lane 0 turns left, lane 1 right, lane 2 lies on a line, lane 3 has an infinity; SOS by the ids. -/
def oriented (sos : Bool) : Tile :=
  let row := fun (l : List W64) => (l.flatMap (bytesOf 4)) ++ List.replicate (64 - 4 * l.length) 0
  { tile with
    spm := Mem.write [] 64 (row [0, 0, 0, 0] ++ row [0, 0, 0, 0x7F800000] ++ row [0x3F800000, 0, 0x3F800000, 0] ++
      row [0, 0x3F800000, 0x3F800000, 0] ++ row [0, 0x3F800000, 0x40000000, 0] ++ row [0x3F800000, 0, 0x40000000, 0])
    gp := ⟨[⟨3, 0, 64, 0xF, true, sos, 1, 0, 0⟩], none, none⟩, cyc := 4 }
theorem witness_Predicates : ([false, true].all fun x => let t := oriented x
    t.pre.isNone && t.spill.isEmpty && t.waits.isEmpty && decide (t.weir = 0) && t.gp.run.isNone && !t.storeOpen 0 64 768 0 &&
      !t.spmBad 64 768) = true := by decide +kernel
theorem test_predicate : (((run (.spillEngineCycle 0) (on (oriented false))).tile 0).gp.run.map fun r =>
      ((List.range 4).map fun i => elem r.res.data 64 i, r.res2)) = some ([1, 2 ^ 64 - 1, 0, 0], 0x80004) ∧
    (((run (.spillEngineCycle 0) (on (oriented true))).tile 0).gp.run.map fun r => (elem r.res.data 64 2 != 0, r.res2)) =
      some (true, 0x80004) := by decide +kernel

/-- SFN of FP64 elements: by the shipped bank, and by a loaded image of slot 5 whose one step is DOMAIN from 0 to 2. -/
def sfnOf (slot : Nat) (bank : SfBank) (xs : List Nat) : Tile :=
  { tile with
    sf := { tile.sf with bank := bank, queue := [⟨0, 0, 0, ⟨BitVec.ofNat 2048 (packN 64 xs), .fp64, 0⟩, BitVec.ofNat 64 slot, 0xFFFF, 0, false⟩] }
    queues := vput tile.queues 6 [⟨0, false, .zero, false, .zero, 0, false, false, .i64, .zero⟩] }
def domainBank : SfBank := ⟨[(5, [0xBC10000000000000, 0x0009000900090009, 0x7000000000000000] ++ List.replicate 31 0)],
  [(0, 0), (1, 0x4000000000000000)]⟩
def sfnGives (t : Tile) : List (Nat × Nat × Flags) :=
  (((after (on t) (execSfOpComplete 0 (on t))).tile 0).queue 6).map fun p => (elem p.val.data 64 0, elem p.val.data 64 1, p.fl)
theorem witness_SfnValues : ([sfnOf 4 ⟨[], []⟩ [], sfnOf 5 domainBank []].all fun t => !t.storeOpen 0 0 0 0 && !t.spmBad 0 0) = true ∧
    (look 5 domainBank.slots).map (·.length) = some 34 := by decide +kernel
/-- 1 / 4 and 1 / 0; sqrt 9 and sqrt -1; a domain left by 5. -/
theorem test_sfn : sfnGives (sfnOf 4 ⟨[], []⟩ [0x4010000000000000, 0]) = [(0x3FD0000000000000, 0x7FF0000000000000, flDZ)] ∧
    sfnGives (sfnOf 6 ⟨[], []⟩ [0x4022000000000000, 0xBFF0000000000000]) = [(0x4008000000000000, 0x7FF8000000000000, flNV)] ∧
    sfnGives (sfnOf 5 domainBank [0x4014000000000000, 0x3FF0000000000000]) = [(0x7FF8000000000000, 0, flNV)] := by decide +kernel

/-! ### Translation, tickets, atomics, copies and collectives with several outcomes -/

/-- The cluster's L2 alone holds the leaf; a store waits for a walk that ends in a leaf with W 0. -/
def inL2 : State := (on (ldOf .issue)).setCluster 0 { Cluster.reset with l2 := [(0, leaf)] }
def readOnly : State :=
  let s := { walking table1 0xC000000000030000 [] with tiles := [(0, stOf .store 0x20010 .miss)] }
  s.setCluster 0 { Cluster.reset with pend := [(5, ⟨2, false, false, 0, true, 0, [⟨0, 1, 0, 1⟩], []⟩)] }
theorem witness_Translation_more : tlbFind (inL2.tile 0).tlb 2 0 = none ∧ tlbFind ((inL2.cluster 0).l2.map (·.2)) 2 0 = some leaf ∧
    (match (readOnly.walk 2).1 with
      | .leaf e => decide (e = { leaf with w := false })
      | _ => false) = true ∧ lowestFree 8 (readOnly.cluster 0).fb = some 0 ∧
    ([(0xE000000000000010 : W64), 0xE000000001000010, 0xD000010000000040, 0x1000000000000000].all fun a =>
      (on (asking .loc a 8 .issue)).nextUp 0 (req .loc [lane a 8 .issue]) (lane a 8 .issue)) = true := by decide +kernel
/-- The words of R20's example, and of the tile itself, its neighbour, a peer and no place. -/
theorem test_translation : laneOf ((run (.tlbMissWalk 0 1 0) inL2).tile 0) 1 0 = some (.hit 0x30010, 0) ∧
    ((run (.tlbMissWalk 0 1 0) inL2).tile 0).tlb = [leaf] ∧
    (let c := (run (.pageWalkComplete 0 5) readOnly).cluster 0; (c.fb.map fun x => (x.1, x.2.kind, x.2.acc), c.pend.map fun x => (x.2.kind, x.2.walking), c.l2.length) =
      ([(0, 2, 1)], [(2, false)], 1)) ∧
    placeWord 12870 1 52 3 (some 832) = BitVec.ofNat 64 (2 ^ 62 + 2 ^ 25 + 3 * 2 ^ 22 + 7 * 2 ^ 16 + 52 * 2 ^ 10 + 832) ∧
    placeWord 12870 1 0 3 (some 5) = BitVec.ofNat 64 (2 ^ 62 + 2 ^ 25 + 6 * 2 ^ 22 + 4 * 2 ^ 19 + 5) ∧
    [(0xE000000000000010 : W64), 0xE000000001000010, 0xD000010000000040, 0x1000000000000000].map (fun a =>
      (laneOf ((run (.tlbMissWalk 0 1 0) (on (asking .loc a 8 .issue))).tile 0) 1 0).map fun x => x.2.toNat) =
      [some 0, some 0x400000, some 0x8000000001C00000, some 0xC000000001C00000] ∧
    (((run (.replayAll 0) (command 3 faultedPend (ldOf .miss))).cluster 0).pend.map fun x => (x.2.walking, x.2.faulted, x.2.waiters.length)) =
      [(true, false, 1)] := by decide +kernel

/-- Two ticket operations of a tile at one slice, and a redeem behind an acquiring atomic that is open. -/
def inOrder (k : ReqKind) : Tile :=
  { tile with reqs := [{ req .tkq [] with ops := { Opnds.zero with t := .ofScalar (tick 4) } },
      { req k [] with id := 2, ops := { Opnds.zero with t := .ofScalar (tick 3) } }] }
def behindAcq (k : ReqKind) : Tile :=
  { tile with reqs := [req (.amo .add .acq) [lane 0x20010 8 .issue],
      { req k [] with id := 2, nb := 1, ops := { Opnds.zero with t := .ofScalar (tick 4) } }] }
def claimingTo (k : ReqKind) : Tile := { asking k 0 8 (.hit (2048 * 768 + 3)) with cache := [⟨1, 2⟩], fills := [fill false] }
def proxied (st : TkState) : Ticket := { entry st false with kind := 4, addr := peerAddr }
theorem witness_TicketsInOrder : ([ReqKind.rdm, .rdmS 64, .tkx].all fun k =>
      ((inOrder k).req? 2).any (fun r => r.lanes.isEmpty && decide (r.asks 0 = 768)) && ((inOrder k).req? 1).any (fun r => decide (r.asks 0 = 768)) &&
      ((behindAcq k).req? 2).isSome) = true ∧ spaceOf peerAddr = .peer 1 0x40 ∧
    ({ sliced (entry .claimed true) tile with gangs := [] } : State).gang? 7 = none ∧
    ((sliced { entry .claimed true with kind := 2 } (claimingTo (.rdmS 64))).tile 128).spm.wf = true := by decide +kernel
theorem test_tickets_more :
    ([inOrder, behindAcq].all fun f => let s := fun (k : ReqKind) => sliced (entry .ready true) (f k); decide (run (.redeemAtSlice 0 2) (s .rdm) = s .rdm ∧ run (.redeemAtSlice 0 2) (s (.rdmS 64)) = s (.rdmS 64) ∧
        run (.ticketClassifyAtSlice 0 2) (s .tkx) = s .tkx)) = true ∧
    ((run (.ticketFetchComplete 768 3) (sliced (entry .claimed false) tile)).slice 768 |>.ticket 3).state = .claimed ∧
    (let t := (run (.redeemDeliver 768 3) (sliced { entry .claimed true with kind := 2, line := true } (claimingTo .rdm))).tile 128; (laneOf t 1 0, t.cache, t.fills.map (·.discard)) = (some (.fin, 99), [], [true])) ∧
    (let t := (run (.redeemDeliver 768 3) (sliced (entry .claimed true) (claimingTo (.rdmS 64)))).tile 128; (laneOf t 1 0, t.spm, t.cache.length) = (some (.fin, 8), [(64, 99)], 1)) ∧
    laneOf ((run (.redeemAtSlice 0 1) (sliced (entry .ready true) (redeeming (.rdmS 262144) (tick 4)))).tile 0) 1 0 = some (.flt 0x12 0, 0) ∧
    (let s := { sliced (entry .claimed true) tile with gangs := [], saves := [⟨gang, false, 0, 0, []⟩] }; run (.redeemDeliver 768 3) s = s) ∧
    (((run (.ticketFetchComplete 768 3) (sliced (proxied .pending) tile)).slice 768).ticket 3).fcode = 0x13 ∧
    (((run (.ticketFetchComplete 768 3) (sliced (proxied .claimed) tile)).slice 768).ticket 3).state = .claimed := by decide +kernel

/-- An atomic on the double at 0x30010, which the tile has logged; an LDT of it that an atomic to its slice holds, before a store. -/
def amoLogged (o : AmoOrd) : State :=
  owned true (on { logged with reqs := [{ req (.amo .add o) [lane 0x20010 8 (.hit 0x30010)] with id := 5, nb := 1, ops := { Opnds.zero with o0 := .ofScalar 5 } }] })
def heldLdt : State :=
  on { tile with
    log := [⟨0, 0x6002, [⟨0, 1, 1⟩, ⟨6, 2, 0x900⟩]⟩]
    reqs := [{ req (.amo .add .relaxed) [lane 0x20018 8 .issue] with id := 1 }, { req (.ldt false) [lane 0x20010 8 (.hit 0x30010)] with id := 5 }]
    tlb := [leaf] }
theorem witness_AtomicPublishes : ([AmoOrd.relaxed, .acq, .rel].all fun o => let s := amoLogged o
    ((s.tile 0).lane? 5 0).any (fun x => s.mayPerform 0 x.1 x.2 && (s.tile 0).storesSettled fun y => decide (y.id < 5)) &&
      !s.withholds 0 && !s.keepsBack 0 (fun _ => true) (fun _ => true) && !s.hashed 0x30010 8 && s.releaseReady 0 1 &&
      (s.gangOf 0).isSome && s.hbm.wf) = true ∧
    heldLdt.keptBy 0 (fun _ => true) 0x6002 6 = true ∧
    ([SyncKind.phaseT, .phaseG].all fun k => (syncing k false).sync.all fun x => (owned true (on (syncing k false))).phaseFree 0 x) = true ∧
    (on logged).keepsBack 0 (fun _ => true) (fun _ => true) = false ∧ (on (onItsWay none)).keepsBack 0 (fun _ => true) (fun _ => true) = false ∧
    (on releasing).keepsBack 0 (fun _ => true) (fun _ => true) = false ∧
    (on (relNowhere (.deny 0x10 0))).keepsBack 0 (fun _ => true) (fun _ => true) = false := by decide +kernel
theorem test_atomic_publishes : ([AmoOrd.relaxed, .rel].all fun o => let u := run (.amoAtSlice 0 5) (amoLogged o)
      u.hbm == [(0x30010, 6), (0x30011, 9)] && (u.tile 0).log.isEmpty && laneOf (u.tile 0) 5 0 == some (.fin, 0x901)) = true ∧
    (run (.amoAtSlice 0 5) (amoLogged .relaxed)).held.map (fun h => (h.dbl, h.old, h.seers.all (· == 0))) = [(0x6002, 0, true)] ∧
    (let u := heldLdt.publish 0; (u.hbm, (u.tile 0).log.map (fun e => e.hist.map (·.id))) = ([(0x30010, 1)], [[6]])) := by decide +kernel

/-- The members of a gang whose PHASE.G ends have empty read caches. -/
theorem test_barrier_cache : [0, 129].map (fun m => ((run (.barrierComplete 7) (ganged gang (syncing .phaseG true))).tile m).cache.length) = [0, 0] ∧
    [0, 129].map (fun m => ((run (.barrierComplete 7) (ganged gang (syncing .bar true))).tile m).cache.length) = [1, 1] := by decide +kernel

/-- Two elements of 8 bytes, apart by 8 and by `d`; a reduction of I32 sums, and one that has staged. -/
def nest2 (d : Nat) : BitVec 2048 := nest1 + 1 + (8 <<< 64) + (BitVec.ofNat 2048 d <<< 128)
def twoJob (rop : Bool) (staged : Option (List (Int × List Byte))) : Job :=
  { job .running (if rop then 0x0608600000000000 else 0x0600000000000000) with
    card := { card1 with w := vput card1.w 2 (if rop then 0x0608600000000000 else 0x0600000000000000), nest := nest2 (if rop then 0 else 16) }
    staged := staged }
def copyingTwo (j : Job) : State := { copying j with hbm := [(65536, 7), (65544, 9), (65600, 5)] }
theorem witness_NestedCopies : ([twoJob false none, twoJob true none].all fun j => let s := copyingTwo j
    let d := j.dest ((s.tile j.tid).cbuf j.card.buf)
    (iterations j.card 6).all fun x => j.source.inPrint x.1 8 && j.source.aligned x.1 8 && d.inPrint x.2 8 && d.aligned x.2 8 &&
      [(d, true, x.2), (d, false, x.2), (j.source, false, x.1)].all fun y => match s.copyPlace (.copy 0 0) y.1 y.2.1 y.2.2 8 with
        | .ok (.hbm _) => true
        | _ => false) = true ∧
    iterations (twoJob false none).card 6 = [(0, 0), (8, 16)] ∧ iterations (twoJob true none).card 6 = [(0, 0), (8, 0)] ∧
    (twoJob true none).card.rop = 1 ∧ (twoJob true none).card.rfmt = .i32 ∧ (copyingTwo (twoJob false none)).noticeWaits (twoJob false none) = false := by
  decide +kernel
theorem test_nested_copies : (run (.copyJobEnd 0 9) (copyingTwo (twoJob false none))).hbm =
      [(65536, 7), (65544, 9), (65600, 7), (65616, 9)] ∧
    (((run (.copyJobEnd 0 9) (copyingTwo (twoJob false none))).slice 5).ticket 3).data = 16 ∧
    (((run (.copyJobEnd 0 9) (copyingTwo (twoJob true none))).cluster 0).jobs.map fun x => x.2.staged) = [some [(0, [21, 0, 0, 0, 0, 0, 0, 0])]] ∧
    (run (.copyJobEnd 0 9) (copyingTwo (twoJob true (some [(0, [21, 0, 0, 0, 0, 0, 0, 0])])))).hbm = [(65536, 7), (65544, 9), (65600, 21)] := by
  decide +kernel

/-- Collectives of kind `ck` in a gang of four: each member has two I32 slices, 10 r + 1 and 10 r + 2, and root 2. -/
def reducing (ck : Nat) : State :=
  let now := fun r => bytesOf 4 (BitVec.ofNat 32 (10 * r + 1)) ++ if ck < 2 then bytesOf 4 (BitVec.ofNat 32 (10 * r + 2)) else []
  { State.reset with
    gangs := [gang]
    tiles := [0, 1, 128, 129].zipIdx.map fun (k, r) => (k, { tile with
      gid := 7, grank := BitVec.ofNat 64 r, spm := Mem.write [] 256 (now r)
      colls := [⟨0, #v[BitVec.ofNat 64 (ck * 2 ^ 60 + (if ck < 2 then 2 ^ 57 else 0) + 3 * 2 ^ 51 + 1),
        BitVec.ofNat 64 ((if ck < 2 then 7 * 2 ^ 52 else 0) + 2), 256, 512, 0, 0, 0, 0], 0, some (mkTicket 3 768 r 4 0 0), 0, [], now r⟩] }) }
theorem witness_CollectiveResults : ([0, 1, 2, 3].all fun ck => let s := reducing ck
    decide (s.gang? 7 = some gang ∧ s.members gang = [0, 1, 128, 129]) && [0, 1, 128, 129].all fun m =>
      (s.tile m).spm.wf && !(s.tile m).spmBad 256 8 && (s.tile m).colls.all fun x => (s.tile m).collReady x &&
        decide (x.early = (s.tile m).spm.read 256 (if ck < 2 then 8 else 4))) = true := by decide +kernel
/-- The sum of the eight slices is 132; a broadcast leaves 21; an all-gather 1, 11, 21, 31. -/
theorem test_collectives : [0, 1, 2, 3].map (fun ck => [0, 1, 128, 129].map fun m =>
      let t := (run (.collectiveComplete 7) (reducing ck)).tile m
      (t.colls.length, (List.range 4).map fun i => t.spm.value (512 + 4 * i) 4)) =
    [[(0, [0, 0, 0, 0]), (0, [0, 0, 0, 0]), (0, [132, 0, 0, 0]), (0, [0, 0, 0, 0])], List.replicate 4 (0, [132, 0, 0, 0]),
      List.replicate 4 (0, [1, 11, 21, 31]), List.replicate 4 (0, [21, 0, 0, 0])] := by decide +kernel

/-- A port of IA0 in which FAULT was written, read, and resolved by TRET; a gang that fails with a fault at END marked. -/
def faultedPort : Port := ⟨.ofScalar 3, true, 0, true, 0, true, ⟨0x05, 0x40, 0, 0⟩⟩
def resolvingPort (rsol : W64) : Tile :=
  { inHandler with
    resTrap := true, tstat := inHandler.tstat ||| (rsol <<< 61), tcause := 0x405, taddr := 0x77
    fixed := vput tile.fixed 1 { tile.fixedAt 1 with shPort := some faultedPort } }
theorem witness_FaultedPorts : fixedIdx .ia0 = some 1 ∧ queueIdx .ia0 false = none ∧
    ([0, 1, 2, 3].all fun r => let s := on (resolvingPort r)
      s.completes (.tret (imm 8) true) && s.landed.resTrap && decide (s.landed.rsol = r.toNat) &&
        decide (Sock.ofNum (s.landed.tcause.extractLsb' 10 5) = some .ia0) && decide ((s.landed.fixedAt 1).shPort = some faultedPort)) = true := by
  decide +kernel
theorem test_faulted_ports : (({ tile with fixed := vput tile.fixed 1 { tile.fixedAt 1 with port := faultedPort } } : Tile).faultTrap (.res .ia0 false)).map
      (fun x => (x.code, x.sock, x.addr, x.onResult)) = some (0x05, 1, 0x40, true) ∧
    [0, 1, 2, 3].map (fun r => let p := (((run (.tret (imm 8) true) (on (resolvingPort r))).tile 0).fixedAt 1).port; (p.flt, p.val.lo)) =
      [(true, 3), (false, 0), (false, 0x77), (false, 0)] := by decide +kernel
def failedMarked : State := { failed false .stopping with gangs := [{ gang with why := some (.failed true), status := 2 }] }
theorem witness_FailureEvents_mark : let g : Gang := { gang with why := some (.failed true), status := 2 }
    failedMarked.gang? 7 = some g ∧ g.mustRetire = false ∧ g.runsOn = false ∧ recJoin g.record = 0 ∧ failedMarked.slotBase 0 0 = none ∧
    (failedMarked.members g).all (fun m => (failedMarked.tile m).run != .running && failedMarked.quiet m) = true ∧
    failedMarked.reportWaits (failedMarked.members g) = false ∧ failedMarked.granted g (failedMarked.members g) = [] := by decide +kernel
theorem test_fail_mark : (run (.gangFail 7) failedMarked).gangs = [] ∧ ((run (.gangFail 7) failedMarked).cluster 0).unretired = [(0, 0, 2)] := by
  decide +kernel

/-! ### The step -/

theorem witness_StepRunsDecoded : let s := stocked (on tile)
    s.agenda = [] ∧ (s.tile 0).run = .running ∧ ((s.tile 0).boundary (s.env 0)).isNone = true ∧
    0 ≤ (s.tile 0).pc ∧ (s.tile 0).pc.toNat < (s.env 0).codeLen ∧
    ((s.tile 0).codeWord (s.tile 0).pc.toNat).any (·.getLsbD 31) = true ∧
    (decodeBundle ((s.tile 0).packetFrom 0)).toOption = some ⟨2, false, 0, [.add (imm 64) false true]⟩ := by decide +kernel
theorem test_step : (match step (stocked (on tile)) with
    | .next u => ((u.tile 0).pc, ((u.tile 0).fixedAt 1).pipe.length)
    | _ => (0, 0)) = (64, 1) := by decide +kernel
/-- A bundle of no move, and an agenda whose head is an event. -/
theorem witness_StepRunsBundle : let t := { (stocked (on tile)).tile 0 with
      frames := vput tile.frames 0 ⟨some (0, 0), Mem.write [] 0 (bytesOf 4 (0x80000000 : W32)), 0⟩ }
    (decodeBundle (t.packetFrom 0)).toOption.map (fun b => (b.moves.length, b.rot)) = some (0, false) ∧
    (Instr.ctlPark 0).head? = none := by decide +kernel
/-- The premises of the invariants are met at reset, and on a running tile. -/
theorem witness_StepKeepsMemory : (stocked (on tile)).hbm.wf = true ∧ goes (.bundleIssue 0) (stocked (on tile)) = true := by decide +kernel
theorem witness_MovesKeepTile : (on tile).completes (.move (imm 8) (.spec .flm)) = true ∧ tile.ok = true ∧ Tile.reset.ok = true := by
  decide +kernel
theorem witness_tilesOk : (on tile).tilesOk := by
  have hr : Tile.reset.ok = true ∧ tile.ok = true := by decide +kernel
  refine ⟨fun k => ?_, fun v hv => (List.not_mem_nil hv).elim, fun i e he => (List.not_mem_nil he).elim⟩
  simp only [on, State.tile, look]
  split
  · exact hr.2
  · exact hr.1
theorem witness_SliceMapInjective : sliceOf 0x30010 = sliceOf 0x30010 ∧ (0x30010 : Nat) < 2 ^ 40 := by decide

end Sys2Proof.Tests
end

section
/-! The state after reset: what each part not yet touched holds, and what a tile holds in its registers. -/
namespace Sys2Proof.Machine

/-! ### Parts of the module, none of them listed yet -/

@[simp] theorem vget_replicate_default {α : Type} (n : Nat) (d : α) (i : Nat) : vget d (Vector.replicate n d) i = d := by
  by_cases h : i < n <;> simp [vget, h]

@[simp] theorem tile_reset (k : Nat) : State.reset.tile k = .reset := rfl
@[simp] theorem slice_reset (k : Nat) : State.reset.slice k = .reset := rfl
@[simp] theorem cluster_reset (c : Nat) : State.reset.cluster c = .reset := rfl
@[simp] theorem image_reset (i : Nat) : State.reset.image i = .reset := rfl
@[simp] theorem queueDesc_reset (q : Nat) : State.reset.queueDesc q = .reset := rfl
@[simp] theorem ticket_reset (k : Nat) : Slice.reset.ticket k = .reset := rfl

/-- No handle names an image: every image-table entry is invalid. -/
@[simp] theorem named_reset (h : Nat) : State.reset.named h = none := by
  simp [State.named, Image.reset]

/-! ### The parts of a tile -/

/-- R36, R111: p0 and the odd predicates but p1 are true. -/
theorem p_reset : ∀ n, n < 16 → Tile.reset.p.getLsbD n = decide (n = 0 ∨ (n ≠ 1 ∧ n % 2 = 1)) := by decide

/-- R111: the even lane predicates are zero, the odd ones all ones. -/
theorem q_reset : ∀ n, n < 8 → vget 0 Tile.reset.q n = if n % 2 = 1 then BitVec.allOnes 64 else 0 := by decide

/-- R153: no loop level is active. -/
@[simp] theorem lcActive_reset (n : Nat) : lcActive Tile.reset.lc n = false := by
  simp [lcActive, Tile.reset]

@[simp] theorem queue_reset (k : Nat) : Tile.reset.queue k = [] := vget_replicate_default 7 [] k
@[simp] theorem fixedAt_reset (k : Nat) : Tile.reset.fixedAt k = .empty := vget_replicate_default 9 Fixed.empty k
@[simp] theorem link_reset (d : Nat) : Tile.reset.link d = .reset := vget_replicate_default 4 Link.reset d

@[simp] theorem rrb_reset : Tile.reset.rrb = 0 := rfl
@[simp] theorem ld_reset : Tile.reset.ld = 32 := rfl
@[simp] theorem inh_reset : Tile.reset.inh = false := rfl

end Sys2Proof.Machine

open Sys2Proof.Machine

/-- Settles O56: nothing is listed in the module after reset, so every part reads as its own reset value. -/
theorem resetState : Obligations.ResetState := by
  unfold Obligations.ResetState
  refine ⟨fun k => ?_, Mem.get_nil, rfl, rfl, fun c => ?_, named_reset, fun q => ?_, fun k j => ?_⟩
  · rw [tile_reset]
    exact ⟨rfl, p_reset, q_reset, rrb_reset, ld_reset, rfl, rfl, rfl, rfl, rfl, inh_reset,
      fun n _ => lcActive_reset n, fun n _ => queue_reset n,
      fun n _ => by rw [fixedAt_reset]; exact ⟨rfl, rfl⟩,
      fun d _ => by rw [link_reset]; exact ⟨rfl, rfl⟩, rfl, rfl, rfl, Mem.get_nil⟩
  · rw [cluster_reset]; rfl
  · rw [queueDesc_reset]; rfl
  · rw [slice_reset, ticket_reset]; rfl
end

section
/-! Two accesses of one number in one request: an on-chip access is looked up for each of them at its own address. -/
namespace Sys2Proof.Machine

/-- TLB_MISS_WALK of the access that is next looks that access up. -/
theorem exec_tlbMissWalk_nextUp {s : State} {k id lane : Nat} {r : Req} {l : Lane}
    (hl : (s.tile k).lane? id lane = some (r, l)) (hn : s.nextUp k r l = true) :
    exec (.tlbMissWalk k id lane) s = .next (s.lookUp k r l) := by
  have hx : exec (.tlbMissWalk k id lane) s = execTlbMissWalk k id lane s := rfl
  simp [hx, execTlbMissWalk, hl, hn]

/-- R190: a load of on-chip state needs no translation. Every access of the request that bears the number of the one looked up
takes the address that it names itself. -/
theorem lookUp_chip_of_isLoad (s : State) (k : Nat) {r : Req} {l : Lane} {x : Loc} (hr : r.kind.isLoad = true)
    (ha : spaceOf l.addr = .chip x) :
    s.lookUp k r l = s.onTile k fun t => t.onLane r.id l.idx fun y => { y with st := .hit y.addr.toNat } := by
  simp only [State.lookUp, ha, State.lookDirect]
  cases hk : r.kind <;> simp_all [ReqKind.isLoad]

/-- An access numbered 0, just triggered, to the double at byte `off` of tile 1's scratchpad. -/
def chipLane (off : Nat) : Lane := ⟨0, BitVec.ofNat 64 (0xE000000001000000 + off), 8, .issue, 0⟩

/-- A gather whose two accesses, to different doubles, both bear the number 0. -/
def twinGather : Req := ⟨1, 0, .gload .raw, .zero, [chipLane 16, chipLane 24], none⟩

/-- The state after reset, but that tile 0 has this gather outstanding. -/
def twinState : State := State.reset.setTile 0 { Tile.reset with reqs := [twinGather] }

theorem twinState_lane : (twinState.tile 0).lane? 1 0 = some (twinGather, chipLane 16) := rfl

theorem twinState_nextUp : twinState.nextUp 0 twinGather (chipLane 16) = true := by decide +kernel

theorem spaceOf_chipLane_first : spaceOf (chipLane 16).addr = .chip (.tile 1 16) := by decide

/-- How far each access of a tile has come. -/
def Tile.laneStates (t : Tile) : List (List LaneSt) := t.reqs.map fun r => r.lanes.map (·.st)

/-- The second of the two takes its own address, 0xE000000001000018, not the first one's, 0xE000000001000010. -/
theorem twinState_second_own_address :
    ((twinState.tile 0).onLane 1 0 fun y => { y with st := .hit y.addr.toNat }).laneStates ≠
      ((twinState.tile 0).onLane 1 0 fun y => { y with st := .hit (chipLane 16).addr.toNat }).laneStates := by
  decide

end Sys2Proof.Machine

open Sys2Proof.Machine

/-- Refutes O33. TlbLookups does not ask that the numbers of a request's accesses differ (WalksComplete does), and says that a load
of on-chip state gives each access of that number the address of the one looked up. Where two accesses bear the number, the model
gives each its own address, so that the two states differ. -/
theorem not_translation : ¬ Obligations.Translation := by
  unfold Obligations.Translation
  rintro ⟨hLookups, -, -, -⟩
  obtain ⟨-, hDirect, -⟩ := hLookups twinState 0 1 0 twinGather (chipLane 16) twinState_lane twinState_nextUp
  obtain ⟨hChip, -⟩ := hDirect (.inl rfl)
  have hClaimed := hChip (.tile 1 16) spaceOf_chipLane_first
  rw [exec_tlbMissWalk_nextUp twinState_lane twinState_nextUp, lookUp_chip_of_isLoad _ _ rfl spaceOf_chipLane_first] at hClaimed
  have hTile := congrArg (fun s : State => (s.tile 0).laneStates) (Host.Outcome.next.inj hClaimed)
  simp only [tile_onTile, tile_setTile] at hTile
  exact twinState_second_own_address hTile
end

section
/-! Words as fields laid side by side, and the numbers that fields hold: what is read at each place is what was laid there. -/
namespace Sys2Proof.Machine

/-! ### Fields of a word -/

/-- Two fields side by side, and what is read at their places. -/
theorem eq_append_iff {v w : Nat} (x : BitVec (v + w)) (p : BitVec v) (q : BitVec w) :
    x = p ++ q ↔ x.extractLsb' w v = p ∧ x.extractLsb' 0 w = q := by
  constructor
  · rintro rfl
    exact ⟨BitVec.extractLsb'_append_eq_left, BitVec.extractLsb'_append_eq_right⟩
  · rintro ⟨rfl, rfl⟩
    exact BitVec.extractLsb'_append_extractLsb'.symm

/-- A field of a field. -/
theorem extractLsb'_extractLsb' {n a len b k : Nat} (x : BitVec n) (h : b + k ≤ len) :
    (x.extractLsb' a len).extractLsb' b k = x.extractLsb' (b + a) k := by
  ext i hi
  simp [show b + i < len by omega, Nat.add_left_comm a b i, Nat.add_assoc, Nat.add_comm a]

theorem eq_append_three_iff {u v w : Nat} (x : BitVec (u + v + w)) (p : BitVec u) (q : BitVec v) (r : BitVec w) :
    x = p ++ q ++ r ↔ x.extractLsb' (v + w) u = p ∧ x.extractLsb' w v = q ∧ x.extractLsb' 0 w = r := by
  rw [eq_append_iff, eq_append_iff, extractLsb'_extractLsb' _ (by omega),
    extractLsb'_extractLsb' _ (by omega), and_assoc]
  simp

theorem eq_append_four_iff {t u v w : Nat} (x : BitVec (t + u + v + w)) (o : BitVec t) (p : BitVec u) (q : BitVec v)
    (r : BitVec w) :
    x = o ++ p ++ q ++ r ↔ x.extractLsb' (u + (v + w)) t = o ∧ x.extractLsb' (v + w) u = p ∧ x.extractLsb' w v = q ∧
      x.extractLsb' 0 w = r := by
  rw [eq_append_iff, eq_append_three_iff, extractLsb'_extractLsb' _ (by omega),
    extractLsb'_extractLsb' _ (by omega), extractLsb'_extractLsb' _ (by omega), and_assoc, and_assoc]
  simp [Nat.add_assoc]

theorem eq_append_five_iff {s t u v w : Nat} (x : BitVec (s + t + u + v + w)) (n : BitVec s) (o : BitVec t) (p : BitVec u)
    (q : BitVec v) (r : BitVec w) :
    x = n ++ o ++ p ++ q ++ r ↔ x.extractLsb' (t + (u + (v + w))) s = n ∧ x.extractLsb' (u + (v + w)) t = o ∧
      x.extractLsb' (v + w) u = p ∧ x.extractLsb' w v = q ∧ x.extractLsb' 0 w = r := by
  rw [eq_append_iff, eq_append_four_iff, extractLsb'_extractLsb' _ (by omega),
    extractLsb'_extractLsb' _ (by omega), extractLsb'_extractLsb' _ (by omega),
    extractLsb'_extractLsb' _ (by omega), and_assoc, and_assoc, and_assoc]
  simp [Nat.add_assoc]

/-- A field of one bit. -/
theorem extractLsb'_one_eq_iff {n : Nat} (x : BitVec n) (i : Nat) (b : Bool) :
    x.extractLsb' i 1 = BitVec.ofBool b ↔ x.getLsbD i = b := by
  have h : x.extractLsb' i 1 = BitVec.ofBool (x.getLsbD i) := by
    apply BitVec.eq_of_getLsbD_eq
    intro j hj
    obtain rfl : j = 0 := by omega
    simp
  rw [h]
  cases x.getLsbD i <;> cases b <;> decide

/-! ### Numbers of sockets, ports and special registers -/

theorem sock_ofNum_eq_some_iff (n : BitVec 5) (k : Sock) : Sock.ofNum n = some k ↔ n = k.num := by
  constructor
  · intro h
    unfold Sock.ofNum at h
    split at h <;> cases h <;> exact BitVec.eq_of_toNat_eq ‹_›
  · rintro rfl
    cases k <;> rfl

theorem portSrc_ofNum_eq_some_iff (x : BitVec 9) (p : PortSrc) : PortSrc.ofNum x = some p ↔ x = p.num := by
  constructor
  · intro h
    unfold PortSrc.ofNum at h
    split at h <;> cases h <;> exact BitVec.eq_of_toNat_eq ‹_›
  · rintro rfl
    match p with
    | .link d => cases d <;> rfl
    | .inbox | .gl | .spr => rfl
    | .sq q => cases q <;> rfl

theorem sreg_ofNum_eq_some_iff (x : BitVec 9) (r : SReg) : SReg.ofNum x = some r ↔ x = r.num := by
  constructor
  · intro h
    unfold SReg.ofNum at h
    split at h <;> cases h <;> exact BitVec.eq_of_toNat_eq ‹_›
  · rintro rfl
    cases r
    case lc n => revert n; decide
    case le n => revert n; decide
    case ls n => revert n; decide
    all_goals rfl
end Sys2Proof.Machine
end

section
/-! The source field and its decoder: one lemma for each shape of the field, and what it decodes to, both ways. -/
namespace Sys2Proof.Machine

/-- The last of the four forms, and the last of the eight classes. -/
theorem eq_three_of_ne {n : BitVec 2} (h0 : n.toNat ≠ 0) (h1 : n.toNat ≠ 1) (h2 : n.toNat ≠ 2) : n = 3 := by
  have := n.isLt
  exact BitVec.eq_of_toNat_eq (by change _ = 3; omega)

theorem eq_seven_of_ne {n : BitVec 3} (h0 : n.toNat ≠ 0) (h1 : n.toNat ≠ 1) (h2 : n.toNat ≠ 2) (h3 : n.toNat ≠ 3)
    (h4 : n.toNat ≠ 4) (h5 : n.toNat ≠ 5) (h6 : n.toNat ≠ 6) : n = 7 := by
  have := n.isLt
  exact BitVec.eq_of_toNat_eq (by change _ = 7; omega)

/-! ### The source field (04 R83 to R86) -/

theorem eq_encodeSrc_g_iff (x : BitVec 12) (i : BitVec 6) :
    x = encodeSrc (.g i) ↔ x.extractLsb' 9 3 = 0 ∧ x.extractLsb' 6 3 = 0 ∧ x.extractLsb' 0 6 = i :=
  eq_append_three_iff (u := 3) (v := 3) (w := 6) x 0 0 i

theorem eq_encodeSrc_res_iff (x : BitVec 12) (k : Sock) (r : Bool) :
    x = encodeSrc (.res k r) ↔
      x.extractLsb' 9 3 = 1 ∧ x.extractLsb' 4 5 = k.num ∧ x.extractLsb' 1 3 = 0 ∧ x[0] = r := by
  rw [← BitVec.getLsbD_eq_getElem, ← extractLsb'_one_eq_iff]
  exact eq_append_four_iff (t := 3) (u := 5) (v := 3) (w := 1) x 1 k.num 0 _

theorem eq_encodeSrc_imm_iff (x : BitVec 12) (v : BitVec 9) :
    x = encodeSrc (.imm v) ↔ x.extractLsb' 9 3 = 2 ∧ x.extractLsb' 0 9 = v :=
  eq_append_iff (v := 3) (w := 9) x 2 v

/-- The number of a literal's form (04 R84). -/
def formNum : LitForm → BitVec 2
  | .sx31 => 0 | .sx62 _ => 1 | .zx31 => 2 | .sh31 => 3

theorem eq_encodeSrc_lit_iff (x : BitVec 12) (i : BitVec 3) (lo : BitVec 31) (f : LitForm) :
    x = encodeSrc (.lit i lo f) ↔
      x.extractLsb' 9 3 = 3 ∧ x.extractLsb' 6 3 = i ∧ x.extractLsb' 4 2 = formNum f ∧ x.extractLsb' 0 4 = 0 := by
  cases f <;> exact eq_append_four_iff (t := 3) (u := 3) (v := 2) (w := 4) x 3 i _ 0

theorem eq_encodeSrc_v_iff (x : BitVec 12) (i : BitVec 5) :
    x = encodeSrc (.v i) ↔ x.extractLsb' 9 3 = 4 ∧ x.extractLsb' 5 4 = 0 ∧ x.extractLsb' 0 5 = i :=
  eq_append_three_iff (u := 3) (v := 4) (w := 5) x 4 0 i

theorem eq_encodeSrc_p_iff (x : BitVec 12) (i : BitVec 4) :
    x = encodeSrc (.p i) ↔
      x.extractLsb' 9 3 = 5 ∧ x.extractLsb' 5 4 = 0 ∧ x[4] = false ∧ x.extractLsb' 0 4 = i := by
  rw [← BitVec.getLsbD_eq_getElem, ← extractLsb'_one_eq_iff]
  exact eq_append_four_iff (t := 3) (u := 4) (v := 1) (w := 4) x 5 0 0 i

theorem eq_encodeSrc_q_iff (x : BitVec 12) (i : BitVec 3) :
    x = encodeSrc (.q i) ↔
      x.extractLsb' 9 3 = 5 ∧ x.extractLsb' 5 4 = 0 ∧ x[4] = true ∧ x[3] = false ∧ x.extractLsb' 0 3 = i := by
  rw [← BitVec.getLsbD_eq_getElem, ← BitVec.getLsbD_eq_getElem, ← extractLsb'_one_eq_iff, ← extractLsb'_one_eq_iff]
  exact eq_append_five_iff (s := 3) (t := 4) (u := 1) (v := 1) (w := 3) x 5 0 1 0 i

theorem eq_encodeSrc_port_iff (x : BitVec 12) (n : PortSrc) :
    x = encodeSrc (.port n) ↔ x.extractLsb' 9 3 = 6 ∧ x.extractLsb' 0 9 = n.num :=
  eq_append_iff (v := 3) (w := 9) x 6 n.num

theorem eq_encodeSrc_spec_iff (x : BitVec 12) (r : SReg) :
    x = encodeSrc (.spec r) ↔ x.extractLsb' 9 3 = 7 ∧ x.extractLsb' 0 9 = r.num :=
  eq_append_iff (v := 3) (w := 9) x 7 r.num

/-- The literal words that the source names stand among those of the bundle (04 R84). -/
def readsLits (lits : List (BitVec 31)) : Src → Prop
  | .lit i lo (.sx62 hi) => lits[i.toNat]? = some lo ∧ lits[i.toNat + 1]? = some hi
  | .lit i lo _ => lits[i.toNat]? = some lo
  | _ => True

theorem litOk_of_readsLits {lits : List (BitVec 31)} {src : Src} (hl : lits.length ≤ 7) (h : readsLits lits src) :
    src.litOk = true := by
  have hlt : ∀ {k : Nat} {x : BitVec 31}, lits[k]? = some x → k < 7 := fun hx => by
    obtain ⟨hk, -⟩ := List.getElem?_eq_some_iff.mp hx
    omega
  match src with
  | .lit i lo (.sx62 hi) =>
    have := hlt h.2
    simpa [Src.litOk] using (by omega : i.toNat < 6)
  | .lit i lo .sx31 | .lit i lo .zx31 | .lit i lo .sh31 => simpa [Src.litOk] using hlt h
  | .g _ | .res _ _ | .imm _ | .v _ | .p _ | .q _ | .port _ | .spec _ => rfl

/-- A source's field decodes to it where its literal words are there. -/
theorem decodeSrc_encodeSrc {lits : List (BitVec 31)} {src : Src} (hl : readsLits lits src) :
    decodeSrc (encodeSrc src) lits = .ok src := by
  generalize hx : encodeSrc src = x
  replace hx := hx.symm
  cases src
  case g i =>
    obtain ⟨hc, h0, hi⟩ := (eq_encodeSrc_g_iff x i).mp hx
    simp [decodeSrc, hc, h0, hi]
  case res k r =>
    obtain ⟨hc, hk, h0, hr⟩ := (eq_encodeSrc_res_iff x k r).mp hx
    simp [decodeSrc, hc, h0, hk, (sock_ofNum_eq_some_iff _ k).mpr rfl, ← hr]
  case imm v =>
    obtain ⟨hc, hv⟩ := (eq_encodeSrc_imm_iff x v).mp hx
    simp [decodeSrc, hc, hv]
  case lit i lo f =>
    obtain ⟨hc, hi, hf, h0⟩ := (eq_encodeSrc_lit_iff x i lo f).mp hx
    cases f <;> simp_all [decodeSrc, readsLits, formNum]
  case v i =>
    obtain ⟨hc, h0, hi⟩ := (eq_encodeSrc_v_iff x i).mp hx
    simp [decodeSrc, hc, h0, hi]
  case p i =>
    obtain ⟨hc, h0, h4, hi⟩ := (eq_encodeSrc_p_iff x i).mp hx
    simp [decodeSrc, hc, h0, hi, h4]
  case q i =>
    obtain ⟨hc, h0, h4, h3, hi⟩ := (eq_encodeSrc_q_iff x i).mp hx
    simp [decodeSrc, hc, h0, hi, h4, h3]
  case port n =>
    obtain ⟨hc, hn⟩ := (eq_encodeSrc_port_iff x n).mp hx
    simp [decodeSrc, hc, hn, (portSrc_ofNum_eq_some_iff _ n).mpr rfl]
  case spec r =>
    obtain ⟨hc, hr⟩ := (eq_encodeSrc_spec_iff x r).mp hx
    simp [decodeSrc, hc, hr, (sreg_ofNum_eq_some_iff _ r).mpr rfl]

/-- A source field that decodes is the field of its source, whose literal words are there. -/
theorem encodeSrc_of_decodeSrc {x : BitVec 12} {lits : List (BitVec 31)} {src : Src} (h : decodeSrc x lits = .ok src) :
    x = encodeSrc src ∧ readsLits lits src := by
  unfold decodeSrc at h
  split at h
  case h_1 hc =>
    split at h <;> cases h
    exact ⟨(eq_encodeSrc_g_iff x _).mpr ⟨BitVec.eq_of_toNat_eq hc, ‹_›, rfl⟩, trivial⟩
  case h_2 hc =>
    split at h
    · cases h
    rename_i h0
    split at h <;> cases h
    rename_i k hk
    exact ⟨(eq_encodeSrc_res_iff x k _).mpr ⟨BitVec.eq_of_toNat_eq hc, (sock_ofNum_eq_some_iff _ _).mp hk,
      Decidable.not_not.mp h0, rfl⟩, trivial⟩
  case h_3 hc =>
    cases h
    exact ⟨(eq_encodeSrc_imm_iff x _).mpr ⟨BitVec.eq_of_toNat_eq hc, rfl⟩, trivial⟩
  case h_4 hc =>
    split at h
    · cases h
    rename_i h0
    have word : ∀ {lo f}, x.extractLsb' 4 2 = formNum f → x = encodeSrc (.lit (x.extractLsb' 6 3) lo f) := fun hf =>
      (eq_encodeSrc_lit_iff x _ _ _).mpr ⟨BitVec.eq_of_toNat_eq hc, rfl, hf, Decidable.not_not.mp h0⟩
    dsimp only at h
    split at h
    · cases h
    rename_i lo hlo
    split at h
    case h_1 hf => cases h; exact ⟨word (BitVec.eq_of_toNat_eq hf), hlo⟩
    case h_2 hf =>
      split at h <;> cases h
      exact ⟨word (BitVec.eq_of_toNat_eq hf), hlo, ‹_›⟩
    case h_3 hf => cases h; exact ⟨word (BitVec.eq_of_toNat_eq hf), hlo⟩
    case h_4 hf0 hf1 hf2 =>
      cases h
      exact ⟨word (eq_three_of_ne hf0 hf1 hf2), hlo⟩
  case h_5 hc =>
    split at h <;> cases h
    exact ⟨(eq_encodeSrc_v_iff x _).mpr ⟨BitVec.eq_of_toNat_eq hc, ‹_›, rfl⟩, trivial⟩
  case h_6 hc =>
    split at h
    · cases h
    rename_i h0
    split at h
    case isTrue h4 =>
      split at h <;> cases h
      rename_i h3
      exact ⟨(eq_encodeSrc_q_iff x _).mpr ⟨BitVec.eq_of_toNat_eq hc, Decidable.not_not.mp h0, h4, by simpa using h3, rfl⟩,
        trivial⟩
    case isFalse h4 =>
      cases h
      exact ⟨(eq_encodeSrc_p_iff x _).mpr ⟨BitVec.eq_of_toNat_eq hc, Decidable.not_not.mp h0, by simpa using h4, rfl⟩,
        trivial⟩
  case h_7 hc =>
    split at h <;> cases h
    rename_i n hn
    exact ⟨(eq_encodeSrc_port_iff x n).mpr ⟨BitVec.eq_of_toNat_eq hc, (portSrc_ofNum_eq_some_iff _ _).mp hn⟩, trivial⟩
  case h_8 h0 h1 h2 h3 h4 h5 h6 =>
    split at h <;> cases h
    rename_i r hr
    exact ⟨(eq_encodeSrc_spec_iff x r).mpr ⟨eq_seven_of_ne h0 h1 h2 h3 h4 h5 h6,
      (sreg_ofNum_eq_some_iff _ _).mp hr⟩, trivial⟩
end Sys2Proof.Machine
end

section
/-! The destination field and its decoder, as for the source. -/
namespace Sys2Proof.Machine

/-! ### The destination field (04 R87, R88) -/

theorem eq_encodeDst_g_iff (x : BitVec 14) (i : BitVec 6) :
    x = encodeDst (.g i) ↔
      x.extractLsb' 12 2 = 0 ∧ x.extractLsb' 9 3 = 0 ∧ x.extractLsb' 6 3 = 0 ∧ x.extractLsb' 0 6 = i :=
  eq_append_four_iff (t := 2) (u := 3) (v := 3) (w := 6) x 0 0 0 i

theorem eq_encodeDst_v_iff (x : BitVec 14) (i : BitVec 5) :
    x = encodeDst (.v i) ↔
      x.extractLsb' 12 2 = 0 ∧ x.extractLsb' 9 3 = 1 ∧ x.extractLsb' 5 4 = 0 ∧ x.extractLsb' 0 5 = i :=
  eq_append_four_iff (t := 2) (u := 3) (v := 4) (w := 5) x 0 1 0 i

theorem eq_encodeDst_p_iff (x : BitVec 14) (n : BitVec 4) :
    x = encodeDst (.p n) ↔
      x.extractLsb' 12 2 = 0 ∧ x.extractLsb' 9 3 = 2 ∧ x.extractLsb' 4 5 = 0 ∧ x.extractLsb' 0 4 = n :=
  eq_append_four_iff (t := 2) (u := 3) (v := 5) (w := 4) x 0 2 0 n

theorem eq_encodeDst_q_iff (x : BitVec 14) (n : BitVec 3) :
    x = encodeDst (.q n) ↔
      x.extractLsb' 12 2 = 0 ∧ x.extractLsb' 9 3 = 3 ∧ x.extractLsb' 3 6 = 0 ∧ x.extractLsb' 0 3 = n :=
  eq_append_four_iff (t := 2) (u := 3) (v := 6) (w := 3) x 0 3 0 n

theorem eq_encodeDst_spec_iff (x : BitVec 14) (r : SReg) :
    x = encodeDst (.spec r) ↔ x.extractLsb' 12 2 = 0 ∧ x.extractLsb' 9 3 = 4 ∧ x.extractLsb' 0 9 = r.num :=
  eq_append_three_iff (u := 2) (v := 3) (w := 9) x 0 4 r.num

theorem eq_encodeDst_link_iff (x : BitVec 14) (d : Dir) :
    x = encodeDst (.link d) ↔
      x.extractLsb' 12 2 = 0 ∧ x.extractLsb' 9 3 = 5 ∧ x.extractLsb' 0 9 = (PortSrc.link d).num :=
  eq_append_three_iff (u := 2) (v := 3) (w := 9) x 0 5 _

theorem eq_encodeDst_spr_iff (x : BitVec 14) :
    x = encodeDst .spr ↔ x.extractLsb' 12 2 = 0 ∧ x.extractLsb' 9 3 = 5 ∧ x.extractLsb' 0 9 = PortSrc.spr.num :=
  eq_append_three_iff (u := 2) (v := 3) (w := 9) x 0 5 _

theorem eq_encodeDst_opnd_iff (x : BitVec 14) (k : Sock) (n : BitVec 2) (e : Bool) :
    x = encodeDst (.opnd k n e) ↔ x.extractLsb' 12 2 = 2 ∧ x.extractLsb' 7 5 = k.num ∧ x.extractLsb' 5 2 = n ∧
      x[4] = e ∧ x.extractLsb' 0 4 = 0 := by
  rw [← BitVec.getLsbD_eq_getElem, ← extractLsb'_one_eq_iff]
  exact eq_append_five_iff (s := 2) (t := 5) (u := 2) (v := 1) (w := 4) x 2 k.num n _ 0

theorem eq_encodeTrig_iff (x : BitVec 14) (k : Sock) (opc : BitVec 6) (e : Bool) :
    x = encodeTrig k opc e ↔
      x.extractLsb' 12 2 = 3 ∧ x.extractLsb' 7 5 = k.num ∧ x[6] = e ∧ x.extractLsb' 0 6 = opc := by
  rw [← BitVec.getLsbD_eq_getElem, ← extractLsb'_one_eq_iff]
  exact eq_append_four_iff (t := 2) (u := 5) (v := 1) (w := 6) x 3 k.num _ opc

/-- The destination field of a move word. -/
def encodeField : DstField → BitVec 14
  | .plain d => encodeDst d
  | .trig k opc e => encodeTrig k opc e

/-- PC is no destination (04 R90). -/
def fieldNotPc : DstField → Bool
  | .plain d => d.notPc
  | .trig _ _ _ => true

/-- A destination's field decodes to it. -/
theorem decodeDst_encodeField {f : DstField} (hp : fieldNotPc f = true) : decodeDst (encodeField f) = .ok f := by
  generalize hx : encodeField f = x
  replace hx := hx.symm
  match f with
  | .trig k opc e =>
    obtain ⟨hc, hk, he, ho⟩ := (eq_encodeTrig_iff x k opc e).mp hx
    simp [decodeDst, hc, hk, ho, he, (sock_ofNum_eq_some_iff _ k).mpr rfl]
  | .plain (.g i) =>
    obtain ⟨hc, hs, h0, hi⟩ := (eq_encodeDst_g_iff x i).mp hx
    simp [decodeDst, decodeReg, hc, hs, h0, hi]
  | .plain (.v i) =>
    obtain ⟨hc, hs, h0, hi⟩ := (eq_encodeDst_v_iff x i).mp hx
    simp [decodeDst, decodeReg, hc, hs, h0, hi]
  | .plain (.p n) =>
    obtain ⟨hc, hs, h0, hn⟩ := (eq_encodeDst_p_iff x n).mp hx
    simp [decodeDst, decodeReg, hc, hs, h0, hn]
  | .plain (.q n) =>
    obtain ⟨hc, hs, h0, hn⟩ := (eq_encodeDst_q_iff x n).mp hx
    simp [decodeDst, decodeReg, hc, hs, h0, hn]
  | .plain (.spec r) =>
    obtain ⟨hc, hs, hr⟩ := (eq_encodeDst_spec_iff x r).mp hx
    have hr := (sreg_ofNum_eq_some_iff _ r).mpr hr
    cases r <;> simp_all [decodeDst, decodeReg, fieldNotPc, Dst.notPc]
  | .plain (.link d) =>
    obtain ⟨hc, hs, hd⟩ := (eq_encodeDst_link_iff x d).mp hx
    simp [decodeDst, decodeReg, hc, hs, (portSrc_ofNum_eq_some_iff _ _).mpr hd]
  | .plain .spr =>
    obtain ⟨hc, hs, hd⟩ := (eq_encodeDst_spr_iff x).mp hx
    simp [decodeDst, decodeReg, hc, hs, (portSrc_ofNum_eq_some_iff _ _).mpr hd]
  | .plain (.opnd k n e) =>
    obtain ⟨hc, hk, hn, he, h0⟩ := (eq_encodeDst_opnd_iff x k n e).mp hx
    simp [decodeDst, hc, hk, hn, h0, he, (sock_ofNum_eq_some_iff _ k).mpr rfl]

theorem encodeField_of_decodeReg {x : BitVec 14} {f : DstField} (hc : x.extractLsb' 12 2 = 0)
    (h : decodeReg (x.extractLsb' 0 12) = .ok f) : x = encodeField f ∧ fieldNotPc f = true := by
  unfold decodeReg at h
  simp only [extractLsb'_extractLsb' x (show 9 + 3 ≤ 12 by decide), extractLsb'_extractLsb' x (show 0 + 9 ≤ 12 by decide),
    extractLsb'_extractLsb' x (show 6 + 3 ≤ 9 by decide), extractLsb'_extractLsb' x (show 0 + 6 ≤ 9 by decide),
    extractLsb'_extractLsb' x (show 5 + 4 ≤ 9 by decide), extractLsb'_extractLsb' x (show 0 + 5 ≤ 9 by decide),
    extractLsb'_extractLsb' x (show 4 + 5 ≤ 9 by decide), extractLsb'_extractLsb' x (show 0 + 4 ≤ 9 by decide),
    extractLsb'_extractLsb' x (show 3 + 6 ≤ 9 by decide), extractLsb'_extractLsb' x (show 0 + 3 ≤ 9 by decide),
    Nat.add_zero] at h
  split at h
  case h_1 hs =>
    split at h <;> cases h
    exact ⟨(eq_encodeDst_g_iff x _).mpr ⟨hc, BitVec.eq_of_toNat_eq hs, ‹_›, rfl⟩, rfl⟩
  case h_2 hs =>
    split at h <;> cases h
    exact ⟨(eq_encodeDst_v_iff x _).mpr ⟨hc, BitVec.eq_of_toNat_eq hs, ‹_›, rfl⟩, rfl⟩
  case h_3 hs =>
    split at h <;> cases h
    exact ⟨(eq_encodeDst_p_iff x _).mpr ⟨hc, BitVec.eq_of_toNat_eq hs, ‹_›, rfl⟩, rfl⟩
  case h_4 hs =>
    split at h <;> cases h
    exact ⟨(eq_encodeDst_q_iff x _).mpr ⟨hc, BitVec.eq_of_toNat_eq hs, ‹_›, rfl⟩, rfl⟩
  case h_5 hs =>
    split at h <;> cases h
    rename_i r hpc hr
    refine ⟨(eq_encodeDst_spec_iff x r).mpr ⟨hc, BitVec.eq_of_toNat_eq hs, (sreg_ofNum_eq_some_iff _ r).mp hr⟩, ?_⟩
    cases r <;> simp_all [fieldNotPc, Dst.notPc]
  case h_6 hs =>
    split at h <;> cases h
    case h_1 d hd =>
      exact ⟨(eq_encodeDst_link_iff x d).mpr ⟨hc, BitVec.eq_of_toNat_eq hs, (portSrc_ofNum_eq_some_iff _ _).mp hd⟩, rfl⟩
    case h_2 hd =>
      exact ⟨(eq_encodeDst_spr_iff x).mpr ⟨hc, BitVec.eq_of_toNat_eq hs, (portSrc_ofNum_eq_some_iff _ _).mp hd⟩, rfl⟩
  case h_7 => cases h

/-- A destination field that decodes is the field of what it names. -/
theorem encodeField_of_decodeDst {x : BitVec 14} {f : DstField} (h : decodeDst x = .ok f) :
    x = encodeField f ∧ fieldNotPc f = true := by
  unfold decodeDst at h
  split at h
  case h_1 hc => exact encodeField_of_decodeReg (BitVec.eq_of_toNat_eq hc) h
  case h_2 => cases h
  case h_3 hc =>
    split at h
    · cases h
    rename_i k hk
    split at h <;> cases h
    rename_i h0
    exact ⟨(eq_encodeDst_opnd_iff x k _ _).mpr
      ⟨BitVec.eq_of_toNat_eq hc, (sock_ofNum_eq_some_iff _ _).mp hk, rfl, rfl, h0⟩, rfl⟩
  case h_4 h0 h1 h2 =>
    split at h <;> cases h
    rename_i k hk
    exact ⟨(eq_encodeTrig_iff x k _ _).mpr ⟨eq_three_of_ne h0 h1 h2, (sock_ofNum_eq_some_iff _ _).mp hk, rfl, rfl⟩, rfl⟩
end Sys2Proof.Machine
end

section
/-! The opcode map over all instructions at once, from its lemmas. -/
namespace Sys2Proof.Laws.OpcodeMap
theorem of_any : ∀ i : Instr, Statement i :=
  Instr.rec (motive := Statement) move br jmp call ret loop endTile trap tret add sub and andn or xor shl shr sar rol min
    minU max maxU cmpEq cmpNe cmpLt cmpLe cmpLtu cmpLeu sel clz popc bext bins sext pand por pxor mul mulh mulhU mad div divU
    rem remU ldB ldH ldW ldD ldBz ldHz ldWz stB stH stW stD stDRel vld vst gld sct ldt ldtV rdm rdmS tkq tkx amoAdd amoMin
    amoMax amoAnd amoOr amoXor amoXchg amoCas amoAddAcq amoMinAcq amoMaxAcq amoAndAcq amoOrAcq amoXorAcq amoXchgAcq amoCasAcq
    amoAddRel amoMinRel amoMaxRel amoAndRel amoOrRel amoXorRel amoXchgRel amoCasRel pref spb fla loc phaseT phaseG bar fence
    wait slns twns tstmp cycle enq join mode srd swr send sendP recv strm coll cpy cpym cpnest cpbuf cpadv vadd vaddS vsub
    vsubS vmul vmad vand vor vxor vshl vshr vshrA vmin vmax vabs vcmpEq vcmpNe vcmpLt vcmpLe vcmpLtu vcmpLeu vsel fadd fsub
    fmul ffma ffmaN ffms fmin fmax fabs fabsNeg fabsSgn fcmpEq fcmpNe fcmpLt fcmpLe fcmpUn fcmpOrd fcvt frnd vperm vbcst
    vredAdd vredMin vredMax vscanAdd vcmpx vqnt vqntSr vdqn vcvt ori2 ori3 incir insph segx gpst sfn sfrow sfld sfcm mlda
    mldb mma mzro mrd mqrd bundleIssue streamEndEvent resultLand resultArrive linkWordArrive linkCreditReturn
    linkCreditNotice linkMarkerArrive codePageLoad codePagePrefetch spillEngineCycle spillTransferComplete syncOpComplete
    barrierComplete checkpoint readCacheFill tlbMissWalk pageWalkComplete invalAll invalPage replayAll failPage tlbcmdDone
    loadAtTarget amoAtSlice postedStorePerform peerAccessCheck peerStoreAck peerRequestTimeout ticketAllocate
    ticketFetchComplete redeemAtSlice redeemDeliver ticketClassifyAtSlice ticketWatchdogPass enqAtSlice joinAtSlice
    handoverEnqueue dispenserSelect reservationTake tileRelease gangRetire gangFail recordCancel unresponsiveTimeout
    quarantineEnd gangStop gangResume ctlPark ctlRelease ctlStop supack queueDescriptorWrite mapWrite mxOpStart mxLoadReady
    mmaComplete gpOpComplete sfOpComplete copyJobStart copyJobEnd cbSlotFilled collectiveComplete sendAccepted messageArrive
    streamWordArrive slnsExpire waitComplete waitTimeout weirAlarm weirStretchEnd weirHalveEnd powerInterval tileClockChange
    flitCrcFail moduleRetrain retrainComplete boundaryRetrainCmd memoryScrub imageLoad imageUnload mailboxDoorbell
    jobCompletionNotice attestationRequest boot tileReset moduleReset readCacheEviction syashPortStateChange syashLinkRetry
    scoreHalving
end Sys2Proof.Laws.OpcodeMap
end

section
/-! A move word as head and destination field: its word, its head, its well-formedness, and what it is decoded from. -/
namespace Sys2Proof.Machine

/-! ### The parts of a move word -/

/-- The instruction that a head and a destination field make, none where socket and opcode name none (04 R93). -/
def ofField (h : Head) : DstField → Option Instr
  | .plain d => some (.move h d)
  | .trig k opc e => Instr.ofTrig k opc h e

/-- The head and the destination field of a move word, none of an event. -/
def partsOf : Instr → Option (Head × DstField)
  | .move h d => some (h, .plain d)
  | i => i.trig?.map fun (h, k, opc, e) => (h, .trig k opc e)

theorem partsOf_of_trig? {i : Instr} {h : Head} {k : Sock} {opc : BitVec 6} {e : Bool}
    (ht : i.trig? = some (h, k, opc, e)) : partsOf i = some (h, .trig k opc e) := by
  unfold partsOf
  split
  · cases ht
  · rw [ht]; rfl

/-- A move word is a plain transport or a trigger. -/
theorem partsOf_eq_some_iff {i : Instr} {h : Head} {f : DstField} :
    partsOf i = some (h, f) ↔
      (∃ d, i = .move h d ∧ f = .plain d) ∨ ∃ k opc e, i.trig? = some (h, k, opc, e) ∧ f = .trig k opc e := by
  constructor
  · intro hp
    unfold partsOf at hp
    split at hp
    · cases hp; exact .inl ⟨_, rfl, rfl⟩
    · obtain ⟨⟨h, k, opc, e⟩, ht, hx⟩ := Option.map_eq_some_iff.mp hp
      cases hx
      exact .inr ⟨k, opc, e, ht, rfl⟩
  · rintro (⟨d, rfl, rfl⟩ | ⟨k, opc, e, ht, rfl⟩)
    · rfl
    · exact partsOf_of_trig? ht

theorem trig?_of_toNat {i : Instr} {h : Head} {k : Sock} {opc c : BitVec 6} {e : Bool} (hc : opc.toNat = c.toNat)
    (hi : i.trig? = some (h, k, c, e)) : i.trig? = some (h, k, opc, e) := by
  rw [BitVec.eq_of_toNat_eq hc, hi]

/-- The opcode map names a trigger by the socket, opcode and E bit that it is encoded with (04 R93, R95). -/
theorem trig?_of_ofTrig {k : Sock} {opc : BitVec 6} {h : Head} {e : Bool} {i : Instr}
    (hi : Instr.ofTrig k opc h e = some i) : i.trig? = some (h, k, opc, e) := by
  cases k
  all_goals
    dsimp only [Instr.ofTrig, trigCu, trigIa, trigIm, trigAu, trigSy, trigCh, trigCp, trigVa, trigVf, trigVx, trigGp, trigSf,
      trigMx] at hi
    split at hi <;> cases hi
    all_goals exact trig?_of_toNat ‹_› rfl

/-- An instruction is what its parts make, and no other parts make it. -/
theorem ofField_eq_some_iff {h : Head} {f : DstField} {i : Instr} : ofField h f = some i ↔ partsOf i = some (h, f) := by
  rw [partsOf_eq_some_iff]
  constructor
  · intro hi
    cases f with
    | plain d => cases hi; exact .inl ⟨d, rfl, rfl⟩
    | trig k opc e => exact .inr ⟨k, opc, e, trig?_of_ofTrig hi, rfl⟩
  · rintro (⟨d, rfl, rfl⟩ | ⟨k, opc, e, ht, rfl⟩)
    · rfl
    · exact Laws.OpcodeMap.of_any i h k opc e ht

/-- The word that a head and a destination field make (04 R81). -/
def wordOf (h : Head) (f : DstField) : W32 := (0#1 ++ h.g ++ encodeSrc h.src ++ encodeField f : BitVec 32)

theorem eq_wordOf_iff (w : W32) (h : Head) (f : DstField) :
    w = wordOf h f ↔ w[31] = false ∧ w.extractLsb' 26 5 = h.g ∧ w.extractLsb' 14 12 = encodeSrc h.src ∧
      w.extractLsb' 0 14 = encodeField f := by
  rw [← BitVec.getLsbD_eq_getElem, ← extractLsb'_one_eq_iff]
  exact eq_append_four_iff (t := 1) (u := 5) (v := 12) (w := 14) w _ h.g _ _

/-- The buses that reach what a destination field names (02 R30, R32). -/
def fieldOnBus (b : BusKind) : DstField → Bool
  | .plain d => d.onBus b
  | .trig k _ _ => k.trigBus b

theorem head?_of_parts {i : Instr} {h : Head} {f : DstField} (hp : partsOf i = some (h, f)) : i.head? = some h := by
  obtain ⟨d, rfl, rfl⟩ | ⟨k, opc, e, ht, rfl⟩ := partsOf_eq_some_iff.mp hp
  · rfl
  · unfold Instr.head?
    split
    · cases ht
    · rw [ht]; rfl

theorem word_of_parts {i : Instr} {h : Head} {f : DstField} (hp : partsOf i = some (h, f)) :
    i.word = some (wordOf h f) := by
  obtain ⟨d, rfl, rfl⟩ | ⟨k, opc, e, ht, rfl⟩ := partsOf_eq_some_iff.mp hp
  · rfl
  · unfold Instr.word
    split
    · cases ht
    · rw [ht]; rfl

theorem wf_of_parts {i : Instr} {h : Head} {f : DstField} (hp : partsOf i = some (h, f)) :
    i.wf = (h.wf && fieldOnBus h.bus.kind f && fieldNotPc f) := by
  obtain ⟨d, rfl, rfl⟩ | ⟨k, opc, e, ht, rfl⟩ := partsOf_eq_some_iff.mp hp
  · rfl
  · unfold Instr.wf
    split
    · cases ht
    · rw [ht]; simp [Head.wfTrig, fieldOnBus, fieldNotPc]

/-- An instruction with a head has parts. -/
theorem parts_of_head? {i : Instr} {h : Head} (hh : i.head? = some h) : ∃ f, partsOf i = some (h, f) := by
  unfold Instr.head? at hh
  split at hh
  · cases hh; exact ⟨_, rfl⟩
  · obtain ⟨⟨h, k, opc, e⟩, ht, rfl⟩ := Option.map_eq_some_iff.mp hh
    exact ⟨_, partsOf_of_trig? ht⟩

/-! ### The move word -/

/-- A move word as its two fields decode. -/
theorem decodeMove_of_fields {lits : List (BitVec 31)} {b : Bus} {w : W32} {src : Src} {f : DstField}
    (hs : decodeSrc (w.extractLsb' 14 12) lits = .ok src) (hf : decodeDst (w.extractLsb' 0 14) = .ok f) :
    decodeMove lits b w =
      match ofField ⟨b, w.extractLsb' 26 5, src⟩ f with
      | none => .error 7
      | some i => if src.onBus b.kind && fieldOnBus b.kind f then .ok i else .error 10 := by
  unfold decodeMove
  rw [hs, hf]
  cases f <;> rfl

/-- Only a word whose two fields decode decodes. -/
theorem fields_of_decodeMove {lits : List (BitVec 31)} {b : Bus} {w : W32} {i : Instr} (h : decodeMove lits b w = .ok i) :
    ∃ src f, decodeSrc (w.extractLsb' 14 12) lits = .ok src ∧ decodeDst (w.extractLsb' 0 14) = .ok f := by
  unfold decodeMove at h
  split at h
  case h_5 src f hs hf => exact ⟨src, f, hs, hf⟩
  case h_2 => split at h <;> cases h
  all_goals cases h

/-- What a word decodes to on a bus: the one instruction of that word, well-formed, on that bus, whose literals the bundle
holds. -/
theorem decodeMove_eq_ok_iff {lits : List (BitVec 31)} (b : Bus) {w : W32} (i : Instr) (hl : lits.length ≤ 7)
    (hw : w[31] = false) :
    decodeMove lits b w = .ok i ↔
      i.word = some w ∧ i.wf = true ∧ ∃ h, i.head? = some h ∧ h.bus = b ∧ readsLits lits h.src := by
  constructor
  · intro h
    obtain ⟨src, f, hs, hf⟩ := fields_of_decodeMove h
    obtain ⟨hx, hr⟩ := encodeSrc_of_decodeSrc hs
    obtain ⟨hy, hn⟩ := encodeField_of_decodeDst hf
    rw [decodeMove_of_fields hs hf] at h
    split at h
    · cases h
    rename_i j hj
    split at h <;> cases h
    rename_i hb
    have hp := ofField_eq_some_iff.mp hj
    obtain ⟨hb1, hb2⟩ := Bool.and_eq_true_iff.mp hb
    refine ⟨?_, ?_, _, head?_of_parts hp, rfl, hr⟩
    · exact (word_of_parts hp).trans (congrArg some ((eq_wordOf_iff w ⟨b, _, src⟩ f).mpr ⟨hw, rfl, hx, hy⟩).symm)
    · simp [wf_of_parts hp, Head.wf, hb1, hb2, hn, litOk_of_readsLits hl hr]
  · rintro ⟨hwd, hwf, ⟨b', g, src⟩, hh, rfl, hr⟩
    obtain ⟨f, hp⟩ := parts_of_head? hh
    rw [word_of_parts hp, Option.some_inj] at hwd
    obtain ⟨-, hg, hx, hy⟩ := (eq_wordOf_iff w _ f).mp hwd.symm
    simp only [wf_of_parts hp, Head.wf, Bool.and_eq_true] at hwf
    obtain ⟨⟨⟨hb, -⟩, hfb⟩, hn⟩ := hwf
    rw [decodeMove_of_fields (hx ▸ decodeSrc_encodeSrc hr) (hy ▸ decodeDst_encodeField hn), hg]
    simp [ofField_eq_some_iff.mpr hp, hb, hfb]
end Sys2Proof.Machine
end

section
/-! The bundle of one move: header, move word and literal words decode to just that move. -/
namespace Sys2Proof.Machine

/-! ### The bundle of one move (04 R77, R78) -/

theorem length_literals_le {src : Src} (h : src.litOk = true) : src.literals.length ≤ 7 := by
  match src with
  | .lit i lo (.sx62 hi) =>
    have : i.toNat < 6 := by simpa [Src.litOk] using h
    simp only [Src.literals, List.length_append, List.length_replicate, List.length_cons, List.length_nil]
    omega
  | .lit i lo .sx31 | .lit i lo .zx31 | .lit i lo .sh31 =>
    have : i.toNat < 7 := by simpa [Src.litOk] using h
    simp only [Src.literals, List.length_append, List.length_replicate, List.length_cons, List.length_nil]
    omega
  | .g _ | .res _ _ | .imm _ | .v _ | .p _ | .q _ | .port _ | .spec _ => exact Nat.zero_le 7

/-- Bit 31 of a literal word is 0 (04 R84). -/
theorem top_of_mem_literals {src : Src} {w : W32} (h : w ∈ src.literals) : w[31] = false := by
  match src with
  | .lit i lo (.sx62 hi) =>
    simp only [Src.literals, List.mem_append, List.mem_replicate, List.mem_cons, List.not_mem_nil, or_false] at h
    rcases h with ⟨-, rfl⟩ | rfl | rfl <;> simp
  | .lit i lo .sx31 | .lit i lo .zx31 | .lit i lo .sh31 =>
    simp only [Src.literals, List.mem_append, List.mem_replicate, List.mem_cons, List.not_mem_nil, or_false] at h
    rcases h with ⟨-, rfl⟩ | rfl <;> simp
  | .g _ | .res _ _ | .imm _ | .v _ | .p _ | .q _ | .port _ | .spec _ => cases h

/-- The literal words of a move's bundle hold what its source names. -/
theorem readsLits_literals (src : Src) : readsLits (src.literals.map (·.extractLsb' 0 31)) src := by
  have low : ∀ x : BitVec 31, (x.setWidth 32).extractLsb' 0 31 = x := fun x =>
    BitVec.eq_of_toNat_eq (by simp; omega)
  match src with
  | .lit i lo (.sx62 hi) => simp [readsLits, Src.literals, low]
  | .lit i lo .sx31 | .lit i lo .zx31 | .lit i lo .sh31 => simp [readsLits, Src.literals, low]
  | .g _ | .res _ _ | .imm _ | .v _ | .p _ | .q _ | .port _ | .spec _ => trivial

theorem headerWord_fields (m : BitVec 10) {n : Nat} (hn : n ≤ 7) (rot : Bool) :
    (headerWord m n rot).extractLsb' 21 10 = m ∧ ((headerWord m n rot).extractLsb' 18 3).toNat = n ∧
      (headerWord m n rot).getLsbD 17 = rot ∧ (headerWord m n rot).extractLsb' 0 17 = 0 := by
  obtain ⟨-, hm, hl, hr, h0⟩ := (eq_append_five_iff (s := 1) (t := 10) (u := 3) (v := 1) (w := 17)
    (headerWord m n rot) 1 m (BitVec.ofNat 3 n) (BitVec.ofBool rot) 0).mp rfl
  refine ⟨hm, ?_, (extractLsb'_one_eq_iff _ 17 rot).mp hr, h0⟩
  rw [show (headerWord m n rot).extractLsb' 18 3 = BitVec.ofNat 3 n from hl, BitVec.toNat_ofNat]
  omega

theorem busesOf_mask (b : Bus) : busesOf b.mask = [b] := by cases b <;> rfl

/-- A bundle of one move has no second destination (04 R91), and reads no second register of a bank (04 R92). -/
theorem firstDup_singleton (off : Nat) (i : Instr) : firstDup [] off [i] = none := rfl

theorem firstBank_singleton (off : Nat) (i : Instr) : firstBank none none off [i] = none := by
  unfold firstBank
  split
  · rfl
  · split <;> rfl

/-- A header of one bus, a move word that decodes on it, and literal words are a bundle of just that move. -/
theorem decodeBundle_one {b : Bus} {w : W32} {ls : List W32} {i : Instr} (hl : ls.length ≤ 7) (hw : w[31] = false)
    (ht : ∀ x ∈ ls, x[31] = false) (hd : decodeMove (ls.map (·.extractLsb' 0 31)) b w = .ok i) :
    decodeBundle (headerWord b.mask ls.length false :: w :: ls) = .ok ⟨2 + ls.length, false, ls.length, [i]⟩ := by
  obtain ⟨hm, hn, hr, h0⟩ := headerWord_fields b.mask hl false
  unfold decodeBundle
  simp only [hm, hn, hr, h0, busesOf_mask, List.length_cons, List.length_nil]
  have htop : ((w :: ls).take (0 + 1 + ls.length)).any (·.getLsbD 31) = false := by
    rw [List.take_of_length_le (by simp [Nat.add_comm])]
    simpa [hw] using ht
  have hlits : ((w :: ls).drop (0 + 1)).take ls.length = ls := by simp
  have hmoves : decodeMoves (ls.map (·.extractLsb' 0 31)) 1 [b] ((w :: ls).take (0 + 1)) = .ok [i] := by
    simp [decodeMoves, hd]
  rw [if_neg (by simp; omega), htop, hlits, hmoves]
  simp only [Bool.false_eq_true, if_false, ne_eq, not_true, firstDup_singleton, firstBank_singleton]

end Sys2Proof.Machine

open Sys2Proof Sys2Proof.Machine

/-- Settles O52: a move word and what decodes to it are tied by `decodeMove_eq_ok_iff`, and its bundle holds that word alone. -/
theorem decodeOfEncode : Obligations.DecodeOfEncode := by
  unfold Obligations.DecodeOfEncode
  intro i h hh hwf
  obtain ⟨f, hp⟩ := parts_of_head? hh
  have hw : (wordOf h f)[31] = false := ((eq_wordOf_iff _ h f).mp rfl).1
  have hlit : h.src.litOk = true := by
    simp only [wf_of_parts hp, Head.wf, Bool.and_eq_true] at hwf
    obtain ⟨⟨⟨-, hlit⟩, -⟩, -⟩ := hwf
    exact hlit
  have hlen := length_literals_le hlit
  have hd := (decodeMove_eq_ok_iff h.bus i (by simpa using hlen) hw).mpr
    ⟨word_of_parts hp, hwf, h, hh, rfl, readsLits_literals h.src⟩
  simp only [encode, hh, word_of_parts hp]
  exact decodeBundle_one hlen hw (fun _ => top_of_mem_literals) hd

/-- Settles O53: the same tie, from the decoded word. -/
theorem encodeOfDecode : Obligations.EncodeOfDecode := by
  unfold Obligations.EncodeOfDecode
  intro lits b w i hl hw hd
  obtain ⟨hword, hwf, h, hh, hb, -⟩ := (decodeMove_eq_ok_iff b i hl hw).mp hd
  exact ⟨hword, hwf, h, hh, hb⟩

/-- Settles O54: closed words, which the decoder evaluates. -/
theorem decodeWords : Obligations.DecodeWords := by
  unfold Obligations.DecodeWords
  decide +kernel
end

section
/-! Writes of special registers: the bits that each takes. -/
namespace Sys2Proof.Machine

/-- The bits that a mask of places from `i` up selects. -/
theorem and_shiftLeft (n m i : Nat) : n &&& m <<< i = (n >>> i &&& m) <<< i := by
  apply Nat.eq_of_testBit_eq
  intro j
  by_cases h : i ≤ j <;> simp [Nat.testBit_shiftLeft, Nat.testBit_shiftRight, h]

/-- RRB and LD stand in separate bits (05 R101). -/
theorem and_rrc_eq (x : W64) : (x &&& 0x3F1F).toNat = bitsN x 0 5 + bitsN x 8 6 <<< 8 := by
  have hmask : (0x3F1F : W64).toNat = (2 ^ 6 - 1) <<< 8 ||| (2 ^ 5 - 1) := by decide
  have hlow : x.toNat % 2 ^ 5 < 2 ^ 8 := by omega
  rw [bitsN, bitsN, Nat.shiftRight_zero, Nat.add_comm, Nat.shiftLeft_add_eq_or_of_lt hlow, BitVec.toNat_and, hmask,
    Nat.and_or_distrib_left, and_shiftLeft, Nat.and_two_pow_sub_one_eq_mod, Nat.and_two_pow_sub_one_eq_mod]

theorem and_or_rrc_eq (x : W64) : ((x &&& 0x1F) ||| 0x2000).toNat = bitsN x 0 5 + 32 <<< 8 := by
  have hlow : x.toNat % 2 ^ 5 < 2 ^ 8 := by omega
  rw [bitsN, Nat.shiftRight_zero, Nat.add_comm, Nat.shiftLeft_add_eq_or_of_lt hlow, BitVec.toNat_or, BitVec.toNat_and,
    Nat.or_comm, ← Nat.and_two_pow_sub_one_eq_mod]
  rfl

/-- LD is at most 32: a write of more stores 32 (05 R101). -/
theorem rrcMask_eq (x : W64) :
    rrcMask x = if 32 < bitsN x 8 6 then (x &&& 0x1F) ||| 0x2000 else x &&& 0x3F1F := by
  have hof : ∀ {n : Nat} {y : W64}, y.toNat = n → BitVec.ofNat 64 n = y := fun h => by
    rw [← h, BitVec.ofNat_toNat, BitVec.setWidth_eq]
  unfold rrcMask
  split
  case isTrue h => rw [Nat.min_eq_right (Nat.le_of_lt h)]; exact hof (and_or_rrc_eq x)
  case isFalse h => rw [Nat.min_eq_left (Nat.le_of_not_lt h)]; exact hof (and_rrc_eq x)

theorem report_sregWrite (t : Tile) (x : W64) (r : SReg) : (t.sregWrite x r).report = t.report := by
  cases r <;> rfl

/-- A move into a special register is a write of it. -/
theorem finishes_spec {s : State} {h : Head} {r : SReg} (hc : s.completes (.move h (.spec r)) = true) :
    s.finishes (.move h (.spec r)) h ((s.read h).sregWrite (s.source h).lo r) :=
  finishes_plain (exec_actOf s rfl) hc rfl (report_sregWrite _ _ r)

end Sys2Proof.Machine

open Sys2Proof Sys2Proof.Machine

/-- Settles O4: the move is the register's write, whose masks are those of the rules; RRC's, where LD is cut at 32, is
`rrcMask_eq`. -/
theorem moveWritesSpecial : Obligations.MoveWritesSpecial := by
  unfold Obligations.MoveWritesSpecial
  intro s h r hc
  have hf := finishes_spec hc
  cases r
  case rrc => simpa only [Tile.sregWrite, rrcMask_eq] using hf
  all_goals exact hf
end

section
/-! What a step does with the words at the pc. -/
namespace Sys2Proof.Machine

/-- An aligned address in the code segment whose word starts a bundle is fetched as its packet decodes (04 R74 to R76). -/
theorem fetch_of_decodeBundle {env : Env} {t : Tile} {w : W32} {b : Bundle} (h0 : 0 ≤ t.pc)
    (hl : t.pc.toNat < env.codeLen) (ha : t.pc.toNat % 4 = 0) (hw : t.codeWord t.pc.toNat = some w)
    (htop : w.getLsbD 31 = true) (hd : decodeBundle (t.packetFrom t.pc.toNat) = .ok b) : t.fetch env = .ok b := by
  have hin : ¬(t.pc < 0 ∨ (env.codeLen : Int) ≤ t.pc) := by omega
  simp only [Tile.fetch, if_neg hin, hw, ha, htop, true_and, if_true, hd]

/-- A running tile's bundle of one move word with just its literal words, nothing taken at the boundary, is that move. -/
theorem waitingMove_of_move {s : State} {b : Bundle} {i : Instr} {h : Head} (hr : (s.tile s.cur).run = .running)
    (hb : (s.tile s.cur).boundary (s.env s.cur) = none) (hf : (s.tile s.cur).fetch (s.env s.cur) = .ok b)
    (hm : b.moves = [i]) (hrot : b.rot = false) (hh : i.head? = some h) (hn : b.nlit = h.src.literals.length) :
    s.waitingMove = some i := by
  obtain ⟨len, rot, nlit, moves⟩ := b
  subst hm hrot hn
  simp [State.waitingMove, hr, hb, hf, hh]

/-- A bundle of another number of moves, or one that rotates, is no single move's. -/
theorem waitingMove_of_bundle {s : State} {b : Bundle} (hf : (s.tile s.cur).fetch (s.env s.cur) = .ok b)
    (hm : b.moves.length ≠ 1 ∨ b.rot = true) : s.waitingMove = none := by
  unfold State.waitingMove
  dsimp only
  split
  · rw [hf]
    split
    · rename_i heq
      cases heq
      simp at hm
    · rfl
  · rfl

/-- A step with an agenda whose next entry is an event. -/
theorem step_of_event {s : State} {a : Sched} {rest : List Sched} (ha : s.agenda = a :: rest) (hh : a.ev.head? = none) :
    step s = exec a.ev (s.advance a rest) := by
  simp [step, ha, hh]

theorem step_of_waitingMove {s : State} {i : Instr} (ha : s.agenda = []) (hw : s.waitingMove = some i) :
    step s = exec i s := by
  simp [step, ha, hw]

theorem step_of_no_waitingMove {s : State} (ha : s.agenda = []) (hw : s.waitingMove = none) :
    step s = .next (s.runBundle s.cur) := by
  have hx : exec (.bundleIssue s.cur) s = .next (s.runBundle s.cur) := rfl
  simp [step, ha, hw, hx]

end Sys2Proof.Machine

open Sys2Proof Sys2Proof.Machine

/-- Settles O55: the fetch answers the decoded bundle, and the step asks whether it is a single move's. -/
theorem stepRunsDecoded : Obligations.StepRunsDecoded := by
  unfold Obligations.StepRunsDecoded
  intro s t
  refine ⟨fun a rest => step_of_event, ?_⟩
  rintro ha hr hb h0 hl hal ⟨w, hw, htop⟩ b hd
  have hf := fetch_of_decodeBundle h0 hl hal hw htop hd
  exact ⟨fun i h hm hrot hh hn => step_of_waitingMove ha (waitingMove_of_move hr hb hf hm hrot hh hn),
    fun hm => step_of_no_waitingMove ha (waitingMove_of_bundle hf hm)⟩
end

section
/-! MX's start leaves what the moves of a bundle read. -/
namespace Sys2Proof.Machine

/-! ### MX's start leaves what moves read -/

/-- MX's start changes its own state and what is on its way to its port: no landed result, no latch, no pointer. -/
theorem mxStart_eq (t : Tile) :
    ∃ fixed mx, t.mxStart = { t with fixed := fixed, mx := mx } ∧
      (∀ k, (vget .empty fixed k).port = (t.fixedAt k).port) ∧
      mx.latch = t.mx.latch ∧ mx.latchTag = t.mx.latchTag ∧ mx.cursor = t.mx.cursor ∧ mx.rp = t.mx.rp := by
  have hpipe : ∀ (p : List Flight) k, ((t.setFixed 8 { t.fixedAt 8 with pipe := p }).fixedAt k).port = (t.fixedAt k).port := by
    intro p k
    by_cases hk : k = 8
    · subst hk
      simp [Tile.setFixed, Tile.fixedAt]
    · simp [Tile.setFixed, Tile.fixedAt, vget_vput_other _ _ _ hk]
  unfold Tile.mxStart
  split
  · exact ⟨t.fixed, t.mx, rfl, fun _ => rfl, rfl, rfl, rfl, rfl⟩
  dsimp only
  split
  case h_3 => exact ⟨_, _, rfl, hpipe _, rfl, rfl, rfl, rfl⟩
  case h_4 => exact ⟨_, _, rfl, hpipe _, rfl, rfl, rfl, rfl⟩
  all_goals exact ⟨t.fixed, _, rfl, fun _ => rfl, rfl, rfl, rfl, rfl⟩

theorem srcVal_mxStart (env : Env) (t : Tile) (b : BusKind) (x : Src) : t.mxStart.srcVal env b x = t.srcVal env b x := by
  obtain ⟨fixed, mx, ht, hf, h1, h2, h3, h4⟩ := mxStart_eq t
  rw [ht]
  match x with
  | .res k r =>
    have hp : ∀ i, (({ t with fixed := fixed, mx := mx } : Tile).fixedAt i).port = (t.fixedAt i).port := hf
    simp only [Tile.srcVal, hp]
    rfl
  | .port .gl => simp only [Tile.srcVal, h1, h2, h3]
  | .port .spr => simp only [Tile.srcVal, h4]
  | .g _ | .imm _ | .lit _ _ _ | .v _ | .p _ | .q _ | .port (.link _) | .port .inbox | .port (.sq _) | .spec _ => rfl

/-- A move reads the same before and after MX's start. -/
theorem evalMove_startMx (env : Env) (t : Tile) (m : Head × Act) : t.startMx.evalMove env m = t.evalMove env m := by
  unfold Tile.startMx
  split
  · rfl
  · obtain ⟨fixed, mx, ht, -⟩ := mxStart_eq t
    unfold Tile.evalMove
    rw [srcVal_mxStart, ht]
    rfl
end Sys2Proof.Machine
end

section
/-! Bundles without effect: one whose guard is false, and one that a lock holds. -/
namespace Sys2Proof.Machine

/-! ### A bundle whose effects leave the flow alone -/

/-- A bundle that leaves the tile as `v` and its books, and takes no transfer. -/
theorem finishes_of_close {s : State} {i : Instr} {h : Head} {v u : Tile} {m : Mx} {k : Nat}
    (hm : m = v.mx ∨ m = v.mx.extend) (hu : u = Tile.close { v with mx := m, nextId := v.nextId + k } s.header)
    (hr : v.report = s.landed.report)
    (he : exec i s = .next (s.settled (Tile.flowOn s.landed u s.header (2 + h.src.literals.length)))) :
    s.finishes i h v := by
  obtain ⟨g, f, hx, -, -⟩ := close_eq { v with mx := m, nextId := v.nextId + k } s.header
  have hlc : u.lc = v.lc := by rw [hu, hx]
  have hle : u.le = v.le := by rw [hu, hx]
  have hls : u.ls = v.ls := by rw [hu, hx]
  obtain ⟨lc, pc, via, hf⟩ := flowOn_eq s.landed u s.header (2 + h.src.literals.length)
  obtain ⟨b, hb, h1, h2, h3, hs⟩ := settled_books hm hu hf hr
  have hloop := flowOn_loop s.landed u v s.header (2 + h.src.literals.length) hlc hle hls
  rw [hf, ← h1, ← h2, ← h3] at hloop
  refine ⟨b, ⟨hb, fun hn => ?_, hloop.1, hloop.2⟩, by rw [he, hs]⟩
  have hseq := flowOn_seq s.landed u s.header (2 + h.src.literals.length) fun n hlt ha =>
    (show u.leAt n = v.leAt n by simp only [Tile.leAt, hle]) ▸ hn n hlt (hlc ▸ ha)
  rw [hf] at hseq
  exact ⟨h1.trans ((congrArg Tile.lc hseq).trans hlc), h2.trans (congrArg Tile.pc hseq), h3.trans (congrArg Tile.via hseq)⟩

/-! ### A false guard (04 R82) -/

theorem evalMove_of_off {s : State} {h : Head} (hg : s.gateOf h = .off) (a : Act) : s.landed.evalMove s.view (h, a) = none := by
  simp only [State.gateOf, State.source] at hg
  simp only [Tile.evalMove, hg]

theorem ending_of_off {s : State} {h : Head} (hg : s.gateOf h = .off) (a : Act) : s.ending h a = false := by
  have he : s.opening.landings.1.evalMove s.view (h, a) = none := by
    rw [← evalMove_startMx]
    exact evalMove_of_off hg a
  simp [State.ending, Tile.ending, he]

theorem found_of_off {s : State} {h : Head} (hg : s.gateOf h = .off) (a : Act) : s.found h a = s.landed := by
  have he := ending_of_off hg a
  simp only [State.ending] at he
  simp only [State.found, Tile.begin, he, State.landed, Bool.false_eq_true, if_false]

theorem moves_of_off {s : State} {h : Head} (hg : s.gateOf h = .off) (a : Act) : s.moves h a = [] := by
  simp [State.moves, found_of_off hg a, evalMove_of_off hg a]

/-- A bundle of no move raises no lock of its own. -/
theorem locksOf_of_off {s : State} {h : Head} (hg : s.gateOf h = .off) (a : Act) :
    s.locksOf h a = s.opening.landings.1.boundLocks s.view false := by
  simp [State.locksOf, ending_of_off hg a, moves_of_off hg a, portLocks, trigLocks]

theorem mxErrorTrap_eq_none {t : Tile} (h : t.inh = true ∨ t.mxError = false) : t.mxErrorTrap = none := by
  rcases h with h | h <;> simp [Tile.mxErrorTrap, h]

/-- A bundle of no move has no cause but MX's load and a data-lock collision. -/
theorem firstCause_nil {env : Env} {t u : Tile} {ctx : Mv → TrigSpec → TCtx} (ht : t.mxErrorTrap = none) :
    firstCause env t u [] ctx [] = none := by
  simp [firstCause, earlyCause, firstTrap, overrun, ht]

theorem effects_nil (u : Tile) (ctx : Mv → TrigSpec → TCtx) (h : Nat) : u.effects ctx false h [] = u.close h := by
  have hf : firing [] = [] := rfl
  have hx : extendMx u [] = u := by simp [extendMx]
  simp only [Tile.effects, hf, popAll, writeAll, fireAll, lateAll, List.map_nil, List.foldl_nil, List.zipIdx_nil,
    Bool.false_eq_true, if_false]
  exact congrArg (fun v => Tile.close v h) hx

/-- What a bundle of no move leaves: its books alone. -/
theorem solo_of_off {s : State} {h : Head} (a : Act) (hg : s.gateOf h = .off) (hc : s.considers = true)
    (hl : s.opening.landings.1.boundLocks s.view false = 0) (hd : s.opening.landings.2 = [])
    (he : s.opening.inh = true ∨ s.opening.mxError = false) :
    s.opening.solo s.view h a =
      .next (Tile.flowOn s.landed (s.landed.close s.header) s.header (2 + h.src.literals.length)) := by
  rw [solo_of_considers h a hc, locksOf_of_off hg a, hl, if_neg (by simp), moves_of_off hg a, hd,
    firstCause_nil (mxErrorTrap_eq_none he), found_of_off hg a, effects_nil]
  rfl

/-! ### A held bundle (02 R40, R46) -/

/-- The collision of a locked bundle ends it with the first cause there is, and with its own where there is no other. -/
theorem heldCause_of_overrun {env : Env} {t u : Tile} {cs : List Nat} {ctx : Mv → TrigSpec → TCtx} {ms : List Mv}
    (ho : overrun cs ms = true) :
    ∃ x, heldCause env t u cs ctx ms = some x ∧ (∀ y, earlyCause t u ms = some y → x = y) ∧
      (earlyCause t u ms = none → ∀ y, t.mxErrorTrap = some y → x = y) ∧
      (earlyCause t u ms = none → t.mxErrorTrap = none →
        ∀ m, ms = [m] → ∀ y, heldTrap env u ctx ms m = some y → x = y) ∧
      (earlyCause t u ms = none → t.mxErrorTrap = none → (∀ m ∈ ms, heldTrap env u ctx ms m = none) → x.code = 0x07) := by
  refine ⟨_, if_pos ho, fun y h1 => ?_, fun h1 y h2 => ?_, fun h1 h2 m hm y h3 => ?_, fun h1 h2 h3 => ?_⟩
  · simp [h1, firstTrap]
  · simp [h1, h2, firstTrap]
  · subst hm
    simp [h1, h2, h3, firstTrap]
  · simp [h1, h2, List.findSome?_eq_none_iff.mpr h3, firstTrap]

theorem causeOf_of_locked {s : State} {h : Head} {a : Act} (hl : s.locksOf h a ≠ 0) :
    s.causeOf h a =
      heldCause s.view s.opening (s.found h a) s.opening.landings.2 (s.ctxOf h a) (s.moves h a) := if_neg hl

/-- A locked bundle with no collision left waits. -/
theorem runMove_of_locked {s : State} {h : Head} {a : Act} (hc : s.considers = true) (hl : s.locksOf h a ≠ 0)
    (ho : overrun s.opening.landings.2 (s.moves h a) = false) : s.runMove h a = s.waits := by
  have hn : s.causeOf h a = none := by simp [causeOf_of_locked hl, heldCause, ho]
  exact runMove_waits hc fun w => by simp [solo_of_locked hc hl hn]

theorem traps_of_causeOf {s : State} {h : Head} {a : Act} {x : Trap} (hc : s.considers = true)
    (hx : s.causeOf h a = some x) : s.traps h a x = true := by
  simp [State.traps, hc, hx]

/-- Of a false guard's bundle there is no move, so that its books are all it leaves. -/
theorem falseGuardHasNoEffect : Claims.FalseGuardHasNoEffect := by
  intro s i h a hi hg hc hl hd he
  refine finishes_of_close (m := s.landed.mx) (k := 0) (.inl rfl) rfl rfl ?_
  rw [exec_actOf s hi, runMove_solo h a hc, solo_of_off a hg hc hl hd he]
  rfl

theorem lockedBundleWaits : Claims.LockedBundleWaits := by
  intro s i h a hi hc hl
  refine ⟨fun ho => by rw [exec_actOf s hi, runMove_of_locked hc hl ho], fun ho => ?_⟩
  obtain ⟨x, hx, hcauses⟩ := heldCause_of_overrun (env := s.view) (t := s.opening) (u := s.found h a) (ctx := s.ctxOf h a) ho
  exact ⟨x, traps_of_causeOf hc ((causeOf_of_locked hl).trans hx), hcauses⟩

end Sys2Proof.Machine

open Sys2Proof.Machine

/-- Settles O6: a false guard leaves no move to evaluate, before MX's start or after it; a held bundle waits, or takes the first
cause that its collision brings. -/
theorem bundlesWithoutEffect : Obligations.BundlesWithoutEffect :=
  ⟨falseGuardHasNoEffect, lockedBundleWaits⟩
end
